-- ==== Sys2Proof/Word.lean ====
section
/-! DEFINITION. The word types of the model and their plainest arithmetic. -/

namespace Sys2Proof

/-- A byte of a memory or of a message. -/
abbrev Byte := BitVec 8

/-- A 64-bit word of a cell (R86), of a message (R135) and of an engine (R216). -/
abbrev Word := BitVec 64

end Sys2Proof
end

