-- ==== Sys2Proof/Machine/Bank.lean ====
section
/-! DEFINITION. Sparse tables in one canonical form: keys strictly rising, and no entry equal to what an unlisted
key reads as.  Every memory, dictionary and array of like units of the model is one of these. -/

namespace Sys2Proof.Machine

/-- A sparse table: (key, value) pairs, keys strictly rising. -/
abbrev Bank (α : Type) := List (Nat × α)

/-- The value at `k`, or `none` when the key is not listed. -/
def Bank.find? {α : Type} : Bank α → Nat → Option α
  | [], _ => none
  | (k', v) :: b, k => if k' = k then some v else Bank.find? b k

/-- The value at `k`; an unlisted key reads as `d`. -/
def Bank.get {α : Type} (d : α) (b : Bank α) (k : Nat) : α := (Bank.find? b k).getD d

/-- The table without key `k`, wherever it stands. -/
def Bank.erase {α : Type} : Bank α → Nat → Bank α
  | [], _ => []
  | (k', v) :: b, k => if k' = k then Bank.erase b k else (k', v) :: Bank.erase b k

/-- The table with `v` at `k`, keys kept rising. -/
def Bank.insert {α : Type} : Bank α → Nat → α → Bank α
  | [], k, v => [(k, v)]
  | (k', v') :: b, k, v =>
    if k' = k then (k, v) :: b
    else if k < k' then (k, v) :: (k', v') :: b
    else (k', v') :: Bank.insert b k v

/-- Write `v` at `k`.  Writing what an unlisted key reads as removes the entry, so equal tables are equal lists. -/
def Bank.set {α : Type} [DecidableEq α] (d : α) (b : Bank α) (k : Nat) (v : α) : Bank α :=
  if v = d then Bank.erase b k else Bank.insert b k v

/-- Apply `f` to the value at `k`. -/
def Bank.upd {α : Type} [DecidableEq α] (d : α) (b : Bank α) (k : Nat) (f : α → α) : Bank α :=
  Bank.set d b k (f (Bank.get d b k))

/-- Apply `f` to every listed value (`f` keeps the value of an unlisted key), dropping what becomes `d`. -/
def Bank.mapVals {α : Type} [DecidableEq α] (d : α) (f : Nat → α → α) (b : Bank α) : Bank α :=
  b.filterMap fun p => if f p.1 p.2 = d then none else some (p.1, f p.1 p.2)

/-- Keys strictly rising, all above `lo`, no entry equal to `d`. -/
def Bank.wfFrom {α : Type} [DecidableEq α] (d : α) : Option Nat → Bank α → Bool
  | _, [] => true
  | lo, (k, v) :: b => (match lo with | none => true | some l => decide (l < k)) && decide (v ≠ d) && Bank.wfFrom d (some k) b

/-- The canonical form of a table whose unlisted keys read as `d`. -/
def Bank.wf {α : Type} [DecidableEq α] (d : α) (b : Bank α) : Bool := Bank.wfFrom d none b

/-! ## Little-endian tables held in one number (R7) -/

/-- Entry `i`, of `w` bits, of a table held in one number, little-endian. -/
def entryGet (w : Nat) (t : Nat) (i : Nat) : Nat := t / 2 ^ (w * i) % 2 ^ w

/-- The table with entry `i`, of `w` bits, replaced by `v`. -/
def entrySet (w : Nat) (t : Nat) (i : Nat) (v : Nat) : Nat :=
  t % 2 ^ (w * i) + v % 2 ^ w * 2 ^ (w * i) + t / 2 ^ (w * (i + 1)) * 2 ^ (w * (i + 1))

/-- The table with `f` applied to entry `i`. -/
def entryUpd (w : Nat) (t : Nat) (i : Nat) (f : Nat → Nat) : Nat := entrySet w t i (f (entryGet w t i))

/-- The bits `hi` down to `lo` of a number (R6). -/
def bits (v : Nat) (hi lo : Nat) : Nat := v / 2 ^ lo % 2 ^ (hi + 1 - lo)

/-- Bit `n` of a number. -/
def bitAt (v : Nat) (n : Nat) : Bool := v / 2 ^ n % 2 = 1

/-- The number with bit `n` set to `b`. -/
def setBit (v n : Nat) (b : Bool) : Nat := entrySet 1 v n (if b then 1 else 0)

/-- A Bool as one bit. -/
def b1 (b : Bool) : Nat := if b then 1 else 0

/-- The two's complement reading of a `w`-bit number (R299). -/
def toSigned (w : Nat) (v : Nat) : Int := if v % 2 ^ w < 2 ^ (w - 1) then (v % 2 ^ w : Nat) else (v % 2 ^ w : Nat) - (2 ^ w : Nat)

/-- The two's complement `w`-bit number of an integer. -/
def ofSigned (w : Nat) (i : Int) : Nat := (i % (2 ^ w : Nat)).toNat

/-- The `n` low bytes of a number, lowest first (R7). -/
def toBytes : Nat → Nat → List Nat
  | 0, _ => []
  | n + 1, v => v % 256 :: toBytes n (v / 256)

/-- The number that bytes spell, lowest first (R7). -/
def ofBytes : List Nat → Nat
  | [] => 0
  | b :: bs => b % 256 + 256 * ofBytes bs

/-- Add to an event counter of `w` bits: it saturates at its all-ones value (R9). -/
def satAdd (w : Nat) (c n : Nat) : Nat := min (c + n) (2 ^ w - 1)

/-- Round a quotient to nearest, halves toward plus infinity (R505). -/
def roundDiv (n : Int) (d : Nat) : Int := (2 * n + d) / (2 * d)

/-- Ones of a mask of `n` bits. -/
def popcount : Nat → Nat → Nat
  | 0, _ => 0
  | n + 1, v => v % 2 + popcount n (v / 2)

/-- A value `n / d` in a coarser unit: to the nearest, a half upward (R505). -/
def nearest (n d : Nat) : Nat := (roundDiv n d).toNat

end Sys2Proof.Machine
end

