-- ==== Sys2Proof/Machine/Objects.lean ====
section
/-! DEFINITION. The object dictionaries of both parts (R298-R300, R325, R326): one `Obj` per object, with the
index, sub-indices, length, access, default, range and persistence that its card in the spec gives. -/

namespace Sys2Proof.Machine

/-- The access types of R300. -/
inductive Access where
  | ro | rw | wo | const | rwl
  deriving DecidableEq, Repr

/-- One row of an object card.  `count` sub-indices from `sub` on share the row.  `dflts` are the defaults, the last
standing for all later sub-indices.  `entry` is the width in bytes of a table's entries (0: the value is one entry),
`mask` what is not reserved in an entry (R8; none: all of it), `range` the values an entry may take (two's complement
where `signed`).  `counter` marks an event counter (R9), `upTo` a DOMAIN whose length is a bound. -/
structure Obj where
  index : Nat
  sub : Nat := 0
  count : Nat := 1
  bytes : Nat
  access : Access
  dflts : List Nat := [0]
  counter : Bool := false
  entry : Nat := 0
  mask : Option Nat := none
  range : Option (Int × Int) := none
  signed : Bool := false
  persist : Bool := false
  upTo : Bool := false
  deriving DecidableEq, Repr

/-- The default of sub-index `o.sub + i`. -/
def Obj.dflt (o : Obj) (i : Nat) : Nat := (o.dflts[i]?).getD (o.dflts.getLastD 0)

/-- The key of sub-index `o.sub + i` in a dictionary's bank: index times 256 plus the sub-index. -/
def Obj.key (o : Obj) (i : Nat := 0) : Nat := o.index * 256 + o.sub + i

/-- A dictionary's values.  An object not listed holds its default (R11). -/
abbrev Od := Bank Nat

/-- The value of sub-index `o.sub + i`. -/
def Od.val (d : Od) (o : Obj) (i : Nat := 0) : Nat := Bank.get (o.dflt i) d (o.key i)

/-- Set the value of sub-index `o.sub + i`. -/
def Od.put (d : Od) (o : Obj) (v : Nat) (i : Nat := 0) : Od := Bank.set (o.dflt i) d (o.key i) v

/-- `n` little-endian entries of `w` bytes, each `v` (R7). -/
def rep : Nat → Nat → Nat → Nat
  | 0, _, _ => 0
  | n + 1, w, v => v + rep n w v * 2 ^ (8 * w)

/-- `n` little-endian entries of `w` bytes counting up from `v`. -/
def countUp : Nat → Nat → Nat → Nat
  | 0, _, _ => 0
  | n + 1, w, v => v + countUp n w (v + 1) * 2 ^ (8 * w)

/-- The sub-index 00 of a record: const, the highest sub-index present (R298). -/
def sub0 (index highest : Nat) : Obj := { index := index, bytes := 1, access := .const, dflts := [highest] }

namespace O

/-- `ThresholdTiming`, 0x2010:00, R38 (front-end). -/
def thresholdTiming : Obj :=
  { index := 0x2010, bytes := 512, access := .rw, dflts := [rep 256 2 0x14], entry := 2, mask := some 0x3ff, persist := true }

/-- `ThresholdValidation`, 0x2011:00, R38 (front-end). -/
def thresholdValidation : Obj :=
  { index := 0x2011, bytes := 512, access := .rw, dflts := [rep 256 2 0x28], entry := 2, mask := some 0x3ff, persist := true }

/-- `BiasTrim`, 0x2012:00, R38 (front-end). -/
def biasTrim : Obj :=
  { index := 0x2012, bytes := 256, access := .rw, persist := true }

/-- `ChannelMode`, 0x2013:00, R38 (front-end). -/
def channelMode : Obj :=
  { index := 0x2013, bytes := 256, access := .rw, dflts := [rep 256 1 0xa], entry := 1, mask := some 0x1f, persist := true }

/-- `ValidationWindow`, 0x2014:00, R38 (front-end). -/
def validationWindow : Obj :=
  { index := 0x2014, bytes := 1, access := .rw, dflts := [12], range := some (3, 48), persist := true }

/-- `SpareAssignGroup0–SpareAssignGroup15`, 0x2015:01-10, R38 (front-end). -/
def spareAssignGroup : Obj :=
  { index := 0x2015, sub := 0x01, count := 16, bytes := 1, access := .rw, dflts := [0xff], persist := true }

/-- `SpareStatusGroup0–SpareStatusGroup15`, 0x2016:01-10, R38 (front-end). -/
def spareStatusGroup : Obj :=
  { index := 0x2016, sub := 0x01, count := 16, bytes := 4, access := .ro }

/-- `BaselineStatus`, 0x2017:00, R38 (front-end). -/
def baselineStatus : Obj :=
  { index := 0x2017, bytes := 256, access := .ro }

/-- `ChannelLive`, 0x2018:00, R38 (front-end). -/
def channelLive : Obj :=
  { index := 0x2018, bytes := 32, access := .ro, dflts := [2 ^ 256 - 1] }

/-- `GroupPowerMode0–GroupPowerMode15`, 0x2008:01-10, R66 (front-end). -/
def groupPowerMode : Obj :=
  { index := 0x2008, sub := 0x01, count := 16, bytes := 1, access := .rw, range := some (0, 2), persist := true }

/-- `GroupIdleTime`, 0x2009:00, R66 (front-end). -/
def groupIdleTime : Obj :=
  { index := 0x2009, bytes := 2, access := .rw, dflts := [10], range := some (1, 65535), persist := true }

/-- `GroupRequest`, 0x200A:00, R66 (front-end). -/
def groupRequest : Obj :=
  { index := 0x200A, bytes := 4, access := .wo }

/-- `GroupAwake`, 0x200B:00, R66 (front-end). -/
def groupAwake : Obj :=
  { index := 0x200B, bytes := 4, access := .ro }

/-- `TdcGroupStatus0–TdcGroupStatus15`, 0x2020:01-10, R66 (front-end). -/
def tdcGroupStatus : Obj :=
  { index := 0x2020, sub := 0x01, count := 16, bytes := 4, access := .ro }

/-- `TimeOffset`, 0x2021:00, R66 (front-end). -/
def timeOffset : Obj :=
  { index := 0x2021, bytes := 512, access := .rw, persist := true }

/-- `WalkTable`, 0x2022:00, R66 (front-end). -/
def walkTable : Obj :=
  { index := 0x2022, bytes := 2048, access := .rw, persist := true }

/-- `WalkEnable`, 0x2023:00, R66 (front-end). -/
def walkEnable : Obj :=
  { index := 0x2023, bytes := 2, access := .rw, dflts := [0x0], persist := true }

/-- `HistogramExponent`, 0x2024:01, R66 (front-end). -/
def histogramExponent : Obj :=
  { index := 0x2024, sub := 0x01, bytes := 1, access := .rw, dflts := [16], range := some (12, 20), persist := true }

/-- `RateFloor`, 0x2024:02, R66 (front-end). -/
def rateFloor : Obj :=
  { index := 0x2024, sub := 0x02, bytes := 2, access := .rw, dflts := [1000], persist := true }

/-- `StaleTime`, 0x2024:03, R66 (front-end). -/
def staleTime : Obj :=
  { index := 0x2024, sub := 0x03, bytes := 2, access := .rw, dflts := [600], persist := true }

/-- `Freeze`, 0x2024:04, R66 (front-end). -/
def freeze : Obj :=
  { index := 0x2024, sub := 0x04, bytes := 2, access := .rw, dflts := [0x0] }

/-- `PulserRate`, 0x2025:01, R66 (front-end). -/
def pulserRate : Obj :=
  { index := 0x2025, sub := 0x01, bytes := 1, access := .rw, dflts := [4], range := some (0, 6), persist := true }

/-- `PulserForce`, 0x2025:02, R66 (front-end). -/
def pulserForce : Obj :=
  { index := 0x2025, sub := 0x02, bytes := 2, access := .rw, dflts := [0x0] }

/-- `CulletTableSelect`, 0x2026:00, R66 (front-end). -/
def culletTableSelect : Obj :=
  { index := 0x2026, bytes := 1, access := .rw }

/-- `CulletTableData`, 0x2027:00, R66 (front-end). -/
def culletTableData : Obj :=
  { index := 0x2027, bytes := 512, access := .rw, entry := 2, mask := some 0x1fff, range := some (0, 4096) }

/-- `CulletStatus`, 0x2028:00, R66 (front-end). -/
def culletStatus : Obj :=
  { index := 0x2028, bytes := 1024, access := .ro }

/-- `EpochState`, 0x2029:01, R66 (front-end). -/
def epochState : Obj :=
  { index := 0x2029, sub := 0x01, bytes := 1, access := .ro }

/-- `CurrentSecond`, 0x2029:02, R66 (front-end). -/
def currentSecond : Obj :=
  { index := 0x2029, sub := 0x02, bytes := 4, access := .ro }

/-- `LastEpochLength`, 0x2029:03, R66 (front-end). -/
def lastEpochLength : Obj :=
  { index := 0x2029, sub := 0x03, bytes := 4, access := .ro }

/-- `FlywheelEpochs`, 0x2029:04, R66 (front-end). -/
def flywheelEpochs : Obj :=
  { index := 0x2029, sub := 0x04, bytes := 4, access := .rw, counter := true }

/-- `DoublePulseRejects0–DoublePulseRejects15`, 0x202A:01-10, R66 (front-end). -/
def doublePulseRejects : Obj :=
  { index := 0x202A, sub := 0x01, count := 16, bytes := 4, access := .rw, counter := true }

/-- `SlotDelay`, 0x202B:00, R66 (front-end). -/
def slotDelay : Obj :=
  { index := 0x202B, bytes := 272, access := .ro }

/-- `PulserCollisions`, 0x202C:00, R66 (front-end). -/
def pulserCollisions : Obj :=
  { index := 0x202C, bytes := 4, access := .rw, counter := true }

/-- `RateLimit`, 0x2030:01, R93 (front-end). -/
def rateLimit : Obj :=
  { index := 0x2030, sub := 0x01, bytes := 1, access := .rw, dflts := [32], persist := true }

/-- `RateMaxExponent`, 0x2030:02, R93 (front-end). -/
def rateMaxExponent : Obj :=
  { index := 0x2030, sub := 0x02, bytes := 1, access := .rw, dflts := [8], range := some (0, 8), persist := true }

/-- `RateExponent`, 0x2031:00, R93 (front-end). -/
def rateExponent : Obj :=
  { index := 0x2031, bytes := 256, access := .ro }

/-- `LostHits`, 0x2032:00, R93 (front-end). -/
def lostHits : Obj :=
  { index := 0x2032, bytes := 1024, access := .rw, counter := true }

/-- `SorterStatus0–SorterStatus15`, 0x2033:01-10, R93 (front-end). -/
def sorterStatus : Obj :=
  { index := 0x2033, sub := 0x01, count := 16, bytes := 4, access := .ro }

/-- `CorrectedErrors`, 0x2034:01, R93 (front-end). -/
def correctedErrors : Obj :=
  { index := 0x2034, sub := 0x01, bytes := 4, access := .rw, counter := true }

/-- `UncorrectedErrors`, 0x2034:02, R93 (front-end). -/
def uncorrectedErrors : Obj :=
  { index := 0x2034, sub := 0x02, bytes := 4, access := .rw, counter := true }

/-- `ScalerInterval`, 0x2035:01, R93 (front-end). -/
def scalerInterval : Obj :=
  { index := 0x2035, sub := 0x01, bytes := 1, access := .rw, dflts := [10], range := some (0, 15), persist := true }

/-- `ScalerExponent`, 0x2035:02, R93 (front-end). -/
def scalerExponent : Obj :=
  { index := 0x2035, sub := 0x02, bytes := 1, access := .rw, range := some (0, 10), persist := true }

/-- `ScalerSource`, 0x2035:03, R93 (front-end). -/
def scalerSource : Obj :=
  { index := 0x2035, sub := 0x03, bytes := 1, access := .rw, range := some (0, 2), persist := true }

/-- `ScalerEnable`, 0x2035:04, R93 (front-end). -/
def scalerEnable : Obj :=
  { index := 0x2035, sub := 0x04, bytes := 1, access := .rw, dflts := [1], range := some (0, 1), persist := true }

/-- `ScalerRead`, 0x2036:00, R93 (front-end). -/
def scalerRead : Obj :=
  { index := 0x2036, bytes := 1024, access := .ro }

/-- `StreamStatus`, 0x2037:01, R93 (front-end). -/
def streamStatus : Obj :=
  { index := 0x2037, sub := 0x01, bytes := 1, access := .ro }

/-- `KeepAliveCells`, 0x2037:02, R93 (front-end). -/
def keepAliveCells : Obj :=
  { index := 0x2037, sub := 0x02, bytes := 4, access := .rw, counter := true }

/-- `CalibrationRecords`, 0x2038:00, R93 (front-end). -/
def calibrationRecords : Obj :=
  { index := 0x2038, bytes := 1, access := .rw, dflts := [1], range := some (0, 1), persist := true }

/-- `LaneState`, 0x2300:00, R117 (concentrator). -/
def laneState : Obj :=
  { index := 0x2300, bytes := 164, access := .ro }

/-- `LaneControl`, 0x2301:00, R117 (concentrator). -/
def laneControl : Obj :=
  { index := 0x2301, bytes := 164, access := .rw, dflts := [rep 164 1 1], entry := 1, mask := some 0x1f, persist := true }

/-- `DownlinkEmphasis`, 0x2302:00, R117 (concentrator). -/
def downlinkEmphasis : Obj :=
  { index := 0x2302, bytes := 96, access := .rw, dflts := [rep 48 2 0x80], entry := 2, mask := some 0x1ff, persist := true }

/-- `LaneErrors`, 0x2303:00, R117 (concentrator). -/
def laneErrors : Obj :=
  { index := 0x2303, bytes := 1312, access := .rw }

/-- `PrbsErrors`, 0x2304:00, R117 (concentrator). -/
def prbsErrors : Obj :=
  { index := 0x2304, bytes := 656, access := .rw, counter := true }

/-- `PrbsLocked`, 0x2305:00, R117 (concentrator). -/
def prbsLocked : Obj :=
  { index := 0x2305, bytes := 21, access := .ro }

/-- `TrainDwell`, 0x2306:01, R117 (concentrator). -/
def trainDwell : Obj :=
  { index := 0x2306, sub := 0x01, bytes := 1, access := .rw, dflts := [1], range := some (1, 3), persist := true }

/-- `TrainResult`, 0x2307:00, R117 (concentrator). -/
def trainResult : Obj :=
  { index := 0x2307, bytes := 80, access := .ro }

/-- `QuadStatus`, 0x2308:00, R117 (concentrator). -/
def quadStatus : Obj :=
  { index := 0x2308, bytes := 82, access := .ro }

/-- `BackEndMap`, 0x2309:00, R117 (concentrator). -/
def backEndMap : Obj :=
  { index := 0x2309, bytes := 16, access := .ro, dflts := [countUp 16 1 0] }

/-- `DownlinkStateA, DownlinkStateB`, 0x2040:01-02, R118 (front-end). -/
def downlinkState : Obj :=
  { index := 0x2040, sub := 0x01, count := 2, bytes := 1, access := .ro, dflts := [1] }

/-- `UplinkEmphasisA0–UplinkEmphasisB1`, 0x2041:01-04, R118 (front-end). -/
def uplinkEmphasis : Obj :=
  { index := 0x2041, sub := 0x01, count := 4, bytes := 2, access := .rw, dflts := [0x80], mask := some 0x1ff, persist := true }

/-- `BadMarkersA, BadMarkersB`, 0x2042:01-02, R118 (front-end). -/
def badMarkers : Obj :=
  { index := 0x2042, sub := 0x01, count := 2, bytes := 4, access := .rw, counter := true }

/-- `RealignsA, RealignsB`, 0x2042:03-04, R118 (front-end). -/
def realigns : Obj :=
  { index := 0x2042, sub := 0x03, count := 2, bytes := 4, access := .rw, counter := true }

/-- `UplinkPrbsMode`, 0x2043:01, R118 (front-end). -/
def uplinkPrbsMode : Obj :=
  { index := 0x2043, sub := 0x01, bytes := 2, access := .rw }

/-- `DownlinkPrbsMode`, 0x2043:02, R118 (front-end). -/
def downlinkPrbsMode : Obj :=
  { index := 0x2043, sub := 0x02, bytes := 1, access := .rw }

/-- `PrbsErrorsA, PrbsErrorsB`, 0x2043:03-04, R118 (front-end). -/
def fePrbsErrors : Obj :=
  { index := 0x2043, sub := 0x03, count := 2, bytes := 4, access := .rw, counter := true }

/-- `PrbsDuration`, 0x2043:05, R118 (front-end). -/
def prbsDuration : Obj :=
  { index := 0x2043, sub := 0x05, bytes := 2, access := .rw, dflts := [10], range := some (1, 3600), persist := true }

/-- `TimeSeconds`, 0x2200:01, R171 (concentrator). -/
def timeSeconds : Obj :=
  { index := 0x2200, sub := 0x01, bytes := 6, access := .ro }

/-- `TimeNanoseconds`, 0x2200:02, R171 (concentrator). -/
def timeNanoseconds : Obj :=
  { index := 0x2200, sub := 0x02, bytes := 4, access := .ro }

/-- `TimeFraction`, 0x2200:03, R171 (concentrator). -/
def timeFraction : Obj :=
  { index := 0x2200, sub := 0x03, bytes := 4, access := .ro }

/-- `IncrementBase`, 0x2201:01, R171 (concentrator). -/
def incrementBase : Obj :=
  { index := 0x2201, sub := 0x01, bytes := 5, access := .rw, dflts := [0xaaaaaaaab], range := some (45767171507, 45858797475), persist := true }

/-- `IncrementAo`, 0x2201:02, R171 (concentrator). -/
def incrementAo : Obj :=
  { index := 0x2201, sub := 0x02, bytes := 5, access := .rw, dflts := [0x7735940000], range := some (511488000000, 512512000000), persist := true }

/-- `IncrementInUse`, 0x2201:03, R171 (concentrator). -/
def incrementInUse : Obj :=
  { index := 0x2201, sub := 0x03, bytes := 5, access := .ro, dflts := [0xaaaaaaaab] }

/-- `TimeStateCode`, 0x2202:01, R171 (concentrator). -/
def timeStateCode : Obj :=
  { index := 0x2202, sub := 0x01, bytes := 1, access := .ro }

/-- `TimeFlags`, 0x2202:02, R171 (concentrator). -/
def timeFlags : Obj :=
  { index := 0x2202, sub := 0x02, bytes := 2, access := .ro }

/-- `AlignSeconds`, 0x2202:03, R171 (concentrator). -/
def alignSeconds : Obj :=
  { index := 0x2202, sub := 0x03, bytes := 6, access := .rw }

/-- `AlignArm`, 0x2202:04, R171 (concentrator). -/
def alignArm : Obj :=
  { index := 0x2202, sub := 0x04, bytes := 1, access := .rw, range := some (0, 1) }

/-- `PpsPolarity`, 0x2202:05, R171 (concentrator). -/
def ppsPolarity : Obj :=
  { index := 0x2202, sub := 0x05, bytes := 1, access := .rw, range := some (0, 1), persist := true }

/-- `PpsRejected`, 0x2202:06, R171 (concentrator). -/
def ppsRejected : Obj :=
  { index := 0x2202, sub := 0x06, bytes := 4, access := .rw, counter := true }

/-- `PpsMissed`, 0x2202:07, R171 (concentrator). -/
def ppsMissed : Obj :=
  { index := 0x2202, sub := 0x07, bytes := 4, access := .rw, counter := true }

/-- `PpsSeconds`, 0x2203:01, R171 (concentrator). -/
def ppsSeconds : Obj :=
  { index := 0x2203, sub := 0x01, bytes := 6, access := .ro }

/-- `PpsNanoseconds`, 0x2203:02, R171 (concentrator). -/
def ppsNanoseconds : Obj :=
  { index := 0x2203, sub := 0x02, bytes := 4, access := .ro }

/-- `PpsFraction`, 0x2203:03, R171 (concentrator). -/
def ppsFraction : Obj :=
  { index := 0x2203, sub := 0x03, bytes := 4, access := .ro }

/-- `PpsVerdict`, 0x2203:04, R171 (concentrator). -/
def ppsVerdict : Obj :=
  { index := 0x2203, sub := 0x04, bytes := 1, access := .ro }

/-- `TiuMode`, 0x2204:01, R171 (concentrator). -/
def tiuMode : Obj :=
  { index := 0x2204, sub := 0x01, bytes := 1, access := .rw, dflts := [1], range := some (0, 2) }

/-- `TiuPort`, 0x2204:02, R171 (concentrator). -/
def tiuPort : Obj :=
  { index := 0x2204, sub := 0x02, bytes := 1, access := .rw, range := some (0, 47) }

/-- `TiuSamples`, 0x2204:03, R171 (concentrator). -/
def tiuSamples : Obj :=
  { index := 0x2204, sub := 0x03, bytes := 2, access := .rw, dflts := [4096], range := some (1, 65535) }

/-- `TiuGateSource`, 0x2204:04, R171 (concentrator). -/
def tiuGateSource : Obj :=
  { index := 0x2204, sub := 0x04, bytes := 1, access := .rw, range := some (0, 1) }

/-- `TiuRun`, 0x2204:05, R171 (concentrator). -/
def tiuRun : Obj :=
  { index := 0x2204, sub := 0x05, bytes := 1, access := .wo, range := some (0, 1) }

/-- `TiuMean`, 0x2205:01, R171 (concentrator). -/
def tiuMean : Obj :=
  { index := 0x2205, sub := 0x01, bytes := 8, access := .ro }

/-- `TiuStdDev`, 0x2205:02, R171 (concentrator). -/
def tiuStdDev : Obj :=
  { index := 0x2205, sub := 0x02, bytes := 4, access := .ro }

/-- `TiuMin`, 0x2205:03, R171 (concentrator). -/
def tiuMin : Obj :=
  { index := 0x2205, sub := 0x03, bytes := 4, access := .ro }

/-- `TiuMax`, 0x2205:04, R171 (concentrator). -/
def tiuMax : Obj :=
  { index := 0x2205, sub := 0x04, bytes := 4, access := .ro }

/-- `TiuValid`, 0x2205:05, R171 (concentrator). -/
def tiuValid : Obj :=
  { index := 0x2205, sub := 0x05, bytes := 2, access := .ro }

/-- `TiuWrongOrder`, 0x2205:06, R171 (concentrator). -/
def tiuWrongOrder : Obj :=
  { index := 0x2205, sub := 0x06, bytes := 4, access := .rw, counter := true }

/-- `TiuTimeouts`, 0x2205:07, R171 (concentrator). -/
def tiuTimeouts : Obj :=
  { index := 0x2205, sub := 0x07, bytes := 4, access := .rw, counter := true }

/-- `TiuStatus`, 0x2205:08, R171 (concentrator). -/
def tiuStatus : Obj :=
  { index := 0x2205, sub := 0x08, bytes := 1, access := .ro }

/-- `AutoLatency`, 0x2206:01, R171 (concentrator). -/
def autoLatency : Obj :=
  { index := 0x2206, sub := 0x01, bytes := 1, access := .rw, dflts := [1], range := some (0, 1), persist := true }

/-- `LatencyPeriod`, 0x2206:02, R171 (concentrator). -/
def latencyPeriod : Obj :=
  { index := 0x2206, sub := 0x02, bytes := 2, access := .rw, dflts := [60], persist := true }

/-- `LatencySamples`, 0x2206:03, R171 (concentrator). -/
def latencySamples : Obj :=
  { index := 0x2206, sub := 0x03, bytes := 2, access := .rw, dflts := [4096], range := some (1, 65535), persist := true }

/-- `PortLatency`, 0x2207:00, R171 (concentrator). -/
def portLatency : Obj :=
  { index := 0x2207, bytes := 576, access := .ro }

/-- `Asymmetry`, 0x2208:00, R171 (concentrator). -/
def asymmetry : Obj :=
  { index := 0x2208, bytes := 384, access := .rw, entry := 4, range := some (-1000000, 1000000), signed := true, persist := true }

/-- `ConstCtx`, 0x2209:01, R171 (concentrator). -/
def constCtx : Obj :=
  { index := 0x2209, sub := 0x01, bytes := 4, access := .const, dflts := [393216] }

/-- `ConstCrx`, 0x2209:02, R171 (concentrator). -/
def constCrx : Obj :=
  { index := 0x2209, sub := 0x02, bytes := 4, access := .const, dflts := [1409024] }

/-- `ConstFrx`, 0x2209:03, R171 (concentrator). -/
def constFrx : Obj :=
  { index := 0x2209, sub := 0x03, bytes := 4, access := .const, dflts := [655360] }

/-- `ConstFtx`, 0x2209:04, R171 (concentrator). -/
def constFtx : Obj :=
  { index := 0x2209, sub := 0x04, bytes := 4, access := .const, dflts := [1114112] }

/-- `ConstFturn`, 0x2209:05, R171 (concentrator). -/
def constFturn : Obj :=
  { index := 0x2209, sub := 0x05, bytes := 4, access := .const, dflts := [135987200] }

/-- `ConstKmark`, 0x2209:06, R171 (concentrator). -/
def constKmark : Obj :=
  { index := 0x2209, sub := 0x06, bytes := 4, access := .const, dflts := [135266304] }

/-- `RecordEnable`, 0x220A:01, R171 (concentrator). -/
def recordEnable : Obj :=
  { index := 0x220A, sub := 0x01, bytes := 1, access := .rw, dflts := [0xf], mask := some 0xf, persist := true }

/-- `MarkEnable`, 0x220A:02, R171 (concentrator). -/
def markEnable : Obj :=
  { index := 0x220A, sub := 0x02, bytes := 1, access := .rw, dflts := [1], range := some (0, 1), persist := true }

/-- `LateMarks`, 0x220A:03, R171 (concentrator). -/
def lateMarks : Obj :=
  { index := 0x220A, sub := 0x03, bytes := 4, access := .rw, counter := true }

/-- `PortEnable`, 0x2500:00, R190 (concentrator). -/
def portEnable : Obj :=
  { index := 0x2500, bytes := 6, access := .rw, dflts := [2 ^ 48 - 1], persist := true }

/-- `PortState`, 0x2501:00, R190 (concentrator). -/
def portState : Obj :=
  { index := 0x2501, bytes := 192, access := .ro, dflts := [rep 48 4 1] }

/-- `SortWindow`, 0x2502:01, R190 (concentrator). -/
def sortWindow : Obj :=
  { index := 0x2502, sub := 0x01, bytes := 2, access := .rw, dflts := [375], range := some (94, 750), persist := true }

/-- `StaleTicks`, 0x2502:02, R190 (concentrator). -/
def staleTicks : Obj :=
  { index := 0x2502, sub := 0x02, bytes := 2, access := .rw, dflts := [938], range := some (94, 9375), persist := true }

/-- `RejoinCells`, 0x2502:03, R190 (concentrator). -/
def rejoinCells : Obj :=
  { index := 0x2502, sub := 0x03, bytes := 2, access := .rw, dflts := [64], range := some (16, 1024), persist := true }

/-- `HorizonKey`, 0x2503:01, R190 (concentrator). -/
def horizonKey : Obj :=
  { index := 0x2503, sub := 0x01, bytes := 8, access := .ro }

/-- `HorizonPort`, 0x2503:02, R190 (concentrator). -/
def horizonPort : Obj :=
  { index := 0x2503, sub := 0x02, bytes := 1, access := .ro, dflts := [0xff] }

/-- `StoreOccupancy`, 0x2503:03, R190 (concentrator). -/
def storeOccupancy : Obj :=
  { index := 0x2503, sub := 0x03, bytes := 4, access := .ro }

/-- `StorePeak`, 0x2503:04, R190 (concentrator). -/
def storePeak : Obj :=
  { index := 0x2503, sub := 0x04, bytes := 4, access := .ro }

/-- `LateWords`, 0x2504:01, R190 (concentrator). -/
def lateWords : Obj :=
  { index := 0x2504, sub := 0x01, bytes := 4, access := .rw, counter := true }

/-- `UnplacedWords`, 0x2504:02, R190 (concentrator). -/
def unplacedWords : Obj :=
  { index := 0x2504, sub := 0x02, bytes := 4, access := .rw, counter := true }

/-- `LagEvents`, 0x2504:03, R190 (concentrator). -/
def lagEvents : Obj :=
  { index := 0x2504, sub := 0x03, bytes := 4, access := .rw, counter := true }

/-- `StoreFullEvents`, 0x2504:04, R190 (concentrator). -/
def storeFullEvents : Obj :=
  { index := 0x2504, sub := 0x04, bytes := 4, access := .rw, counter := true }

/-- `UnleasedWords`, 0x2504:05, R190 (concentrator). -/
def unleasedWords : Obj :=
  { index := 0x2504, sub := 0x05, bytes := 4, access := .rw, counter := true }

/-- `PortLateWords`, 0x2505:00, R190 (concentrator). -/
def portLateWords : Obj :=
  { index := 0x2505, bytes := 192, access := .rw, counter := true }

/-- `SliceLength`, 0x2506:01, R190 (concentrator). -/
def sliceLength : Obj :=
  { index := 0x2506, sub := 0x01, bytes := 2, access := .rw, dflts := [32], range := some (4, 512), persist := true }

/-- `SliceOverlap`, 0x2506:02, R190 (concentrator). -/
def sliceOverlap : Obj :=
  { index := 0x2506, sub := 0x02, bytes := 2, access := .rw, range := some (0, 512), persist := true }

/-- `SliceNumber`, 0x2506:03, R190 (concentrator). -/
def sliceNumber : Obj :=
  { index := 0x2506, sub := 0x03, bytes := 8, access := .ro }

/-- `ChannelRates`, 0x2507:00, R190 (concentrator). -/
def channelRates : Obj :=
  { index := 0x2507, bytes := 49152, access := .ro }

/-- `CarouselEnable`, 0x2510:01, R212 (concentrator). -/
def carouselEnable : Obj :=
  { index := 0x2510, sub := 0x01, bytes := 1, access := .rw, dflts := [1], range := some (0, 1), persist := true }

/-- `RingSize`, 0x2510:02, R212 (concentrator). -/
def ringSize : Obj :=
  { index := 0x2510, sub := 0x02, bytes := 2, access := .rw, dflts := [120], range := some (1, 124), persist := true }

/-- `RecordStoreSize`, 0x2510:03, R212 (concentrator). -/
def recordStoreSize : Obj :=
  { index := 0x2510, sub := 0x03, bytes := 2, access := .rw, dflts := [2048], range := some (256, 16384), persist := true }

/-- `TierAReserve`, 0x2510:04, R212 (concentrator). -/
def tierAReserve : Obj :=
  { index := 0x2510, sub := 0x04, bytes := 1, access := .rw, dflts := [12], range := some (0, 50), persist := true }

/-- `CompressTiers`, 0x2510:05, R212 (concentrator). -/
def compressTiers : Obj :=
  { index := 0x2510, sub := 0x05, bytes := 1, access := .rw, dflts := [0x6], mask := some 0x7, persist := true }

/-- `CarouselState`, 0x2511:01, R212 (concentrator). -/
def carouselState : Obj :=
  { index := 0x2511, sub := 0x01, bytes := 1, access := .ro }

/-- `TailKey`, 0x2511:02, R212 (concentrator). -/
def tailKey : Obj :=
  { index := 0x2511, sub := 0x02, bytes := 8, access := .ro }

/-- `HeadKey`, 0x2511:03, R212 (concentrator). -/
def headKey : Obj :=
  { index := 0x2511, sub := 0x03, bytes := 8, access := .ro }

/-- `CarouselDepth`, 0x2511:04, R212 (concentrator). -/
def carouselDepth : Obj :=
  { index := 0x2511, sub := 0x04, bytes := 4, access := .ro }

/-- `RingLaps`, 0x2511:05, R212 (concentrator). -/
def ringLaps : Obj :=
  { index := 0x2511, sub := 0x05, bytes := 4, access := .ro }

/-- `RecordStoreUse`, 0x2511:06, R212 (concentrator). -/
def recordStoreUse : Obj :=
  { index := 0x2511, sub := 0x06, bytes := 1, access := .ro }

/-- `RecordStorePeak`, 0x2511:07, R212 (concentrator). -/
def recordStorePeak : Obj :=
  { index := 0x2511, sub := 0x07, bytes := 1, access := .ro }

/-- `WindowProfiles`, 0x2512:00, R212 (concentrator). -/
def windowProfiles : Obj :=
  { index := 0x2512, bytes := 32, access := .rw, dflts := [rep 8 4 0x60003], persist := true }

/-- `Trigin0–Trigin3`, 0x2513:01-04, R212 (concentrator). -/
def trigin : Obj :=
  { index := 0x2513, sub := 0x01, count := 4, bytes := 4, access := .rw, dflts := [0xa0000], mask := some 0xffff001f, persist := true }

/-- `TriginEdges0–TriginEdges3`, 0x2513:05-08, R212 (concentrator). -/
def triginEdges : Obj :=
  { index := 0x2513, sub := 0x05, count := 4, bytes := 4, access := .rw, counter := true }

/-- `TriginHeldOff0–TriginHeldOff3`, 0x2513:09-0C, R212 (concentrator). -/
def triginHeldOff : Obj :=
  { index := 0x2513, sub := 0x09, count := 4, bytes := 4, access := .rw, counter := true }

/-- `RandomRate`, 0x2514:01, R212 (concentrator). -/
def randomRate : Obj :=
  { index := 0x2514, sub := 0x01, bytes := 2, access := .rw, persist := true }

/-- `RandomProfile`, 0x2514:02, R212 (concentrator). -/
def randomProfile : Obj :=
  { index := 0x2514, sub := 0x02, bytes := 1, access := .rw, range := some (0, 7), persist := true }

/-- `FlashProfile`, 0x2514:03, R212 (concentrator). -/
def flashProfile : Obj :=
  { index := 0x2514, sub := 0x03, bytes := 1, access := .rw, range := some (0, 7), persist := true }

/-- `FlashDelay`, 0x2514:04, R212 (concentrator). -/
def flashDelay : Obj :=
  { index := 0x2514, sub := 0x04, bytes := 4, access := .rw, entry := 4, range := some (-76800000, 76800000), signed := true, persist := true }

/-- `QueueOccupancy`, 0x2515:01, R212 (concentrator). -/
def queueOccupancy : Obj :=
  { index := 0x2515, sub := 0x01, bytes := 2, access := .ro }

/-- `QueueTierA`, 0x2515:02, R212 (concentrator). -/
def queueTierA : Obj :=
  { index := 0x2515, sub := 0x02, bytes := 2, access := .ro }

/-- `QueuePeak`, 0x2515:03, R212 (concentrator). -/
def queuePeak : Obj :=
  { index := 0x2515, sub := 0x03, bytes := 2, access := .ro }

/-- `NextTriggerNumber`, 0x2515:04, R212 (concentrator). -/
def nextTriggerNumber : Obj :=
  { index := 0x2515, sub := 0x04, bytes := 4, access := .ro }

/-- `HighWater`, 0x2516:01, R212 (concentrator). -/
def highWater : Obj :=
  { index := 0x2516, sub := 0x01, bytes := 1, access := .rw, dflts := [75], range := some (1, 100), persist := true }

/-- `LowWater`, 0x2516:02, R212 (concentrator). -/
def lowWater : Obj :=
  { index := 0x2516, sub := 0x02, bytes := 1, access := .rw, dflts := [25], range := some (0, 99), persist := true }

/-- `PrescaleExpB`, 0x2516:03, R212 (concentrator). -/
def prescaleExpB : Obj :=
  { index := 0x2516, sub := 0x03, bytes := 1, access := .ro }

/-- `PrescaleExpC`, 0x2516:04, R212 (concentrator). -/
def prescaleExpC : Obj :=
  { index := 0x2516, sub := 0x04, bytes := 1, access := .ro }

/-- `PrescaleMaxExp`, 0x2516:05, R212 (concentrator). -/
def prescaleMaxExp : Obj :=
  { index := 0x2516, sub := 0x05, bytes := 1, access := .rw, dflts := [16], range := some (0, 16), persist := true }

/-- `OfferedA–OfferedC`, 0x2517:01-03, R212 (concentrator). -/
def offered : Obj :=
  { index := 0x2517, sub := 0x01, count := 3, bytes := 4, access := .rw, counter := true }

/-- `AdmittedA–AdmittedC`, 0x2517:04-06, R212 (concentrator). -/
def admitted : Obj :=
  { index := 0x2517, sub := 0x04, count := 3, bytes := 4, access := .rw, counter := true }

/-- `PrescaledB, PrescaledC`, 0x2517:07-08, R212 (concentrator). -/
def prescaled : Obj :=
  { index := 0x2517, sub := 0x07, count := 2, bytes := 4, access := .rw, counter := true }

/-- `RejectedA–RejectedC`, 0x2517:09-0B, R212 (concentrator). -/
def rejected : Obj :=
  { index := 0x2517, sub := 0x09, count := 3, bytes := 4, access := .rw, counter := true }

/-- `MergedTriggers`, 0x2517:0C, R212 (concentrator). -/
def mergedTriggers : Obj :=
  { index := 0x2517, sub := 0x0C, bytes := 4, access := .rw, counter := true }

/-- `Demoted`, 0x2517:0D, R212 (concentrator). -/
def demoted : Obj :=
  { index := 0x2517, sub := 0x0D, bytes := 4, access := .rw, counter := true }

/-- `Complete`, 0x2518:01, R212 (concentrator). -/
def complete : Obj :=
  { index := 0x2518, sub := 0x01, bytes := 4, access := .rw, counter := true }

/-- `Truncated`, 0x2518:02, R212 (concentrator). -/
def truncated : Obj :=
  { index := 0x2518, sub := 0x02, bytes := 4, access := .rw, counter := true }

/-- `Expired`, 0x2518:03, R212 (concentrator). -/
def expired : Obj :=
  { index := 0x2518, sub := 0x03, bytes := 4, access := .rw, counter := true }

/-- `FillTimeouts`, 0x2518:04, R212 (concentrator). -/
def fillTimeouts : Obj :=
  { index := 0x2518, sub := 0x04, bytes := 4, access := .rw, counter := true }

/-- `LookbackRequests`, 0x2518:05, R212 (concentrator). -/
def lookbackRequests : Obj :=
  { index := 0x2518, sub := 0x05, bytes := 4, access := .rw, counter := true }

/-- `Invalid`, 0x2518:06, R212 (concentrator). -/
def invalid : Obj :=
  { index := 0x2518, sub := 0x06, bytes := 4, access := .rw, counter := true }

/-- `FillExtra`, 0x2519:01, R212 (concentrator). -/
def fillExtra : Obj :=
  { index := 0x2519, sub := 0x01, bytes := 4, access := .rw, range := some (0, 93750), persist := true }

/-- `FillTimeout`, 0x2519:02, R212 (concentrator). -/
def fillTimeout : Obj :=
  { index := 0x2519, sub := 0x02, bytes := 2, access := .rw, dflts := [100], range := some (1, 10000), persist := true }

/-- `LateEntries`, 0x251A:01, R212 (concentrator). -/
def lateEntries : Obj :=
  { index := 0x251A, sub := 0x01, bytes := 2, access := .ro }

/-- `LateCoalesced`, 0x251A:02, R212 (concentrator). -/
def lateCoalesced : Obj :=
  { index := 0x251A, sub := 0x02, bytes := 4, access := .rw, counter := true }

/-- `EngineMap`, 0x2600:00, R236 (concentrator). -/
def engineMap : Obj :=
  { index := 0x2600, bytes := 96, access := .ro, dflts := [countUp 96 1 0] }

/-- `ClusterMap`, 0x2601:00, R236 (concentrator). -/
def clusterMap : Obj :=
  { index := 0x2601, bytes := 12, access := .ro, dflts := [countUp 12 1 0] }

/-- `ClusterIdle`, 0x2602:01, R236 (concentrator). -/
def clusterIdle : Obj :=
  { index := 0x2602, sub := 0x01, bytes := 2, access := .rw, dflts := [100], persist := true }

/-- `ClusterAwake`, 0x2602:02, R236 (concentrator). -/
def clusterAwake : Obj :=
  { index := 0x2602, sub := 0x02, bytes := 2, access := .ro, dflts := [0xfff] }

/-- `MigrateLive`, 0x2602:03, R236 (concentrator). -/
def migrateLive : Obj :=
  { index := 0x2602, sub := 0x03, bytes := 1, access := .rw, range := some (0, 1), persist := true }

/-- `ClusterWakes`, 0x2602:04, R236 (concentrator). -/
def clusterWakes : Obj :=
  { index := 0x2602, sub := 0x04, bytes := 4, access := .rw, counter := true }

/-- `TaskImageData`, 0x2603:00, R236 (concentrator). -/
def taskImageData : Obj :=
  { index := 0x2603, bytes := 67108864, access := .wo, upTo := true }

/-- `TaskLoadSlot`, 0x2604:01, R236 (concentrator). -/
def taskLoadSlot : Obj :=
  { index := 0x2604, sub := 0x01, bytes := 1, access := .wo, range := some (0, 63) }

/-- `TaskUnload`, 0x2604:02, R236 (concentrator). -/
def taskUnload : Obj :=
  { index := 0x2604, sub := 0x02, bytes := 1, access := .wo, range := some (0, 63) }

/-- `TaskLoadStatus`, 0x2604:03, R236 (concentrator). -/
def taskLoadStatus : Obj :=
  { index := 0x2604, sub := 0x03, bytes := 1, access := .ro }

/-- `TaskSlots`, 0x2605:00, R236 (concentrator). -/
def taskSlots : Obj :=
  { index := 0x2605, bytes := 1024, access := .ro }

/-- `InstanceConfig`, 0x2606:00, R236 (concentrator). -/
def instanceConfig : Obj :=
  { index := 0x2606, bytes := 3072, access := .rw, dflts := [rep 384 8 0xffff], entry := 8, mask := some 0xffffffff0000ffff, persist := true }

/-- `InstanceSelect`, 0x2607:01, R236 (concentrator). -/
def instanceSelect : Obj :=
  { index := 0x2607, sub := 0x01, bytes := 2, access := .rw }

/-- `InstanceCommand`, 0x2607:02, R236 (concentrator). -/
def instanceCommand : Obj :=
  { index := 0x2607, sub := 0x02, bytes := 1, access := .wo, range := some (1, 5) }

/-- `InstanceState`, 0x2608:00, R236 (concentrator). -/
def instanceState : Obj :=
  { index := 0x2608, bytes := 384, access := .ro }

/-- `InstanceFault`, 0x2609:00, R236 (concentrator). -/
def instanceFault : Obj :=
  { index := 0x2609, bytes := 9216, access := .ro }

/-- `Subscriptions`, 0x260A:00, R236 (concentrator). -/
def subscriptions : Obj :=
  { index := 0x260A, bytes := 3200, access := .rw, entry := 200, mask := some (2 ^ 1600 - 2 ^ 64 + 0xffffff), persist := true }

/-- `SliceCounters`, 0x260B:00, R236 (concentrator). -/
def sliceCounters : Obj :=
  { index := 0x260B, bytes := 256, access := .rw, counter := true }

/-- `EngineCycles`, 0x260C:00, R236 (concentrator). -/
def engineCycles : Obj :=
  { index := 0x260C, bytes := 3072, access := .ro }

/-- `ParityRestarts`, 0x260D:01, R236 (concentrator). -/
def parityRestarts : Obj :=
  { index := 0x260D, sub := 0x01, bytes := 4, access := .rw, counter := true }

/-- `TaskFaults`, 0x260D:02, R236 (concentrator). -/
def taskFaults : Obj :=
  { index := 0x260D, sub := 0x02, bytes := 4, access := .rw, counter := true }

/-- `ServiceCalls`, 0x260D:03, R236 (concentrator). -/
def serviceCalls : Obj :=
  { index := 0x260D, sub := 0x03, bytes := 4, access := .rw, counter := true }

/-- `Preemptions`, 0x260D:04, R236 (concentrator). -/
def preemptions : Obj :=
  { index := 0x260D, sub := 0x04, bytes := 4, access := .rw, counter := true }

/-- `FirmwareRegion`, 0x2700:01, R265 (concentrator). -/
def firmwareRegion : Obj :=
  { index := 0x2700, sub := 0x01, bytes := 2, access := .const, dflts := [4] }

/-- `CarouselRegion`, 0x2700:02, R265 (concentrator). -/
def carouselRegion : Obj :=
  { index := 0x2700, sub := 0x02, bytes := 2, access := .ro, dflts := [114] }

/-- `TaskPool`, 0x2700:03, R265 (concentrator). -/
def taskPool : Obj :=
  { index := 0x2700, sub := 0x03, bytes := 2, access := .ro, dflts := [10] }

/-- `TaskPoolFree`, 0x2700:04, R265 (concentrator). -/
def taskPoolFree : Obj :=
  { index := 0x2700, sub := 0x04, bytes := 4, access := .ro, dflts := [10240] }

/-- `WrittenBlocks`, 0x2700:05, R265 (concentrator). -/
def writtenBlocks : Obj :=
  { index := 0x2700, sub := 0x05, bytes := 4, access := .ro }

/-- `CarouselSizePending`, 0x2700:06, R265 (concentrator). -/
def carouselSizePending : Obj :=
  { index := 0x2700, sub := 0x06, bytes := 1, access := .ro }

/-- `EngineWeight`, 0x2701:01, R265 (concentrator). -/
def engineWeight : Obj :=
  { index := 0x2701, sub := 0x01, bytes := 1, access := .rw, dflts := [1], range := some (1, 15), persist := true }

/-- `MoverWeight`, 0x2701:02, R265 (concentrator). -/
def moverWeight : Obj :=
  { index := 0x2701, sub := 0x02, bytes := 1, access := .rw, dflts := [1], range := some (1, 15), persist := true }

/-- `HbmTraffic`, 0x2702:00, R265 (concentrator). -/
def hbmTraffic : Obj :=
  { index := 0x2702, bytes := 96, access := .ro }

/-- `MoverOwner`, 0x2703:00, R265 (concentrator). -/
def moverOwner : Obj :=
  { index := 0x2703, bytes := 64, access := .ro, dflts := [rep 28 2 0xFFFF + rep 4 2 0xFFFD <<< 448] }

/-- `MoverStatus`, 0x2704:00, R265 (concentrator). -/
def moverStatus : Obj :=
  { index := 0x2704, bytes := 768, access := .ro }

/-- `MoverPageFaults`, 0x2705:01, R265 (concentrator). -/
def moverPageFaults : Obj :=
  { index := 0x2705, sub := 0x01, bytes := 4, access := .rw, counter := true }

/-- `MoverAccessFaults`, 0x2705:02, R265 (concentrator). -/
def moverAccessFaults : Obj :=
  { index := 0x2705, sub := 0x02, bytes := 4, access := .rw, counter := true }

/-- `PoisonPropagated`, 0x2705:03, R265 (concentrator). -/
def poisonPropagated : Obj :=
  { index := 0x2705, sub := 0x03, bytes := 4, access := .rw, counter := true }

/-- `InvalidDescriptors`, 0x2705:04, R265 (concentrator). -/
def invalidDescriptors : Obj :=
  { index := 0x2705, sub := 0x04, bytes := 4, access := .rw, counter := true }

/-- `TailRefused`, 0x2705:05, R265 (concentrator). -/
def tailRefused : Obj :=
  { index := 0x2705, sub := 0x05, bytes := 4, access := .rw, counter := true }

/-- `Drains`, 0x2705:06, R265 (concentrator). -/
def drains : Obj :=
  { index := 0x2705, sub := 0x06, bytes := 4, access := .rw, counter := true }

/-- `FlipData`, 0x2900:01, R265 (concentrator). -/
def flipData : Obj :=
  { index := 0x2900, sub := 0x01, bytes := 8, access := .rwl }

/-- `FlipCheck`, 0x2900:02, R265 (concentrator). -/
def flipCheck : Obj :=
  { index := 0x2900, sub := 0x02, bytes := 1, access := .rwl }

/-- `FlipTarget`, 0x2900:03, R265 (concentrator). -/
def flipTarget : Obj :=
  { index := 0x2900, sub := 0x03, bytes := 2, access := .rwl, dflts := [0x0] }

/-- `FlipMatch`, 0x2900:04, R265 (concentrator). -/
def flipMatch : Obj :=
  { index := 0x2900, sub := 0x04, bytes := 8, access := .rwl, dflts := [2 ^ 64 - 1] }

/-- `FlipArm`, 0x2900:05, R265 (concentrator). -/
def flipArm : Obj :=
  { index := 0x2900, sub := 0x05, bytes := 1, access := .rwl, range := some (0, 1) }

/-- `FlipAddress`, 0x2900:06, R265 (concentrator). -/
def flipAddress : Obj :=
  { index := 0x2900, sub := 0x06, bytes := 8, access := .ro }

/-- `HbmCorrected`, 0x2901:01, R265 (concentrator). -/
def hbmCorrected : Obj :=
  { index := 0x2901, sub := 0x01, bytes := 4, access := .rw, counter := true }

/-- `HbmUncorrected`, 0x2901:02, R265 (concentrator). -/
def hbmUncorrected : Obj :=
  { index := 0x2901, sub := 0x02, bytes := 4, access := .rw, counter := true }

/-- `PoisonedReads`, 0x2901:03, R265 (concentrator). -/
def poisonedReads : Obj :=
  { index := 0x2901, sub := 0x03, bytes := 4, access := .rw, counter := true }

/-- `SramCorrected`, 0x2901:04, R265 (concentrator). -/
def sramCorrected : Obj :=
  { index := 0x2901, sub := 0x04, bytes := 4, access := .rw, counter := true }

/-- `SramUncorrected`, 0x2901:05, R265 (concentrator). -/
def sramUncorrected : Obj :=
  { index := 0x2901, sub := 0x05, bytes := 4, access := .rw, counter := true }

/-- `LastErrorAddress`, 0x2902:01, R265 (concentrator). -/
def lastErrorAddress : Obj :=
  { index := 0x2902, sub := 0x01, bytes := 8, access := .ro }

/-- `LastErrorSyndrome`, 0x2902:02, R265 (concentrator). -/
def lastErrorSyndrome : Obj :=
  { index := 0x2902, sub := 0x02, bytes := 1, access := .ro }

/-- `LastErrorKind`, 0x2902:03, R265 (concentrator). -/
def lastErrorKind : Obj :=
  { index := 0x2902, sub := 0x03, bytes := 1, access := .ro }

/-- `RecordBlockSize`, 0x2800:01, R280 (concentrator). -/
def recordBlockSize : Obj :=
  { index := 0x2800, sub := 0x01, bytes := 4, access := .rw, dflts := [65536], range := some (4096, 1048576), persist := true }

/-- `UnitYield`, 0x2800:02, R280 (concentrator). -/
def unitYield : Obj :=
  { index := 0x2800, sub := 0x02, bytes := 1, access := .rw, dflts := [1], range := some (0, 1), persist := true }

/-- `MarverUnitsLive`, 0x2801:01, R280 (concentrator). -/
def marverUnitsLive : Obj :=
  { index := 0x2801, sub := 0x01, bytes := 1, access := .ro, dflts := [8] }

/-- `UnitBusy`, 0x2801:02, R280 (concentrator). -/
def unitBusy : Obj :=
  { index := 0x2801, sub := 0x02, bytes := 1, access := .ro, dflts := [0x0] }

/-- `JobsWaiting`, 0x2801:03, R280 (concentrator). -/
def jobsWaiting : Obj :=
  { index := 0x2801, sub := 0x03, bytes := 1, access := .ro }

/-- `InputBytes`, 0x2802:01, R280 (concentrator). -/
def inputBytes : Obj :=
  { index := 0x2802, sub := 0x01, bytes := 8, access := .rw, counter := true }

/-- `OutputBytes`, 0x2802:02, R280 (concentrator). -/
def outputBytes : Obj :=
  { index := 0x2802, sub := 0x02, bytes := 8, access := .rw, counter := true }

/-- `Jobs`, 0x2802:03, R280 (concentrator). -/
def jobs : Obj :=
  { index := 0x2802, sub := 0x03, bytes := 4, access := .rw, counter := true }

/-- `NoGain`, 0x2802:04, R280 (concentrator). -/
def noGain : Obj :=
  { index := 0x2802, sub := 0x04, bytes := 4, access := .rw, counter := true }

/-- `Overflows`, 0x2802:05, R280 (concentrator). -/
def overflows : Obj :=
  { index := 0x2802, sub := 0x05, bytes := 4, access := .rw, counter := true }

/-- `UnitFaults`, 0x2802:06, R280 (concentrator). -/
def unitFaults : Obj :=
  { index := 0x2802, sub := 0x06, bytes := 4, access := .rw, counter := true }

/-- `Yields`, 0x2802:07, R280 (concentrator). -/
def yields : Obj :=
  { index := 0x2802, sub := 0x07, bytes := 4, access := .rw, counter := true }

/-- `DictCorrected`, 0x2802:08, R280 (concentrator). -/
def dictCorrected : Obj :=
  { index := 0x2802, sub := 0x08, bytes := 4, access := .rw, counter := true }

/-- `MarverContexts`, 0x2803:00, R280 (concentrator). -/
def marverContexts : Obj :=
  { index := 0x2803, bytes := 512, access := .ro }

/-- `BulkShare`, 0x2810:01, R297 (concentrator). -/
def bulkShare : Obj :=
  { index := 0x2810, sub := 0x01, bytes := 1, access := .rw, dflts := [2], range := some (1, 15), persist := true }

/-- `Class0Queue`, 0x2811:01, R297 (concentrator). -/
def class0Queue : Obj :=
  { index := 0x2811, sub := 0x01, bytes := 2, access := .ro }

/-- `Class0QueuePeak`, 0x2811:02, R297 (concentrator). -/
def class0QueuePeak : Obj :=
  { index := 0x2811, sub := 0x02, bytes := 2, access := .ro }

/-- `BulkQueue`, 0x2811:03, R297 (concentrator). -/
def bulkQueue : Obj :=
  { index := 0x2811, sub := 0x03, bytes := 4, access := .ro }

/-- `RecordsSent`, 0x2812:01, R297 (concentrator). -/
def recordsSent : Obj :=
  { index := 0x2812, sub := 0x01, bytes := 4, access := .rw, counter := true }

/-- `RecordsLost`, 0x2812:02, R297 (concentrator). -/
def recordsLost : Obj :=
  { index := 0x2812, sub := 0x02, bytes := 4, access := .rw, counter := true }

/-- `BulkRecordsSent`, 0x2812:03, R297 (concentrator). -/
def bulkRecordsSent : Obj :=
  { index := 0x2812, sub := 0x03, bytes := 4, access := .rw, counter := true }

/-- `Class0Words`, 0x2812:04, R297 (concentrator). -/
def class0Words : Obj :=
  { index := 0x2812, sub := 0x04, bytes := 4, access := .rw, counter := true }

/-- `Class0QueueFull`, 0x2812:05, R297 (concentrator). -/
def class0QueueFull : Obj :=
  { index := 0x2812, sub := 0x05, bytes := 4, access := .rw, counter := true }

/-- `Class0Exceeded`, 0x2812:06, R297 (concentrator). -/
def class0Exceeded : Obj :=
  { index := 0x2812, sub := 0x06, bytes := 4, access := .rw, counter := true }

/-- `Class0Residence`, 0x2813:00, R297 (concentrator). -/
def class0Residence : Obj :=
  { index := 0x2813, bytes := 2, access := .ro }

/-- `LaneTraffic`, 0x2814:00, R297 (concentrator). -/
def laneTraffic : Obj :=
  { index := 0x2814, bytes := 256, access := .rw, counter := true }

/-- `DeviceType`, 0x1000:00, R328 (concentrator). -/
def deviceType : Obj :=
  { index := 0x1000, bytes := 4, access := .const, dflts := [0x0] }

/-- `ErrorRegister`, 0x1001:00, R328 (concentrator). -/
def errorRegister : Obj :=
  { index := 0x1001, bytes := 1, access := .ro }

/-- `ErrorCount`, 0x1003:00, R328 (concentrator). -/
def errorCount : Obj :=
  { index := 0x1003, bytes := 1, access := .rw, range := some (0, 0) }

/-- `ErrorHistory1–ErrorHistory8`, 0x1003:01-08, R328 (concentrator). -/
def errorHistory : Obj :=
  { index := 0x1003, sub := 0x01, count := 8, bytes := 4, access := .ro }

/-- `DeviceName`, 0x1008:00, R328 (concentrator). -/
def deviceName : Obj :=
  { index := 0x1008, bytes := 7, access := .const, dflts := [0x3639432d524451] }

/-- `HardwareVersion`, 0x1009:00, R328 (concentrator). -/
def hardwareVersion : Obj :=
  { index := 0x1009, bytes := 7, access := .const }

/-- `SoftwareVersion`, 0x100A:00, R328 (concentrator). -/
def softwareVersion : Obj :=
  { index := 0x100A, bytes := 7, access := .const }

/-- `StoreAll, StoreComm, StoreApp`, 0x1010:01-03, R328 (concentrator). -/
def store : Obj :=
  { index := 0x1010, sub := 0x01, count := 3, bytes := 4, access := .rw, dflts := [0x1], range := some (1702257011, 1702257011) }

/-- `RestoreAll, RestoreComm, RestoreApp`, 0x1011:01-03, R328 (concentrator). -/
def restore : Obj :=
  { index := 0x1011, sub := 0x01, count := 3, bytes := 4, access := .rw, dflts := [0x1], range := some (1684107116, 1684107116) }

/-- `ProducerHeartbeat`, 0x1017:00, R328 (concentrator). -/
def producerHeartbeat : Obj :=
  { index := 0x1017, bytes := 2, access := .rw, dflts := [1000], persist := true }

/-- `VendorId, ProductCode, Revision, SerialNumber`, 0x1018:01-04, R328 (concentrator). -/
def vendorId : Obj :=
  { index := 0x1018, sub := 0x01, count := 4, bytes := 4, access := .const, dflts := [3559, 49302, 0, 0] }

/-- `CanArbitrationRate`, 0x2010:01, R328 (concentrator). -/
def canArbitrationRate : Obj :=
  { index := 0x2010, sub := 0x01, bytes := 1, access := .rw, dflts := [2], range := some (0, 3), persist := true }

/-- `CanDataRate`, 0x2010:02, R328 (concentrator). -/
def canDataRate : Obj :=
  { index := 0x2010, sub := 0x02, bytes := 1, access := .rw, dflts := [1], range := some (0, 3), persist := true }

/-- `CanNodeIdSource`, 0x2010:03, R328 (concentrator). -/
def canNodeIdSource : Obj :=
  { index := 0x2010, sub := 0x03, bytes := 1, access := .rw, range := some (0, 1), persist := true }

/-- `CanNodeId`, 0x2010:04, R328 (concentrator). -/
def canNodeId : Obj :=
  { index := 0x2010, sub := 0x04, bytes := 1, access := .rw, dflts := [127], range := some (1, 127), persist := true }

/-- `CanNodeIdInUse`, 0x2010:05, R328 (concentrator). -/
def canNodeIdInUse : Obj :=
  { index := 0x2010, sub := 0x05, bytes := 1, access := .ro }

/-- `NmtResetNode`, 0x2010:06, R328 (concentrator). -/
def nmtResetNode : Obj :=
  { index := 0x2010, sub := 0x06, bytes := 1, access := .rw, dflts := [1], range := some (0, 1), persist := true }

/-- `NmtResetsRefused`, 0x2010:07, R328 (concentrator). -/
def nmtResetsRefused : Obj :=
  { index := 0x2010, sub := 0x07, bytes := 4, access := .rw, counter := true }

/-- `TpdoPeriod1–TpdoPeriod4`, 0x2011:01-04, R328 (concentrator). -/
def tpdoPeriod : Obj :=
  { index := 0x2011, sub := 0x01, count := 4, bytes := 2, access := .rw, dflts := [1000, 1000, 0, 0], persist := true }

/-- `TpdoMap`, 0x2011:05, R328 (concentrator). -/
def tpdoMap : Obj :=
  { index := 0x2011, sub := 0x05, bytes := 256, access := .rw, dflts := [0x2012811010425160103251602012515010625110404251100000000000000000000000000000000000000000000000000000000000000000000000000000000000000000000000002022202010122020402220006012200], persist := true }

/-- `DuplicateRequests`, 0x2012:01, R328 (concentrator). -/
def duplicateRequests : Obj :=
  { index := 0x2012, sub := 0x01, bytes := 4, access := .rw, counter := true }

/-- `OutstandingRefused`, 0x2012:02, R328 (concentrator). -/
def outstandingRefused : Obj :=
  { index := 0x2012, sub := 0x02, bytes := 4, access := .rw, counter := true }

/-- `EmcyDropped`, 0x2012:03, R328 (concentrator). -/
def emcyDropped : Obj :=
  { index := 0x2012, sub := 0x03, bytes := 4, access := .rw, counter := true }

/-- `OwnershipConflicts`, 0x2012:04, R328 (concentrator). -/
def ownershipConflicts : Obj :=
  { index := 0x2012, sub := 0x04, bytes := 4, access := .rw, counter := true }

/-- `RelayTimeouts`, 0x2012:05, R328 (concentrator). -/
def relayTimeouts : Obj :=
  { index := 0x2012, sub := 0x05, bytes := 4, access := .rw, counter := true }

/-- `LastAbort`, 0x2013:00, R328 (concentrator). -/
def lastAbort : Obj :=
  { index := 0x2013, bytes := 96, access := .ro }

/-- `SessionOpen`, 0x2F20:01, R328 (concentrator). -/
def sessionOpen : Obj :=
  { index := 0x2F20, sub := 0x01, bytes := 8, access := .wo }

/-- `SessionClose`, 0x2F20:02, R328 (concentrator). -/
def sessionClose : Obj :=
  { index := 0x2F20, sub := 0x02, bytes := 1, access := .wo, range := some (1, 1) }

/-- `SessionState`, 0x2F20:03, R328 (concentrator). -/
def sessionState : Obj :=
  { index := 0x2F20, sub := 0x03, bytes := 1, access := .ro }

/-- `SessionTimeout`, 0x2F20:04, R328 (concentrator). -/
def sessionTimeout : Obj :=
  { index := 0x2F20, sub := 0x04, bytes := 1, access := .rw, dflts := [10], range := some (1, 60), persist := true }

/-- `PasswordChange`, 0x2F20:05, R328 (concentrator). -/
def passwordChange : Obj :=
  { index := 0x2F20, sub := 0x05, bytes := 8, access := .wo }

/-- `PasswordFailures`, 0x2F20:06, R328 (concentrator). -/
def passwordFailures : Obj :=
  { index := 0x2F20, sub := 0x06, bytes := 4, access := .rw, counter := true }

/-- `FeProductCode`, 0x2000:01, R329 (front-end). -/
def feProductCode : Obj :=
  { index := 0x2000, sub := 0x01, bytes := 4, access := .const, dflts := [0xf256] }

/-- `FeRevision`, 0x2000:02, R329 (front-end). -/
def feRevision : Obj :=
  { index := 0x2000, sub := 0x02, bytes := 4, access := .const }

/-- `FeSerialNumber`, 0x2000:03, R329 (front-end). -/
def feSerialNumber : Obj :=
  { index := 0x2000, sub := 0x03, bytes := 8, access := .const }

/-- `FeLastAbort`, 0x2006:00, R329 (front-end). -/
def feLastAbort : Obj :=
  { index := 0x2006, bytes := 32, access := .ro }

/-- `FeDuplicateRequests`, 0x2007:01, R329 (front-end). -/
def feDuplicateRequests : Obj :=
  { index := 0x2007, sub := 0x01, bytes := 4, access := .rw, counter := true }

/-- `FeOutstandingRefused`, 0x2007:02, R329 (front-end). -/
def feOutstandingRefused : Obj :=
  { index := 0x2007, sub := 0x02, bytes := 4, access := .rw, counter := true }

/-- `FeUnleasedRequests`, 0x2007:03, R329 (front-end). -/
def feUnleasedRequests : Obj :=
  { index := 0x2007, sub := 0x03, bytes := 4, access := .rw, counter := true }

/-- `ClockDomainStatus`, 0x2100:00, R349 (concentrator). -/
def clockDomainStatus : Obj :=
  { index := 0x2100, bytes := 80, access := .ro }

/-- `AoSource`, 0x2101:01, R349 (concentrator). -/
def aoSource : Obj :=
  { index := 0x2101, sub := 0x01, bytes := 1, access := .rw, range := some (0, 1), persist := true }

/-- `EngineClock`, 0x2101:02, R349 (concentrator). -/
def engineClock : Obj :=
  { index := 0x2101, sub := 0x02, bytes := 1, access := .rw, range := some (0, 4), persist := true }

/-- `AoOnFallback`, 0x2101:03, R349 (concentrator). -/
def aoOnFallback : Obj :=
  { index := 0x2101, sub := 0x03, bytes := 1, access := .ro }

/-- `MeterDomain`, 0x2102:01, R349 (concentrator). -/
def meterDomain : Obj :=
  { index := 0x2102, sub := 0x01, bytes := 1, access := .rw, dflts := [7], range := some (0, 39) }

/-- `MeterGate`, 0x2102:02, R349 (concentrator). -/
def meterGate : Obj :=
  { index := 0x2102, sub := 0x02, bytes := 2, access := .rw, dflts := [1], range := some (1, 1000) }

/-- `MeterRun`, 0x2102:03, R349 (concentrator). -/
def meterRun : Obj :=
  { index := 0x2102, sub := 0x03, bytes := 1, access := .wo, range := some (1, 1) }

/-- `MeterCount`, 0x2102:04, R349 (concentrator). -/
def meterCount : Obj :=
  { index := 0x2102, sub := 0x04, bytes := 8, access := .ro }

/-- `MeterDeviation`, 0x2102:05, R349 (concentrator). -/
def meterDeviation : Obj :=
  { index := 0x2102, sub := 0x05, bytes := 4, access := .ro }

/-- `MeterStatus`, 0x2102:06, R349 (concentrator). -/
def meterStatus : Obj :=
  { index := 0x2102, sub := 0x06, bytes := 1, access := .ro }

/-- `GateControl`, 0x2103:01, R349 (concentrator). -/
def gateControl : Obj :=
  { index := 0x2103, sub := 0x01, bytes := 2, access := .rw, dflts := [0x580], mask := some 0xfff, persist := true }

/-- `GateStatus`, 0x2103:02, R349 (concentrator). -/
def gateStatus : Obj :=
  { index := 0x2103, sub := 0x02, bytes := 4, access := .ro, dflts := [0x580] }

/-- `GatedAccesses`, 0x2103:03, R349 (concentrator). -/
def gatedAccesses : Obj :=
  { index := 0x2103, sub := 0x03, bytes := 4, access := .rw, counter := true }

/-- `PowerStateCode`, 0x2104:01, R349 (concentrator). -/
def powerStateCode : Obj :=
  { index := 0x2104, sub := 0x01, bytes := 1, access := .ro, dflts := [3] }

/-- `PowerRequest`, 0x2104:02, R349 (concentrator). -/
def powerRequest : Obj :=
  { index := 0x2104, sub := 0x02, bytes := 1, access := .wo, range := some (1, 4) }

/-- `WakeSources`, 0x2104:03, R349 (concentrator). -/
def wakeSources : Obj :=
  { index := 0x2104, sub := 0x03, bytes := 1, access := .rw, dflts := [0x1], mask := some 0x3, persist := true }

/-- `WakeAt`, 0x2104:04, R349 (concentrator). -/
def wakeAt : Obj :=
  { index := 0x2104, sub := 0x04, bytes := 6, access := .rw }

/-- `LastWakeCause`, 0x2104:05, R349 (concentrator). -/
def lastWakeCause : Obj :=
  { index := 0x2104, sub := 0x05, bytes := 1, access := .ro }

/-- `ClockLostEvents`, 0x2104:06, R349 (concentrator). -/
def clockLostEvents : Obj :=
  { index := 0x2104, sub := 0x06, bytes := 4, access := .rw, counter := true }

/-- `FeMode`, 0x2001:00, R350 (front-end). -/
def feMode : Obj :=
  { index := 0x2001, bytes := 1, access := .ro, dflts := [2] }

/-- `FeModeRequest`, 0x2002:00, R350 (front-end). -/
def feModeRequest : Obj :=
  { index := 0x2002, bytes := 1, access := .wo, range := some (1, 3) }

/-- `FeClockStatus`, 0x2003:00, R350 (front-end). -/
def feClockStatus : Obj :=
  { index := 0x2003, bytes := 18, access := .ro }

/-- `CrystalFitted`, 0x2004:01, R350 (front-end). -/
def crystalFitted : Obj :=
  { index := 0x2004, sub := 0x01, bytes := 1, access := .rw, range := some (0, 1), persist := true }

/-- `BaseSource`, 0x2004:02, R350 (front-end). -/
def baseSource : Obj :=
  { index := 0x2004, sub := 0x02, bytes := 1, access := .ro }

/-- `FallbackEvents`, 0x2004:03, R350 (front-end). -/
def fallbackEvents : Obj :=
  { index := 0x2004, sub := 0x03, bytes := 4, access := .rw, counter := true }

/-- `FeGateControl`, 0x2005:01, R350 (front-end). -/
def feGateControl : Obj :=
  { index := 0x2005, sub := 0x01, bytes := 1, access := .rw, dflts := [0x1], mask := some 0x3, persist := true }

/-- `FeGateStatus`, 0x2005:02, R350 (front-end). -/
def feGateStatus : Obj :=
  { index := 0x2005, sub := 0x02, bytes := 1, access := .ro, dflts := [0x1] }

/-- `FeGatedAccesses`, 0x2005:03, R350 (front-end). -/
def feGatedAccesses : Obj :=
  { index := 0x2005, sub := 0x03, bytes := 4, access := .rw, counter := true }

/-- `LogicalEnginesLive`, 0x2000:01, R373 (concentrator). -/
def logicalEnginesLive : Obj :=
  { index := 0x2000, sub := 0x01, bytes := 1, access := .ro, dflts := [96] }

/-- `BackEndLanesLive`, 0x2000:02, R373 (concentrator). -/
def backEndLanesLive : Obj :=
  { index := 0x2000, sub := 0x02, bytes := 1, access := .ro, dflts := [16] }

/-- `SpareBackEndLanes`, 0x2000:03, R373 (concentrator). -/
def spareBackEndLanes : Obj :=
  { index := 0x2000, sub := 0x03, bytes := 1, access := .ro, dflts := [2] }

/-- `IngressLanesLive`, 0x2000:04, R373 (concentrator). -/
def ingressLanesLive : Obj :=
  { index := 0x2000, sub := 0x04, bytes := 1, access := .ro, dflts := [96] }

/-- `ChannelsLive`, 0x2000:05, R373 (concentrator). -/
def channelsLive : Obj :=
  { index := 0x2000, sub := 0x05, bytes := 2, access := .ro, dflts := [12288] }

/-- `SortStoreCapacity`, 0x2000:06, R373 (concentrator). -/
def sortStoreCapacity : Obj :=
  { index := 0x2000, sub := 0x06, bytes := 4, access := .ro, dflts := [131072] }

/-- `BucketIndexCapacity`, 0x2000:07, R373 (concentrator). -/
def bucketIndexCapacity : Obj :=
  { index := 0x2000, sub := 0x07, bytes := 4, access := .ro, dflts := [524288] }

/-- `HbmRetiredFrames`, 0x2000:08, R373 (concentrator). -/
def hbmRetiredFrames : Obj :=
  { index := 0x2000, sub := 0x08, bytes := 4, access := .ro }

/-- `HbmSpareRows`, 0x2000:09, R373 (concentrator). -/
def hbmSpareRows : Obj :=
  { index := 0x2000, sub := 0x09, bytes := 4, access := .ro }

/-- `HbmScrubPeriod`, 0x2903:01, R373 (concentrator). -/
def hbmScrubPeriod : Obj :=
  { index := 0x2903, sub := 0x01, bytes := 2, access := .rw, dflts := [24], range := some (1, 720), persist := true }

/-- `SramScrubPeriod`, 0x2903:02, R373 (concentrator). -/
def sramScrubPeriod : Obj :=
  { index := 0x2903, sub := 0x02, bytes := 1, access := .rw, dflts := [10], range := some (1, 60), persist := true }

/-- `HbmPassProgress`, 0x2904:01, R373 (concentrator). -/
def hbmPassProgress : Obj :=
  { index := 0x2904, sub := 0x01, bytes := 1, access := .ro }

/-- `HbmPasses`, 0x2904:02, R373 (concentrator). -/
def hbmPasses : Obj :=
  { index := 0x2904, sub := 0x02, bytes := 4, access := .rw, counter := true }

/-- `SramPasses`, 0x2904:03, R373 (concentrator). -/
def sramPasses : Obj :=
  { index := 0x2904, sub := 0x03, bytes := 4, access := .rw, counter := true }

/-- `ScrubUncorrected`, 0x2904:04, R373 (concentrator). -/
def scrubUncorrected : Obj :=
  { index := 0x2904, sub := 0x04, bytes := 4, access := .rw, counter := true }

/-- `LinesSkipped`, 0x2904:05, R373 (concentrator). -/
def linesSkipped : Obj :=
  { index := 0x2904, sub := 0x05, bytes := 4, access := .rw, counter := true }

/-- `LaneHealth`, 0x2A00:01, R373 (concentrator). -/
def laneHealth : Obj :=
  { index := 0x2A00, sub := 0x01, bytes := 656, access := .ro }

/-- `QuadHealth`, 0x2A00:02, R373 (concentrator). -/
def quadHealth : Obj :=
  { index := 0x2A00, sub := 0x02, bytes := 164, access := .ro }

/-- `EngineHealth`, 0x2A00:03, R373 (concentrator). -/
def engineHealth : Obj :=
  { index := 0x2A00, sub := 0x03, bytes := 416, access := .ro }

/-- `ClusterHealth`, 0x2A00:04, R373 (concentrator). -/
def clusterHealth : Obj :=
  { index := 0x2A00, sub := 0x04, bytes := 52, access := .ro }

/-- `MarverHealth`, 0x2A00:05, R373 (concentrator). -/
def marverHealth : Obj :=
  { index := 0x2A00, sub := 0x05, bytes := 32, access := .ro }

/-- `SramHealth`, 0x2A00:06, R373 (concentrator). -/
def sramHealth : Obj :=
  { index := 0x2A00, sub := 0x06, bytes := 12288, access := .ro }

/-- `PllHealth`, 0x2A00:07, R373 (concentrator). -/
def pllHealth : Obj :=
  { index := 0x2A00, sub := 0x07, bytes := 160, access := .ro }

/-- `HbmRowTable`, 0x2A01:00, R373 (concentrator). -/
def hbmRowTable : Obj :=
  { index := 0x2A01, bytes := 8192, access := .ro }

/-- `FaultLog`, 0x2A02:00, R373 (concentrator). -/
def faultLog : Obj :=
  { index := 0x2A02, bytes := 8192, access := .ro }

/-- `NextEntry`, 0x2A03:01, R373 (concentrator). -/
def nextEntry : Obj :=
  { index := 0x2A03, sub := 0x01, bytes := 4, access := .ro }

/-- `FaultLogAck`, 0x2A03:02, R373 (concentrator). -/
def faultLogAck : Obj :=
  { index := 0x2A03, sub := 0x02, bytes := 4, access := .wo }

/-- `FaultNotifyMask`, 0x2A03:03, R373 (concentrator). -/
def faultNotifyMask : Obj :=
  { index := 0x2A03, sub := 0x03, bytes := 1, access := .rw, dflts := [0xfe], persist := true }

/-- `FaultLogOverwritten`, 0x2A03:04, R373 (concentrator). -/
def faultLogOverwritten : Obj :=
  { index := 0x2A03, sub := 0x04, bytes := 4, access := .rw, counter := true }

/-- `AnnealOnSleep`, 0x2A04:01, R373 (concentrator). -/
def annealOnSleep : Obj :=
  { index := 0x2A04, sub := 0x01, bytes := 1, access := .rw, dflts := [1], range := some (0, 1), persist := true }

/-- `AnnealInterval`, 0x2A04:02, R373 (concentrator). -/
def annealInterval : Obj :=
  { index := 0x2A04, sub := 0x02, bytes := 1, access := .rw, dflts := [20], range := some (1, 168), persist := true }

/-- `AnnealBudget`, 0x2A04:03, R373 (concentrator). -/
def annealBudget : Obj :=
  { index := 0x2A04, sub := 0x03, bytes := 2, access := .rw, dflts := [120], range := some (10, 3600), persist := true }

/-- `AnnealRun`, 0x2A04:04, R373 (concentrator). -/
def annealRun : Obj :=
  { index := 0x2A04, sub := 0x04, bytes := 1, access := .wo, range := some (1, 1) }

/-- `AnnealState`, 0x2A04:05, R373 (concentrator). -/
def annealState : Obj :=
  { index := 0x2A04, sub := 0x05, bytes := 1, access := .ro }

/-- `AnnealPending`, 0x2A04:06, R373 (concentrator). -/
def annealPending : Obj :=
  { index := 0x2A04, sub := 0x06, bytes := 2, access := .ro }

/-- `FeResourceHealth`, 0x2050:00, R374 (front-end). -/
def feResourceHealth : Obj :=
  { index := 0x2050, bytes := 1440, access := .ro }

/-- `FeFaultLog`, 0x2051:00, R374 (front-end). -/
def feFaultLog : Obj :=
  { index := 0x2051, bytes := 512, access := .ro }

/-- `FeAnnealRun`, 0x2052:01, R374 (front-end). -/
def feAnnealRun : Obj :=
  { index := 0x2052, sub := 0x01, bytes := 1, access := .wo, range := some (1, 1) }

/-- `FeAnnealStatus`, 0x2052:02, R374 (front-end). -/
def feAnnealStatus : Obj :=
  { index := 0x2052, sub := 0x02, bytes := 1, access := .ro }

/-- `FeRetiredRestore`, 0x2052:03, R374 (front-end). -/
def feRetiredRestore : Obj :=
  { index := 0x2052, sub := 0x03, bytes := 34, access := .rw }

/-- `ConfigCorrected`, 0x2053:01, R374 (front-end). -/
def configCorrected : Obj :=
  { index := 0x2053, sub := 0x01, bytes := 4, access := .rw, counter := true }

/-- `ConfigUncorrected`, 0x2053:02, R374 (front-end). -/
def configUncorrected : Obj :=
  { index := 0x2053, sub := 0x02, bytes := 4, access := .rw, counter := true }

/-- `MajorityRepairs`, 0x2053:03, R374 (front-end). -/
def majorityRepairs : Obj :=
  { index := 0x2053, sub := 0x03, bytes := 4, access := .rw, counter := true }

/-- `PortTable`, 0x2400:00, R393 (concentrator). -/
def portTable : Obj :=
  { index := 0x2400, bytes := 768, access := .ro }

/-- `Claims`, 0x2401:01, R393 (concentrator). -/
def claims : Obj :=
  { index := 0x2401, sub := 0x01, bytes := 4, access := .rw, counter := true }

/-- `ClaimsRefused`, 0x2401:02, R393 (concentrator). -/
def claimsRefused : Obj :=
  { index := 0x2401, sub := 0x02, bytes := 4, access := .rw, counter := true }

/-- `LeaseLosses`, 0x2401:03, R393 (concentrator). -/
def leaseLosses : Obj :=
  { index := 0x2401, sub := 0x03, bytes := 4, access := .rw, counter := true }

/-- `RenewalsUnanswered`, 0x2401:04, R393 (concentrator). -/
def renewalsUnanswered : Obj :=
  { index := 0x2401, sub := 0x04, bytes := 4, access := .rw, counter := true }

/-- `PartnerRole`, 0x3100:01, R393 (concentrator). -/
def partnerRole : Obj :=
  { index := 0x3100, sub := 0x01, bytes := 1, access := .rwl, range := some (0, 2), persist := true }

/-- `AutoFailover`, 0x3100:02, R393 (concentrator). -/
def autoFailover : Obj :=
  { index := 0x3100, sub := 0x02, bytes := 1, access := .rw, dflts := [1], range := some (0, 1), persist := true }

/-- `FailoverAlign`, 0x3100:03, R393 (concentrator). -/
def failoverAlign : Obj :=
  { index := 0x3100, sub := 0x03, bytes := 1, access := .rw, dflts := [1], range := some (0, 1), persist := true }

/-- `CheckpointPeriod`, 0x3100:04, R393 (concentrator). -/
def checkpointPeriod : Obj :=
  { index := 0x3100, sub := 0x04, bytes := 2, access := .rw, dflts := [60], range := some (10, 600), persist := true }

/-- `SelfTestCycle`, 0x3100:05, R393 (concentrator). -/
def selfTestCycle : Obj :=
  { index := 0x3100, sub := 0x05, bytes := 1, access := .rw, dflts := [24], range := some (1, 168), persist := true }

/-- `PairState`, 0x3101:01, R393 (concentrator). -/
def pairState : Obj :=
  { index := 0x3101, sub := 0x01, bytes := 1, access := .ro }

/-- `PartnerState`, 0x3101:02, R393 (concentrator). -/
def partnerState : Obj :=
  { index := 0x3101, sub := 0x02, bytes := 1, access := .ro, dflts := [7] }

/-- `HeartbeatAge`, 0x3101:03, R393 (concentrator). -/
def heartbeatAge : Obj :=
  { index := 0x3101, sub := 0x03, bytes := 2, access := .ro, dflts := [0xffff] }

/-- `CheckpointGeneration`, 0x3101:04, R393 (concentrator). -/
def checkpointGeneration : Obj :=
  { index := 0x3101, sub := 0x04, bytes := 4, access := .ro }

/-- `CheckpointAge`, 0x3101:05, R393 (concentrator). -/
def checkpointAge : Obj :=
  { index := 0x3101, sub := 0x05, bytes := 4, access := .ro }

/-- `PartnerLost`, 0x3101:06, R393 (concentrator). -/
def partnerLost : Obj :=
  { index := 0x3101, sub := 0x06, bytes := 1, access := .ro }

/-- `Failovers`, 0x3101:07, R393 (concentrator). -/
def failovers : Obj :=
  { index := 0x3101, sub := 0x07, bytes := 4, access := .rw, counter := true }

/-- `LastFailoverCause`, 0x3101:08, R393 (concentrator). -/
def lastFailoverCause : Obj :=
  { index := 0x3101, sub := 0x08, bytes := 1, access := .ro }

/-- `LastFailoverTime`, 0x3101:09, R393 (concentrator). -/
def lastFailoverTime : Obj :=
  { index := 0x3101, sub := 0x09, bytes := 2, access := .ro }

/-- `PartnerCommand`, 0x3102:00, R393 (concentrator). -/
def partnerCommand : Obj :=
  { index := 0x3102, bytes := 1, access := .wo, range := some (1, 3) }

/-- `CheckpointData`, 0x3103:00, R393 (concentrator). -/
def checkpointData : Obj :=
  { index := 0x3103, bytes := 524288, access := .wo, upTo := true }

/-- `CheckpointImage`, 0x3104:00, R393 (concentrator). -/
def checkpointImage : Obj :=
  { index := 0x3104, bytes := 25165824, access := .wo, upTo := true }

/-- `SelfTestProgress`, 0x3105:01, R393 (concentrator). -/
def selfTestProgress : Obj :=
  { index := 0x3105, sub := 0x01, bytes := 1, access := .ro }

/-- `SelfTestCycles`, 0x3105:02, R393 (concentrator). -/
def selfTestCycles : Obj :=
  { index := 0x3105, sub := 0x02, bytes := 4, access := .rw, counter := true }

/-- `SelfTestFailures`, 0x3105:03, R393 (concentrator). -/
def selfTestFailures : Obj :=
  { index := 0x3105, sub := 0x03, bytes := 4, access := .rw, counter := true }

/-- `LeaseHolder`, 0x200C:01, R394 (front-end). -/
def leaseHolder : Obj :=
  { index := 0x200C, sub := 0x01, bytes := 1, access := .ro }

/-- `LeaseNumber`, 0x200C:02, R394 (front-end). -/
def leaseNumber : Obj :=
  { index := 0x200C, sub := 0x02, bytes := 4, access := .ro }

/-- `LeaseRemaining`, 0x200C:03, R394 (front-end). -/
def leaseRemaining : Obj :=
  { index := 0x200C, sub := 0x03, bytes := 1, access := .ro }

/-- `LeaseGrants`, 0x200C:04, R394 (front-end). -/
def leaseGrants : Obj :=
  { index := 0x200C, sub := 0x04, bytes := 4, access := .rw, counter := true }

/-- `LeaseRefusals`, 0x200C:05, R394 (front-end). -/
def leaseRefusals : Obj :=
  { index := 0x200C, sub := 0x05, bytes := 4, access := .rw, counter := true }

/-- `LeaseExpiries`, 0x200C:06, R394 (front-end). -/
def leaseExpiries : Obj :=
  { index := 0x200C, sub := 0x06, bytes := 4, access := .rw, counter := true }

/-- `UnleasedDiscards`, 0x200C:07, R394 (front-end). -/
def unleasedDiscards : Obj :=
  { index := 0x200C, sub := 0x07, bytes := 4, access := .rw, counter := true }

/-- `RootKeyHash`, 0x3000:01, R408 (concentrator). -/
def rootKeyHash : Obj :=
  { index := 0x3000, sub := 0x01, bytes := 64, access := .const }

/-- `OwnerKeyHash`, 0x3000:02, R408 (concentrator). -/
def ownerKeyHash : Obj :=
  { index := 0x3000, sub := 0x02, bytes := 64, access := .rwl }

/-- `OwnerEnrolled`, 0x3000:03, R408 (concentrator). -/
def ownerEnrolled : Obj :=
  { index := 0x3000, sub := 0x03, bytes := 1, access := .ro }

/-- `FirmwareFloor`, 0x3001:01, R408 (concentrator). -/
def firmwareFloor : Obj :=
  { index := 0x3001, sub := 0x01, bytes := 1, access := .ro }

/-- `OwnerFloor`, 0x3001:02, R408 (concentrator). -/
def ownerFloor : Obj :=
  { index := 0x3001, sub := 0x02, bytes := 1, access := .ro }

/-- `FirmwareFloorCommit`, 0x3001:03, R408 (concentrator). -/
def firmwareFloorCommit : Obj :=
  { index := 0x3001, sub := 0x03, bytes := 1, access := .rwl, range := some (1, 1) }

/-- `OwnerFloorCommit`, 0x3001:04, R408 (concentrator). -/
def ownerFloorCommit : Obj :=
  { index := 0x3001, sub := 0x04, bytes := 1, access := .rwl, range := some (1, 24) }

/-- `BootSlot`, 0x3002:01, R408 (concentrator). -/
def bootSlot : Obj :=
  { index := 0x3002, sub := 0x01, bytes := 1, access := .ro }

/-- `FirmwareVersion`, 0x3002:02, R408 (concentrator). -/
def firmwareVersion : Obj :=
  { index := 0x3002, sub := 0x02, bytes := 4, access := .ro }

/-- `BootFlags`, 0x3002:03, R408 (concentrator). -/
def bootFlags : Obj :=
  { index := 0x3002, sub := 0x03, bytes := 1, access := .ro }

/-- `SlotAVersion`, 0x3002:04, R408 (concentrator). -/
def slotAVersion : Obj :=
  { index := 0x3002, sub := 0x04, bytes := 4, access := .ro }

/-- `SlotBVersion`, 0x3002:05, R408 (concentrator). -/
def slotBVersion : Obj :=
  { index := 0x3002, sub := 0x05, bytes := 4, access := .ro }

/-- `FirmwareImageData`, 0x3003:00, R408 (concentrator). -/
def firmwareImageData : Obj :=
  { index := 0x3003, bytes := 8388608, access := .wo, upTo := true }

/-- `FirmwareActivate`, 0x3004:01, R408 (concentrator). -/
def firmwareActivate : Obj :=
  { index := 0x3004, sub := 0x01, bytes := 1, access := .rwl, range := some (1, 1) }

/-- `UpdateStatus`, 0x3004:02, R408 (concentrator). -/
def updateStatus : Obj :=
  { index := 0x3004, sub := 0x02, bytes := 1, access := .ro }

/-- `DevicePublicKey`, 0x3005:01, R408 (concentrator). -/
def devicePublicKey : Obj :=
  { index := 0x3005, sub := 0x01, bytes := 512, access := .const }

/-- `DeviceCertificate`, 0x3005:02, R408 (concentrator). -/
def deviceCertificate : Obj :=
  { index := 0x3005, sub := 0x02, bytes := 1640, access := .const }

/-- `AttestNonce`, 0x3006:01, R408 (concentrator). -/
def attestNonce : Obj :=
  { index := 0x3006, sub := 0x01, bytes := 64, access := .rw }

/-- `AttestRun`, 0x3006:02, R408 (concentrator). -/
def attestRun : Obj :=
  { index := 0x3006, sub := 0x02, bytes := 1, access := .wo, range := some (1, 1) }

/-- `AttestStatus`, 0x3006:03, R408 (concentrator). -/
def attestStatus : Obj :=
  { index := 0x3006, sub := 0x03, bytes := 1, access := .ro }

/-- `AttestReport`, 0x3006:04, R408 (concentrator). -/
def attestReport : Obj :=
  { index := 0x3006, sub := 0x04, bytes := 5296, access := .ro }

/-- `DebugChallenge`, 0x3007:01, R408 (concentrator). -/
def debugChallenge : Obj :=
  { index := 0x3007, sub := 0x01, bytes := 8, access := .ro }

/-- `DebugToken`, 0x3007:02, R408 (concentrator). -/
def debugToken : Obj :=
  { index := 0x3007, sub := 0x02, bytes := 1136, access := .wo }

/-- `DebugState`, 0x3007:03, R408 (concentrator). -/
def debugState : Obj :=
  { index := 0x3007, sub := 0x03, bytes := 1, access := .ro }

/-- `DebugLock`, 0x3007:04, R408 (concentrator). -/
def debugLock : Obj :=
  { index := 0x3007, sub := 0x04, bytes := 1, access := .wo, range := some (1, 1) }

/-- `TokenFailures`, 0x3007:05, R408 (concentrator). -/
def tokenFailures : Obj :=
  { index := 0x3007, sub := 0x05, bytes := 4, access := .rw, counter := true }

/-- `AinRole`, 0x2B00:00, R426 (concentrator). -/
def ainRole : Obj :=
  { index := 0x2B00, bytes := 32, access := .rw, entry := 1, mask := some 0x1f, persist := true }

/-- `Excitation0Current`, 0x2B01:01, R426 (concentrator). -/
def excitation0Current : Obj :=
  { index := 0x2B01, sub := 0x01, bytes := 1, access := .rw, range := some (0, 100), persist := true }

/-- `Excitation1Current`, 0x2B01:02, R426 (concentrator). -/
def excitation1Current : Obj :=
  { index := 0x2B01, sub := 0x02, bytes := 1, access := .rw, range := some (0, 100), persist := true }

/-- `SwapSettle`, 0x2B01:03, R426 (concentrator). -/
def swapSettle : Obj :=
  { index := 0x2B01, sub := 0x03, bytes := 4, access := .rw, dflts := [1000], range := some (10, 100000), persist := true }

/-- `ExcitationStatus`, 0x2B01:04, R426 (concentrator). -/
def excitationStatus : Obj :=
  { index := 0x2B01, sub := 0x04, bytes := 1, access := .ro }

/-- `SensorSetup`, 0x2B02:00, R426 (concentrator). -/
def sensorSetup : Obj :=
  { index := 0x2B02, bytes := 256, access := .rw, entry := 8, mask := some 0x7ffffff, persist := true }

/-- `SensorResults`, 0x2B03:00, R426 (concentrator). -/
def sensorResults : Obj :=
  { index := 0x2B03, bytes := 512, access := .ro }

/-- `OpenInputs`, 0x2B04:00, R426 (concentrator). -/
def openInputs : Obj :=
  { index := 0x2B04, bytes := 4, access := .ro }

/-- `AdcSelect`, 0x2C00:01, R427 (concentrator). -/
def adcSelect : Obj :=
  { index := 0x2C00, sub := 0x01, bytes := 1, access := .rw, range := some (0, 31) }

/-- `AdcStart`, 0x2C00:02, R427 (concentrator). -/
def adcStart : Obj :=
  { index := 0x2C00, sub := 0x02, bytes := 1, access := .rw, range := some (1, 1) }

/-- `AdcData`, 0x2C00:03, R427 (concentrator). -/
def adcData : Obj :=
  { index := 0x2C00, sub := 0x03, bytes := 4, access := .ro }

/-- `AdcStatus`, 0x2C00:04, R427 (concentrator). -/
def adcStatus : Obj :=
  { index := 0x2C00, sub := 0x04, bytes := 1, access := .ro }

/-- `HostConversions`, 0x2C01:01, R427 (concentrator). -/
def hostConversions : Obj :=
  { index := 0x2C01, sub := 0x01, bytes := 4, access := .rw, counter := true }

/-- `LoopConversions`, 0x2C01:02, R427 (concentrator). -/
def loopConversions : Obj :=
  { index := 0x2C01, sub := 0x02, bytes := 4, access := .rw, counter := true }

/-- `Overruns`, 0x2C01:03, R427 (concentrator). -/
def overruns : Obj :=
  { index := 0x2C01, sub := 0x03, bytes := 4, access := .rw, counter := true }

/-- `StartsIgnored`, 0x2C01:04, R427 (concentrator). -/
def startsIgnored : Obj :=
  { index := 0x2C01, sub := 0x04, bytes := 4, access := .rw, counter := true }

/-- `LoopDelayed`, 0x2C01:05, R427 (concentrator). -/
def loopDelayed : Obj :=
  { index := 0x2C01, sub := 0x05, bytes := 4, access := .rw, counter := true }

/-- `OpenInputEvents`, 0x2C01:06, R427 (concentrator). -/
def openInputEvents : Obj :=
  { index := 0x2C01, sub := 0x06, bytes := 4, access := .rw, counter := true }

/-- `MaxLoopDelay`, 0x2C01:07, R427 (concentrator). -/
def maxLoopDelay : Obj :=
  { index := 0x2C01, sub := 0x07, bytes := 1, access := .ro }

/-- `LoopSetup`, 0x2D00:00, R444 (concentrator). -/
def loopSetup : Obj :=
  { index := 0x2D00, bytes := 256, access := .rw, entry := 16, mask := some 0xffffffffffffffffffff, persist := true }

/-- `LoopSetpoint`, 0x2D01:00, R444 (concentrator). -/
def loopSetpoint : Obj :=
  { index := 0x2D01, bytes := 128, access := .rw, persist := true }

/-- `LoopLimits`, 0x2D02:00, R444 (concentrator). -/
def loopLimits : Obj :=
  { index := 0x2D02, bytes := 384, access := .rw, persist := true }

/-- `LoopGains`, 0x2D03:00, R444 (concentrator). -/
def loopGains : Obj :=
  { index := 0x2D03, bytes := 1024, access := .rw, persist := true }

/-- `LoopSchedule`, 0x2D04:00, R444 (concentrator). -/
def loopSchedule : Obj :=
  { index := 0x2D04, bytes := 256, access := .rw, persist := true }

/-- `LoopCommand`, 0x2D05:00, R444 (concentrator). -/
def loopCommand : Obj :=
  { index := 0x2D05, bytes := 1, access := .wo }

/-- `LoopStatus`, 0x2D06:00, R444 (concentrator). -/
def loopStatus : Obj :=
  { index := 0x2D06, bytes := 256, access := .ro }

/-- `PwmAssign`, 0x2D07:00, R444 (concentrator). -/
def pwmAssign : Obj :=
  { index := 0x2D07, bytes := 32, access := .rw, dflts := [countUp 12 1 0 + countUp 4 1 0x10 <<< 96 + countUp 16 1 0x20 <<< 128], persist := true }

/-- `PwmPeriod`, 0x2D08:00, R444 (concentrator). -/
def pwmPeriod : Obj :=
  { index := 0x2D08, bytes := 64, access := .rw, dflts := [rep 12 2 400 + rep 4 2 4000 <<< 192 + rep 16 2 400 <<< 256], entry := 2, range := some (100, 65535), persist := true }

/-- `TuneConfig`, 0x2D09:00, R444 (concentrator). -/
def tuneConfig : Obj :=
  { index := 0x2D09, bytes := 64, access := .rw, entry := 16, mask := some 0xffff00ffffffffffffffff, persist := true }

/-- `TuneResult`, 0x2D0A:00, R444 (concentrator). -/
def tuneResult : Obj :=
  { index := 0x2D0A, bytes := 96, access := .ro }

/-- `LoopCounters`, 0x2D0B:00, R444 (concentrator). -/
def loopCounters : Obj :=
  { index := 0x2D0B, bytes := 256, access := .rw, counter := true }

/-- `LedFullScale`, 0x2E00:00, R458 (concentrator). -/
def ledFullScale : Obj :=
  { index := 0x2E00, bytes := 1, access := .rw, dflts := [20], range := some (10, 160), persist := true }

/-- `LedChannel`, 0x2E01:00, R458 (concentrator). -/
def ledChannel : Obj :=
  { index := 0x2E01, bytes := 128, access := .rw, entry := 8, mask := some 0xffffffffffff, persist := true }

/-- `LedBinGain`, 0x2E02:00, R458 (concentrator). -/
def ledBinGain : Obj :=
  { index := 0x2E02, bytes := 32, access := .rw, dflts := [rep 16 2 0x8000], entry := 2, range := some (16384, 65535), persist := true }

/-- `FlashMask`, 0x2E03:01, R458 (concentrator). -/
def flashMask : Obj :=
  { index := 0x2E03, sub := 0x01, bytes := 2, access := .rw, persist := true }

/-- `FlashWidth`, 0x2E03:02, R458 (concentrator). -/
def flashWidth : Obj :=
  { index := 0x2E03, sub := 0x02, bytes := 2, access := .rw, dflts := [60], range := some (60, 30000), persist := true }

/-- `FlashPeriod`, 0x2E03:03, R458 (concentrator). -/
def flashPeriod : Obj :=
  { index := 0x2E03, sub := 0x03, bytes := 4, access := .rw, persist := true }

/-- `FlashPhase`, 0x2E03:04, R458 (concentrator). -/
def flashPhase : Obj :=
  { index := 0x2E03, sub := 0x04, bytes := 4, access := .rw, range := some (0, 2999999999), persist := true }

/-- `FlashFire`, 0x2E03:05, R458 (concentrator). -/
def flashFire : Obj :=
  { index := 0x2E03, sub := 0x05, bytes := 1, access := .wo, range := some (1, 1) }

/-- `LastFlashKey`, 0x2E03:06, R458 (concentrator). -/
def lastFlashKey : Obj :=
  { index := 0x2E03, sub := 0x06, bytes := 8, access := .ro }

/-- `FlashCount`, 0x2E03:07, R458 (concentrator). -/
def flashCount : Obj :=
  { index := 0x2E03, sub := 0x07, bytes := 4, access := .rw, counter := true }

/-- `FlashSkipped`, 0x2E03:08, R458 (concentrator). -/
def flashSkipped : Obj :=
  { index := 0x2E03, sub := 0x08, bytes := 4, access := .rw, counter := true }

/-- `LedStatus`, 0x2E04:00, R458 (concentrator). -/
def ledStatus : Obj :=
  { index := 0x2E04, bytes := 32, access := .ro }

/-- `FeedbackLed`, 0x2E05:01, R458 (concentrator). -/
def feedbackLed : Obj :=
  { index := 0x2E05, sub := 0x01, bytes := 1, access := .rw, range := some (0, 15) }

/-- `FeedbackSetup`, 0x2E05:02, R458 (concentrator). -/
def feedbackSetup : Obj :=
  { index := 0x2E05, sub := 0x02, bytes := 1, access := .rw, range := some (0, 31) }

/-- `FeedbackTarget`, 0x2E05:03, R458 (concentrator). -/
def feedbackTarget : Obj :=
  { index := 0x2E05, sub := 0x03, bytes := 2, access := .rw }

/-- `FeedbackRun`, 0x2E05:04, R458 (concentrator). -/
def feedbackRun : Obj :=
  { index := 0x2E05, sub := 0x04, bytes := 1, access := .wo, range := some (0, 1) }

/-- `FeedbackResult`, 0x2E05:05, R458 (concentrator). -/
def feedbackResult : Obj :=
  { index := 0x2E05, sub := 0x05, bytes := 4, access := .ro }

/-- `SafetyStateCode`, 0x2F00:01, R459 (concentrator). -/
def safetyStateCode : Obj :=
  { index := 0x2F00, sub := 0x01, bytes := 1, access := .ro }

/-- `SafetyInputs`, 0x2F00:02, R459 (concentrator). -/
def safetyInputs : Obj :=
  { index := 0x2F00, sub := 0x02, bytes := 1, access := .ro }

/-- `SafetyFault`, 0x2F00:03, R459 (concentrator). -/
def safetyFault : Obj :=
  { index := 0x2F00, sub := 0x03, bytes := 1, access := .ro }

/-- `BiasRequest`, 0x2F01:00, R459 (concentrator). -/
def biasRequest : Obj :=
  { index := 0x2F01, bytes := 1, access := .rw, mask := some 0x3 }

/-- `SafetyBundleData`, 0x2F02:00, R459 (concentrator). -/
def safetyBundleData : Obj :=
  { index := 0x2F02, bytes := 1152, access := .rwl }

/-- `SafetyConfig`, 0x2F03:00, R459 (concentrator). -/
def safetyConfig : Obj :=
  { index := 0x2F03, bytes := 96, access := .ro }

/-- `SafetyCommand`, 0x2F04:00, R459 (concentrator). -/
def safetyCommand : Obj :=
  { index := 0x2F04, bytes := 1, access := .rwl, range := some (1, 2) }

/-- `TestPulses, TestsAborted, TestFailures, Refusals, StimulusFailures`, 0x2F05:01-05, R459 (concentrator). -/
def safetyCounters : Obj :=
  { index := 0x2F05, sub := 0x01, count := 5, bytes := 4, access := .rw, counter := true }

/-- `ChangeLog`, 0x2F06:00, R459 (concentrator). -/
def changeLog : Obj :=
  { index := 0x2F06, bytes := 1024, access := .ro }

/-- `ChangeLogOverwritten`, 0x2F07:00, R459 (concentrator). -/
def changeLogOverwritten : Obj :=
  { index := 0x2F07, bytes := 4, access := .rw, counter := true }

/-- `ResetCause`, 0x2001:01, R474 (concentrator). -/
def resetCause : Obj :=
  { index := 0x2001, sub := 0x01, bytes := 1, access := .ro }

/-- `ResetCount`, 0x2001:02, R474 (concentrator). -/
def resetCount : Obj :=
  { index := 0x2001, sub := 0x02, bytes := 4, access := .ro }

/-- `RstStuckEvents`, 0x2001:03, R474 (concentrator). -/
def rstStuckEvents : Obj :=
  { index := 0x2001, sub := 0x03, bytes := 4, access := .rw, counter := true }

/-- `WatchdogResets`, 0x2001:04, R474 (concentrator). -/
def watchdogResets : Obj :=
  { index := 0x2001, sub := 0x04, bytes := 4, access := .rw, counter := true }

/-- `ResetCommand`, 0x2002:01, R474 (concentrator). -/
def resetCommand : Obj :=
  { index := 0x2002, sub := 0x01, bytes := 4, access := .wo, range := some (1952805746, 1952805746) }

/-- `RstStuckRelease`, 0x2002:02, R474 (concentrator). -/
def rstStuckRelease : Obj :=
  { index := 0x2002, sub := 0x02, bytes := 1, access := .rw, dflts := [1], range := some (0, 1), persist := true }

/-- `WatchdogPeriod`, 0x2002:03, R474 (concentrator). -/
def watchdogPeriod : Obj :=
  { index := 0x2002, sub := 0x03, bytes := 2, access := .rw, dflts := [1000], range := some (100, 10000), persist := true }

/-- `BootStep`, 0x2003:01, R474 (concentrator). -/
def bootStep : Obj :=
  { index := 0x2003, sub := 0x01, bytes := 1, access := .ro }

/-- `BootElapsed`, 0x2003:02, R474 (concentrator). -/
def bootElapsed : Obj :=
  { index := 0x2003, sub := 0x02, bytes := 4, access := .ro }

/-- `WarmupTime`, 0x2003:03, R474 (concentrator). -/
def warmupTime : Obj :=
  { index := 0x2003, sub := 0x03, bytes := 4, access := .ro }

/-- `FeResetCause`, 0x2060:01, R475 (front-end). -/
def feResetCause : Obj :=
  { index := 0x2060, sub := 0x01, bytes := 1, access := .ro }

/-- `FeUptime`, 0x2060:02, R475 (front-end). -/
def feUptime : Obj :=
  { index := 0x2060, sub := 0x02, bytes := 4, access := .ro }

/-- `FeRstStuckRelease`, 0x2060:03, R475 (front-end). -/
def feRstStuckRelease : Obj :=
  { index := 0x2060, sub := 0x03, bytes := 1, access := .rw, dflts := [1], range := some (0, 1), persist := true }

/-- `FeResetCommand`, 0x2061:00, R475 (front-end). -/
def feResetCommand : Obj :=
  { index := 0x2061, bytes := 4, access := .wo, range := some (1952805746, 1952805746) }

/-- `ProbeSelect`, 0x3200:00, R504 (concentrator). -/
def probeSelect : Obj :=
  { index := 0x3200, bytes := 32, access := .rwl }

/-- `ProbeStatus`, 0x3201:01, R504 (concentrator). -/
def probeStatus : Obj :=
  { index := 0x3201, sub := 0x01, bytes := 1, access := .ro }

/-- `ScanEnable`, 0x3201:02, R504 (concentrator). -/
def scanEnable : Obj :=
  { index := 0x3201, sub := 0x02, bytes := 1, access := .rwl, range := some (0, 1) }

/-- `FeProbe0, FeProbe1`, 0x2062:01-02, R504 (front-end). -/
def feProbe : Obj :=
  { index := 0x2062, sub := 0x01, count := 2, bytes := 4, access := .rw }

/-- `FeDieTemperature`, 0x2063:01, R504 (front-end). -/
def feDieTemperature : Obj :=
  { index := 0x2063, sub := 0x01, bytes := 4, access := .ro }

/-- `FeVin`, 0x2063:02, R504 (front-end). -/
def feVin : Obj :=
  { index := 0x2063, sub := 0x02, bytes := 2, access := .ro }

/-- `FeVbuck`, 0x2063:03, R504 (front-end). -/
def feVbuck : Obj :=
  { index := 0x2063, sub := 0x03, bytes := 2, access := .ro }

end O

/-- Rows of the front-end dictionary, part 1. -/
def feObjs1 : List Obj :=
  [O.thresholdTiming, O.thresholdValidation, O.biasTrim, O.channelMode, O.validationWindow, sub0 0x2015 16,
    O.spareAssignGroup, sub0 0x2016 16, O.spareStatusGroup, O.baselineStatus, O.channelLive, sub0 0x2008 16,
    O.groupPowerMode, O.groupIdleTime, O.groupRequest, O.groupAwake, sub0 0x2020 16, O.tdcGroupStatus, O.timeOffset,
    O.walkTable, O.walkEnable, sub0 0x2024 4, O.histogramExponent, O.rateFloor, O.staleTime, O.freeze, sub0 0x2025
    2, O.pulserRate, O.pulserForce, O.culletTableSelect, O.culletTableData, O.culletStatus, sub0 0x2029 4,
    O.epochState, O.currentSecond, O.lastEpochLength, O.flywheelEpochs, sub0 0x202A 16, O.doublePulseRejects,
    O.slotDelay]

/-- Rows of the front-end dictionary, part 2. -/
def feObjs2 : List Obj :=
  [O.pulserCollisions, sub0 0x2030 2, O.rateLimit, O.rateMaxExponent, O.rateExponent, O.lostHits, sub0 0x2033 16,
    O.sorterStatus, sub0 0x2034 2, O.correctedErrors, O.uncorrectedErrors, sub0 0x2035 4, O.scalerInterval,
    O.scalerExponent, O.scalerSource, O.scalerEnable, O.scalerRead, sub0 0x2037 2, O.streamStatus, O.keepAliveCells,
    O.calibrationRecords, sub0 0x2040 2, O.downlinkState, sub0 0x2041 4, O.uplinkEmphasis, sub0 0x2042 4,
    O.badMarkers, O.realigns, sub0 0x2043 5, O.uplinkPrbsMode, O.downlinkPrbsMode, O.fePrbsErrors, O.prbsDuration,
    sub0 0x2000 3, O.feProductCode, O.feRevision, O.feSerialNumber, O.feLastAbort, sub0 0x2007 3,
    O.feDuplicateRequests]

/-- Rows of the front-end dictionary, part 3. -/
def feObjs3 : List Obj :=
  [O.feOutstandingRefused, O.feUnleasedRequests, O.feMode, O.feModeRequest, O.feClockStatus, sub0 0x2004 3,
    O.crystalFitted, O.baseSource, O.fallbackEvents, sub0 0x2005 3, O.feGateControl, O.feGateStatus,
    O.feGatedAccesses, O.feResourceHealth, O.feFaultLog, sub0 0x2052 3, O.feAnnealRun, O.feAnnealStatus,
    O.feRetiredRestore, sub0 0x2053 3, O.configCorrected, O.configUncorrected, O.majorityRepairs, sub0 0x200C 7,
    O.leaseHolder, O.leaseNumber, O.leaseRemaining, O.leaseGrants, O.leaseRefusals, O.leaseExpiries,
    O.unleasedDiscards, sub0 0x2060 3, O.feResetCause, O.feUptime, O.feRstStuckRelease, O.feResetCommand, sub0
    0x2062 2, O.feProbe, sub0 0x2063 3, O.feDieTemperature]

/-- Rows of the front-end dictionary, part 4. -/
def feObjs4 : List Obj :=
  [O.feVin, O.feVbuck]

/-- The QDR-F256 dictionary (R326). -/
def feObjs : List Obj :=
  feObjs1 ++ feObjs2 ++ feObjs3 ++ feObjs4

/-- Rows of the concentrator dictionary, part 1. -/
def concObjs1 : List Obj :=
  [O.laneState, O.laneControl, O.downlinkEmphasis, O.laneErrors, O.prbsErrors, O.prbsLocked, sub0 0x2306 1,
    O.trainDwell, O.trainResult, O.quadStatus, O.backEndMap, sub0 0x2200 3, O.timeSeconds, O.timeNanoseconds,
    O.timeFraction, sub0 0x2201 3, O.incrementBase, O.incrementAo, O.incrementInUse, sub0 0x2202 7, O.timeStateCode,
    O.timeFlags, O.alignSeconds, O.alignArm, O.ppsPolarity, O.ppsRejected, O.ppsMissed, sub0 0x2203 4, O.ppsSeconds,
    O.ppsNanoseconds, O.ppsFraction, O.ppsVerdict, sub0 0x2204 5, O.tiuMode, O.tiuPort, O.tiuSamples,
    O.tiuGateSource, O.tiuRun, sub0 0x2205 8, O.tiuMean]

/-- Rows of the concentrator dictionary, part 2. -/
def concObjs2 : List Obj :=
  [O.tiuStdDev, O.tiuMin, O.tiuMax, O.tiuValid, O.tiuWrongOrder, O.tiuTimeouts, O.tiuStatus, sub0 0x2206 3,
    O.autoLatency, O.latencyPeriod, O.latencySamples, O.portLatency, O.asymmetry, sub0 0x2209 6, O.constCtx,
    O.constCrx, O.constFrx, O.constFtx, O.constFturn, O.constKmark, sub0 0x220A 3, O.recordEnable, O.markEnable,
    O.lateMarks, O.portEnable, O.portState, sub0 0x2502 3, O.sortWindow, O.staleTicks, O.rejoinCells, sub0 0x2503 4,
    O.horizonKey, O.horizonPort, O.storeOccupancy, O.storePeak, sub0 0x2504 5, O.lateWords, O.unplacedWords,
    O.lagEvents, O.storeFullEvents]

/-- Rows of the concentrator dictionary, part 3. -/
def concObjs3 : List Obj :=
  [O.unleasedWords, O.portLateWords, sub0 0x2506 3, O.sliceLength, O.sliceOverlap, O.sliceNumber, O.channelRates,
    sub0 0x2510 5, O.carouselEnable, O.ringSize, O.recordStoreSize, O.tierAReserve, O.compressTiers, sub0 0x2511 7,
    O.carouselState, O.tailKey, O.headKey, O.carouselDepth, O.ringLaps, O.recordStoreUse, O.recordStorePeak,
    O.windowProfiles, sub0 0x2513 12, O.trigin, O.triginEdges, O.triginHeldOff, sub0 0x2514 4, O.randomRate,
    O.randomProfile, O.flashProfile, O.flashDelay, sub0 0x2515 4, O.queueOccupancy, O.queueTierA, O.queuePeak,
    O.nextTriggerNumber, sub0 0x2516 5, O.highWater, O.lowWater, O.prescaleExpB]

/-- Rows of the concentrator dictionary, part 4. -/
def concObjs4 : List Obj :=
  [O.prescaleExpC, O.prescaleMaxExp, sub0 0x2517 13, O.offered, O.admitted, O.prescaled, O.rejected,
    O.mergedTriggers, O.demoted, sub0 0x2518 6, O.complete, O.truncated, O.expired, O.fillTimeouts,
    O.lookbackRequests, O.invalid, sub0 0x2519 2, O.fillExtra, O.fillTimeout, sub0 0x251A 2, O.lateEntries,
    O.lateCoalesced, O.engineMap, O.clusterMap, sub0 0x2602 4, O.clusterIdle, O.clusterAwake, O.migrateLive,
    O.clusterWakes, O.taskImageData, sub0 0x2604 3, O.taskLoadSlot, O.taskUnload, O.taskLoadStatus, O.taskSlots,
    O.instanceConfig, sub0 0x2607 2, O.instanceSelect, O.instanceCommand, O.instanceState]

/-- Rows of the concentrator dictionary, part 5. -/
def concObjs5 : List Obj :=
  [O.instanceFault, O.subscriptions, O.sliceCounters, O.engineCycles, sub0 0x260D 4, O.parityRestarts, O.taskFaults,
    O.serviceCalls, O.preemptions, sub0 0x2700 6, O.firmwareRegion, O.carouselRegion, O.taskPool, O.taskPoolFree,
    O.writtenBlocks, O.carouselSizePending, sub0 0x2701 2, O.engineWeight, O.moverWeight, O.hbmTraffic,
    O.moverOwner, O.moverStatus, sub0 0x2705 6, O.moverPageFaults, O.moverAccessFaults, O.poisonPropagated,
    O.invalidDescriptors, O.tailRefused, O.drains, sub0 0x2900 6, O.flipData, O.flipCheck, O.flipTarget,
    O.flipMatch, O.flipArm, O.flipAddress, sub0 0x2901 5, O.hbmCorrected, O.hbmUncorrected, O.poisonedReads]

/-- Rows of the concentrator dictionary, part 6. -/
def concObjs6 : List Obj :=
  [O.sramCorrected, O.sramUncorrected, sub0 0x2902 3, O.lastErrorAddress, O.lastErrorSyndrome, O.lastErrorKind, sub0
    0x2800 2, O.recordBlockSize, O.unitYield, sub0 0x2801 3, O.marverUnitsLive, O.unitBusy, O.jobsWaiting, sub0
    0x2802 8, O.inputBytes, O.outputBytes, O.jobs, O.noGain, O.overflows, O.unitFaults, O.yields, O.dictCorrected,
    O.marverContexts, sub0 0x2810 1, O.bulkShare, sub0 0x2811 3, O.class0Queue, O.class0QueuePeak, O.bulkQueue, sub0
    0x2812 6, O.recordsSent, O.recordsLost, O.bulkRecordsSent, O.class0Words, O.class0QueueFull, O.class0Exceeded,
    O.class0Residence, O.laneTraffic, O.deviceType, O.errorRegister]

/-- Rows of the concentrator dictionary, part 7. -/
def concObjs7 : List Obj :=
  [O.errorCount, O.errorHistory, O.deviceName, O.hardwareVersion, O.softwareVersion, O.store, O.restore,
    O.producerHeartbeat, O.vendorId, sub0 0x2010 7, O.canArbitrationRate, O.canDataRate, O.canNodeIdSource,
    O.canNodeId, O.canNodeIdInUse, O.nmtResetNode, O.nmtResetsRefused, sub0 0x2011 5, O.tpdoPeriod, O.tpdoMap, sub0
    0x2012 5, O.duplicateRequests, O.outstandingRefused, O.emcyDropped, O.ownershipConflicts, O.relayTimeouts,
    O.lastAbort, sub0 0x2F20 6, O.sessionOpen, O.sessionClose, O.sessionState, O.sessionTimeout, O.passwordChange,
    O.passwordFailures, O.clockDomainStatus, sub0 0x2101 3, O.aoSource, O.engineClock, O.aoOnFallback, sub0 0x2102
    6]

/-- Rows of the concentrator dictionary, part 8. -/
def concObjs8 : List Obj :=
  [O.meterDomain, O.meterGate, O.meterRun, O.meterCount, O.meterDeviation, O.meterStatus, sub0 0x2103 3,
    O.gateControl, O.gateStatus, O.gatedAccesses, sub0 0x2104 6, O.powerStateCode, O.powerRequest, O.wakeSources,
    O.wakeAt, O.lastWakeCause, O.clockLostEvents, sub0 0x2000 9, O.logicalEnginesLive, O.backEndLanesLive,
    O.spareBackEndLanes, O.ingressLanesLive, O.channelsLive, O.sortStoreCapacity, O.bucketIndexCapacity,
    O.hbmRetiredFrames, O.hbmSpareRows, sub0 0x2903 2, O.hbmScrubPeriod, O.sramScrubPeriod, sub0 0x2904 5,
    O.hbmPassProgress, O.hbmPasses, O.sramPasses, O.scrubUncorrected, O.linesSkipped, sub0 0x2A00 7, O.laneHealth,
    O.quadHealth, O.engineHealth]

/-- Rows of the concentrator dictionary, part 9. -/
def concObjs9 : List Obj :=
  [O.clusterHealth, O.marverHealth, O.sramHealth, O.pllHealth, O.hbmRowTable, O.faultLog, sub0 0x2A03 4,
    O.nextEntry, O.faultLogAck, O.faultNotifyMask, O.faultLogOverwritten, sub0 0x2A04 6, O.annealOnSleep,
    O.annealInterval, O.annealBudget, O.annealRun, O.annealState, O.annealPending, O.portTable, sub0 0x2401 4,
    O.claims, O.claimsRefused, O.leaseLosses, O.renewalsUnanswered, sub0 0x3100 5, O.partnerRole, O.autoFailover,
    O.failoverAlign, O.checkpointPeriod, O.selfTestCycle, sub0 0x3101 9, O.pairState, O.partnerState,
    O.heartbeatAge, O.checkpointGeneration, O.checkpointAge, O.partnerLost, O.failovers, O.lastFailoverCause,
    O.lastFailoverTime]

/-- Rows of the concentrator dictionary, part 10. -/
def concObjs10 : List Obj :=
  [O.partnerCommand, O.checkpointData, O.checkpointImage, sub0 0x3105 3, O.selfTestProgress, O.selfTestCycles,
    O.selfTestFailures, sub0 0x3000 3, O.rootKeyHash, O.ownerKeyHash, O.ownerEnrolled, sub0 0x3001 4,
    O.firmwareFloor, O.ownerFloor, O.firmwareFloorCommit, O.ownerFloorCommit, sub0 0x3002 5, O.bootSlot,
    O.firmwareVersion, O.bootFlags, O.slotAVersion, O.slotBVersion, O.firmwareImageData, sub0 0x3004 2,
    O.firmwareActivate, O.updateStatus, sub0 0x3005 2, O.devicePublicKey, O.deviceCertificate, sub0 0x3006 4,
    O.attestNonce, O.attestRun, O.attestStatus, O.attestReport, sub0 0x3007 5, O.debugChallenge, O.debugToken,
    O.debugState, O.debugLock, O.tokenFailures]

/-- Rows of the concentrator dictionary, part 11. -/
def concObjs11 : List Obj :=
  [O.ainRole, sub0 0x2B01 4, O.excitation0Current, O.excitation1Current, O.swapSettle, O.excitationStatus,
    O.sensorSetup, O.sensorResults, O.openInputs, sub0 0x2C00 4, O.adcSelect, O.adcStart, O.adcData, O.adcStatus,
    sub0 0x2C01 7, O.hostConversions, O.loopConversions, O.overruns, O.startsIgnored, O.loopDelayed,
    O.openInputEvents, O.maxLoopDelay, O.loopSetup, O.loopSetpoint, O.loopLimits, O.loopGains, O.loopSchedule,
    O.loopCommand, O.loopStatus, O.pwmAssign, O.pwmPeriod, O.tuneConfig, O.tuneResult, O.loopCounters,
    O.ledFullScale, O.ledChannel, O.ledBinGain, O.flashMask, O.flashWidth, O.flashPeriod]

/-- Rows of the concentrator dictionary, part 12. -/
def concObjs12 : List Obj :=
  [O.flashPhase, O.flashFire, O.lastFlashKey, O.flashCount, O.flashSkipped, O.ledStatus, O.feedbackLed,
    O.feedbackSetup, O.feedbackTarget, O.feedbackRun, O.feedbackResult, O.safetyStateCode, O.safetyInputs,
    O.safetyFault, O.biasRequest, O.safetyBundleData, O.safetyConfig, O.safetyCommand, O.safetyCounters,
    O.changeLog, O.changeLogOverwritten, sub0 0x2001 4, O.resetCause, O.resetCount, O.rstStuckEvents,
    O.watchdogResets, sub0 0x2002 3, O.resetCommand, O.rstStuckRelease, O.watchdogPeriod, sub0 0x2003 3, O.bootStep,
    O.bootElapsed, O.warmupTime, O.probeSelect, sub0 0x3201 2, O.probeStatus, O.scanEnable, sub0 0x1010 3, sub0
    0x1011 3]

/-- Rows of the concentrator dictionary, part 13. -/
def concObjs13 : List Obj :=
  [sub0 0x1018 4, sub0 0x2E03 8, sub0 0x2E05 5, sub0 0x2F00 3, sub0 0x2F05 5]

/-- The QDR-C96 dictionary (R325). -/
def concObjs : List Obj :=
  concObjs1 ++ concObjs2 ++ concObjs3 ++ concObjs4 ++ concObjs5 ++ concObjs6 ++ concObjs7 ++ concObjs8 ++ concObjs9 ++ concObjs10 ++ concObjs11 ++ concObjs12 ++ concObjs13

end Sys2Proof.Machine
end

