-- ==== Sys2Proof/Machine/Access.lean ====
section
/-! DEFINITION. The rules that hold for every object access (R298-R300, R8, R9, R321): lookup, access type, length,
reserved fields and range.  The chapters' own effects are applied where these checks pass. -/

namespace Sys2Proof.Machine

/-- An abort: its code (R321) and, for 0x0800_0022, the owner named (R324). -/
structure Abort where
  code : Nat
  owner : Nat := 0
  deriving DecidableEq, Repr

abbrev Res (α : Type) := Except Abort α

namespace Abort
def outOfSequence : Abort := { code := 0x05030000 }
def timeout : Abort := { code := 0x05040000 }
def badOpcode : Abort := { code := 0x05040001 }
def noStaging : Abort := { code := 0x05040005 }
def readOfWo : Abort := { code := 0x06010001 }
def writeOfRo : Abort := { code := 0x06010002 }
def noObject : Abort := { code := 0x06020000 }
def notMappable : Abort := { code := 0x06040041 }
def pdoLength : Abort := { code := 0x06040042 }
def hardware : Abort := { code := 0x06060000 }
def badLength : Abort := { code := 0x06070010 }
def noSub : Abort := { code := 0x06090011 }
def range : Abort := { code := 0x06090030 }
def general : Abort := { code := 0x08000000 }
def outstanding : Abort := { code := 0x08000020 }
def control : Abort := { code := 0x08000021 }
/-- Present state: an owned resource; the owner is named (R322, R324). -/
def owned (owner : Nat) : Abort := { code := 0x08000022, owner := owner }
def unreachable : Abort := { code := 0x08000024 }
end Abort

/-- The owner code of kind and instance (R324). -/
def ownerCode (kind inst : Nat) : Nat := kind * 2 ^ 24 + inst

/-- The row of (index, sub-index) in a dictionary with the position in the row, or the abort of R298. -/
def lookupObj (os : List Obj) (index sub : Nat) : Res (Obj × Nat) :=
  match os.find? fun o => o.index = index && o.sub ≤ sub && sub < o.sub + o.count with
  | some o => .ok (o, sub - o.sub)
  | none => if os.any fun o => o.index = index then .error Abort.noSub else .error Abort.noObject

/-- The width in bytes of an object's entries. -/
def Obj.width (o : Obj) : Nat := if o.entry = 0 then o.bytes else o.entry

/-- The bitwise and of two numbers. -/
def andBits (a b : Nat) : Nat := a &&& b

/-- A written value without its reserved fields (R8). -/
def Obj.masked (o : Obj) (v : Nat) : Nat :=
  match o.mask with
  | none => v
  | some m => andBits v (rep (o.bytes / o.width) o.width m)

/-- Whether every entry of a written value is in the card's range. -/
def Obj.inRange (o : Obj) (v : Nat) : Bool :=
  if o.counter then decide (v = 0)
  else match o.range with
    | none => true
    | some (lo, hi) =>
      (List.range (o.bytes / o.width)).all fun i =>
        let e := entryGet (8 * o.width) v i
        let x : Int := if o.signed then toSigned (8 * o.width) e else e
        decide (lo ≤ x ∧ x ≤ hi)

/-- Whether an object may be read (R300). -/
def Obj.readable (o : Obj) : Res Unit := if o.access = .wo then .error Abort.readOfWo else .ok ()

/-- Whether an object may be written at all (R300), as each message of a WRITE_AT sequence asks. -/
def Obj.writable (o : Obj) (session : Bool) : Res Unit :=
  match o.access with
  | .ro | .const => .error Abort.writeOfRo
  | .rwl => if session then .ok () else .error Abort.control
  | _ => .ok ()

/-- The checks of a write that need the object alone (R298-R300, R8, R9): the value without reserved fields, or the
abort.  `session` says that the writer may write rwl objects (R319). -/
def Obj.checkWrite (o : Obj) (session : Bool) (len v : Nat) : Res Nat :=
  match o.access with
  | .ro | .const => .error Abort.writeOfRo
  | a =>
    if a = .rwl ∧ session = false then .error Abort.control
    else if (if o.upTo then decide (len ≤ o.bytes) else decide (len = o.bytes)) = false then .error Abort.badLength
    else
      let w := o.masked (v % 2 ^ (8 * len))
      if o.inRange w then .ok w else .error Abort.range

end Sys2Proof.Machine
end

