-- ==== Sys2Proof/Machine/TypesLink.lean ====
section
/-! DEFINITION. The state of one Birquin Link lane (chapters 05 and 06): its receiver and transmitter, its bring-up and
training, its test mode and its link statistics; and the health entry of a resource (R351, R352). -/

namespace Sys2Proof.Machine

/-- The states of a lane, in the order of the codes of `LaneState` (R117). -/
inductive LaneSt where
  | disabled | noSignal | cdrLock | hunt | aligned | detect | train | lock | caps | active | parked | unparking
  | prbs | retired
  deriving DecidableEq, Repr

/-- The four kinds of lane of R94. -/
inductive LaneKind where
  | downlink | ingress | backEnd | peer
  deriving DecidableEq, Repr

/-- A decoded cell header (R120) without its return fields. -/
structure Cell where
  cls : Nat := 0
  kind : Nat := 0
  seq : Nat := 0
  poison : Bool := false
  comp : Bool := false
  payload : List Word := []
  deriving DecidableEq, Repr

/-- The return fields of a cell (R120): Ack, NAK, credit class and credits. -/
structure Returns where
  ack : Nat := 255
  nak : Bool := false
  ccls : Nat := 0
  credits : Nat := 0
  deriving DecidableEq, Repr

/-- A run of initiate (1) or answer (2) cells still to be sent on a lane (R142).  At the end of an answer run the
transmitter is synchronised when `sync` says that the run's scope covers it. -/
structure Run where
  signal : Nat
  scope : Nat
  left : Nat
  sync : Bool := true
  deriving DecidableEq, Repr

/-- The link statistics of a lane (R123, R144, R146); `crcRun` counts CRC failures modulo 256 for the fault events of
R146. -/
structure LinkStats where
  crc : Nat := 0
  crcRun : Nat := 0
  naks : Nat := 0
  replays : Nat := 0
  proto : Nat := 0
  discarded : Nat := 0
  answerTimeouts : Nat := 0
  duplicates : Nat := 0
  deriving DecidableEq, Repr

/-- A transmitter, per lane direction (R136, R139, R141).  `buf` holds the unacknowledged cells, oldest first; `replay`
is how many of them a replay in progress has sent again; `naked` is when a NAK was registered; `c0` are the class-0 words
that wait, `c1` and `c3` the whole messages that wait, `p1` and `p3` the rest of a message already begun on the lane
(R134), `q0` class-0 cells built whole and `q0At` the ticks at which they were (R147), `timed` the words of the control-only cell due; `got` and `sent` are the consumer's
counters by class; `slotAt` is the tick of the slot last begun (R95). -/
structure Tx where
  una : Nat := 0
  next : Nat := 0
  buf : List Cell := []
  replay : Option Nat := none
  naked : Option Nat := none
  timer : Nat := 0
  lastReplay : Option (Nat × Nat) := none
  progress : Nat := 0
  got : Bank Nat := []
  sent : Bank Nat := []
  c0 : List Word := []
  q0 : List (List Word) := []
  q0At : List Nat := []
  c1 : List (List Word) := []
  c3 : List (List Word) := []
  p1 : List Word := []
  p3 : List Word := []
  timed : List Word := []
  last13 : Nat := 3
  since13 : Nat := 63
  since2 : Nat := 0
  runs : List Run := []
  synced : Bool := false
  awaiting : Option Nat := none
  waitScope : Nat := 0
  ansFails : Nat := 0
  scr : Nat := 2 ^ 58 - 1
  line : Nat := 0
  lastCell : Option Cell := none
  pre : Nat := 0
  post : Nat := 8
  slotAt : Option Nat := none
  deriving DecidableEq, Repr

/-- A receiver, per lane direction (R136, R139).  `exp` is E; `recvd` and `freed` count the cells received and removed
by class; `reported` is the count of credit units last reported for each class; `asm1` and `asm3` are the words of a
message that is still in parts, by class, each with whether its cell was poisoned (R135); `buf2` the class-2 cells that wait
for the Gather. -/
structure Rx where
  exp : Nat := 0
  armed : Bool := true
  nak : Bool := false
  recvd : Bank Nat := []
  freed : Bank Nat := []
  reported : Bank Nat := []
  lastCls : Nat := 3
  descr : Nat := 0
  asm1 : List (Word × Bool) := []
  asm3 : List (Word × Bool) := []
  buf2 : List (List Word) := []
  ignoring : Bool := false
  synced : Bool := false
  deriving DecidableEq, Repr

/-- Where Tightrope stands on an ingress lane (R106): 0 word checks, 1 bit checks, 2 verifying. -/
structure Tight where
  phase : Nat := 0
  count : Nat := 0
  due : Nat := 0
  deriving DecidableEq, Repr

/-- Training of a trained lane (R108-R111).  `errs` are the PRBS-31 errors counted per preset of the sweep; `clocked` and
`found` say that in TRAIN the clock is recovered and the markers are found (R105); `asked` is the far end's latest valid
request, applied at the next slot boundary (R110); `farDoneSeen` says that the far end has said in the phase that it is done
(R108); `holdoff` is when the hold-off after a failed phase ends (R109). -/
structure Train where
  clocked : Bool := false
  found : Bool := false
  asked : Option Nat := none
  sweep : Nat := 0
  request : Nat := 0
  errs : Bank Nat := []
  chosen : Option Nat := none
  own : Nat := 0
  done : Bool := false
  farDoneSeen : Bool := false
  skip : Nat := 0
  dwellStart : Option Nat := none
  senses : Nat := 0
  okCells : Nat := 0
  farCaps : Option Nat := none
  parkCells : Nat := 0
  parkLeft : Nat := 0
  retrains : Nat := 0
  gen : Nat := 2 ^ 31 - 1
  chk : Nat := 0
  holdoff : Option Nat := none
  everActive : Bool := false
  deriving DecidableEq, Repr

/-- A PRBS generator and checker (R102).  `gen` and `chk` are the shift registers of the generator and the checker, newest
bit lowest; `run` counts the error-free bits in a row of a checker that is not locked; `errsAt` are the bit positions of
the errors of the last 1,024 bits; `pend` is a code that waits for the next slot boundary (R116). -/
structure Prbs where
  mode : Nat := 0
  locked : Bool := false
  gen : Nat := 2 ^ 31 - 1
  chk : Nat := 0
  run : Nat := 0
  pos : Nat := 0
  errsAt : List Nat := []
  pend : Option Nat := none
  until? : Option Nat := none
  deriving DecidableEq, Repr

/-- One lane end.  `since` is the tick of entry to the state; `good` and `bad` are runs of markers.  `frame` is where the
receiver's slot begins in the line as it arrives, `prev` the line of the slot before, `verifying` whether a marker has set
the frame, `slip` the bits by which it moves at the next slot boundary, `gap` whether the cell of the next slot is cut by the move and is not judged
(R105, R106). -/
structure Lane where
  st : LaneSt := .disabled
  since : Nat := 0
  frame : Nat := 0
  prev : Nat := 0
  verifying : Bool := false
  slip : Nat := 0
  gap : Bool := false
  good : Nat := 0
  bad : Nat := 0
  retries : Nat := 0
  signal : Bool := false
  markerSeen : Bool := false
  markerInWord : Bool := false
  bitSlips : Nat := 0
  wordSlips : Nat := 0
  tight : Option Tight := none
  failHold : Option Nat := none
  fails : Nat := 0
  train : Train := {}
  prbs : Prbs := {}
  parkReq : Option Nat := none
  unparkDue : Option Nat := none
  identity : Option Nat := none
  announced : Option Nat := none
  rx : Rx := {}
  tx : Tx := {}
  stats : LinkStats := {}
  deriving DecidableEq, Repr

/-- What a receiver has delivered and no command has taken up yet: a class-0 word, or a management message (`mgmt`),
with the lane it came on and the tick at which its cell's marker began. -/
structure Delivered where
  lane : Nat
  tick : Nat
  words : List Word
  mgmt : Bool := false
  poisoned : Bool := false
  deriving DecidableEq, Repr

/-- The states of a resource (R352). -/
inductive HealthSt where
  | healthy | suspect | retired
  deriving DecidableEq, Repr

/-- The leaky-bucket account of a resource (R351, R373).  `before` is the tick of its last event, and the counter before the
first event of that tick (R372). -/
structure Health where
  counter : Nat := 0
  st : HealthSt := .healthy
  pending : Bool := false
  testing : Option Nat := none
  failedTest : Bool := false
  events : Nat := 0
  before : Option (Nat × Nat) := none
  deriving DecidableEq, Repr

/-- A cached transaction of an in-band source (R308); `rcvd` is the tick its request was received. -/
structure Trans where
  id : Nat
  opcode : Nat
  index : Nat
  sub : Nat
  resp : Option (List Word)
  again : List (Nat × Nat) := []
  lane : Nat := 0
  rcvd : Nat := 0
  deriving DecidableEq, Repr

/-- A DOMAIN transfer in staging (R305): the bytes so far, the tick of the last message, and whether it timed out. -/
structure Staging where
  src : Nat
  index : Nat
  sub : Nat
  len : Nat
  val : Nat
  last : Nat
  dead : Bool := false
  deriving DecidableEq, Repr

/-- The clock condition of one domain (R332, R338).  `failed` says that its second failed judgement has been reported. -/
structure ClockDom where
  running : Bool := false
  stable : Bool := false
  onFallback : Bool := false
  forced : Bool := false
  dead : Bool := false
  deadCount : Nat := 0
  good : Nat := 0
  windows : Nat := 0
  restarted : Bool := false
  failed : Bool := false
  aliveSince : Option Nat := none
  deriving DecidableEq, Repr

end Sys2Proof.Machine
end

