-- ==== Sys2Proof/Machine/LinkOps.lean ====
section
/-! DEFINITION. Birquin Link line coding and cells (chapters 05 and 06): slots, scrambling, stuffing, CRC-32C, headers,
sequence, acknowledgement, replay and credits, written once for every lane of both parts. -/

namespace Sys2Proof.Machine

/-! ## Geometry (R94, R119, R138) -/

/-- The payload words of a cell. -/
def LaneKind.words : LaneKind → Nat
  | .downlink => 8 | .ingress => 32 | .backEnd => 64 | .peer => 8

/-- The base ticks of a slot. -/
def LaneKind.slot : LaneKind → Nat
  | .downlink => 20 | .ingress => 18 | .backEnd => 17 | .peer => 20

/-- The line bits of a slot. -/
def LaneKind.slotBits : LaneKind → Nat
  | .downlink => 640 | .ingress => 2304 | .backEnd => 4352 | .peer => 640

/-- The body bits of a cell: header, payload and CRC. -/
def LaneKind.bodyBits (k : LaneKind) : Nat := 64 + 64 * k.words

/-- T_replay in base ticks (R137). -/
def LaneKind.replayTime : LaneKind → Nat
  | .downlink => 1280 | .ingress => 1152 | .backEnd => 4352 | .peer => 1280

/-- The credit unit in cells. -/
def LaneKind.unit : LaneKind → Nat
  | .backEnd => 8 | _ => 1

/-- The credit allotment of a class, in units (R138). -/
def LaneKind.credit : LaneKind → Nat → Nat
  | .downlink, 0 => 2 | .downlink, 1 => 4 | .downlink, 3 => 12
  | .ingress, 0 => 2 | .ingress, 1 => 3 | .ingress, 2 => 24 | .ingress, 3 => 5
  | .backEnd, 0 => 2 | .backEnd, 1 => 1 | .backEnd, 2 => 15 | .backEnd, 3 => 2
  | .peer, 0 => 2 | .peer, 1 => 8 | .peer, 3 => 24
  | _, _ => 0

/-- The replay buffer's cells for classes 1-3, and those reserved for class 0. -/
def LaneKind.depth : LaneKind → Nat × Nat
  | .backEnd => (144, 16) | _ => (32, 2)

/-- Trained lanes (R94). -/
def LaneKind.trained : LaneKind → Bool
  | .backEnd | .peer => true | _ => false

/-! ## Bits -/

/-- The `n` low bits of a number, most significant first (R97). -/
def bitsOf : Nat → Nat → List Bool
  | 0, _ => []
  | n + 1, v => decide (v / 2 ^ n % 2 = 1) :: bitsOf n v

/-- The number that bits spell, most significant first. -/
def natOf (bs : List Bool) : Nat := bs.foldl (fun v b => v * 2 + b1 b) 0

/-- The marker (R97). -/
def marker : Nat := 0xB38E

/-- The scrambler of R98: the next scrambled bit and the state, newest bit lowest. -/
def scramble : Nat → List Bool → List Bool × Nat
  | st, [] => ([], st)
  | st, d :: ds =>
    let s := (d != bitAt st 38) != bitAt st 57
    let r := scramble ((st * 2 + b1 s) % 2 ^ 58) ds
    (s :: r.1, r.2)

/-- The descrambler of R98. -/
def descramble : Nat → List Bool → List Bool × Nat
  | st, [] => ([], st)
  | st, s :: ss =>
    let d := (s != bitAt st 38) != bitAt st 57
    let r := descramble ((st * 2 + b1 s) % 2 ^ 58) ss
    (d :: r.1, r.2)

/-- Bit stuffing of R99: after the 32nd identical bit one bit of the opposite value. -/
def stuff : Bool → Nat → List Bool → List Bool
  | _, _, [] => []
  | prev, run, b :: bs =>
    let run' := if run ≠ 0 ∧ b = prev then run + 1 else 1
    if run' = 32 then b :: (!b) :: stuff (!b) 1 bs else b :: stuff b run' bs

/-- Removal of stuff bits from the first `n` body bits (R99), and whether every stuff bit was the complement. -/
def destuff : Nat → Bool → Nat → List Bool → List Bool × Bool
  | n, _, run, [] => ([], decide (n = 0 ∧ run < 32))
  | n, prev, run, b :: bs =>
    if run = 32 then
      let r := destuff n b 1 bs
      (r.1, r.2 && (b != prev))
    else
      match n with
      | 0 => ([], true)
      | m + 1 =>
        let r := destuff m b (if run ≠ 0 ∧ b = prev then run + 1 else 1) bs
        (b :: r.1, r.2)

/-- Pad bits alternating from the complement of the last bit sent (R100). -/
def pad : Nat → Bool → List Bool
  | 0, _ => []
  | n + 1, prev => (!prev) :: pad n (!prev)

/-! ## CRC-32C (R122) -/

/-- One bit of the reflected CRC-32C. -/
def crcBit (c : Nat) : Nat := if c % 2 = 1 then c / 2 ^^^ 0x82F63B78 else c / 2

/-- One byte. -/
def crcByte (c b : Nat) : Nat := crcBit (crcBit (crcBit (crcBit (crcBit (crcBit (crcBit (crcBit (c ^^^ b))))))))

/-- CRC-32C over bytes. -/
def crc32c (bs : List Nat) : Nat := bs.foldl crcByte 0xFFFFFFFF ^^^ 0xFFFFFFFF

/-- The CRC field of a cell: header and payload, little-endian (R122). -/
def cellCrc (hdr : Nat) (payload : List Word) : Nat :=
  crc32c (toBytes 4 hdr ++ payload.flatMap fun w => toBytes 8 w.toNat)

/-! ## Headers (R120) -/

/-- The header word of a cell with its return fields. -/
def headerOf (c : Cell) (r : Returns) : Nat :=
  c.cls % 4 * 2 ^ 30 + c.kind % 4 * 2 ^ 28 + c.seq % 256 * 2 ^ 20 + r.ack % 256 * 2 ^ 12 + b1 r.nak * 2 ^ 11
    + r.ccls % 4 * 2 ^ 9 + r.credits % 32 * 2 ^ 4 + b1 c.poison * 8 + b1 c.comp * 4

/-- The return word of uplink 1: the bit positions of header [19:4] (R140). -/
def returnWord (r : Returns) : Word :=
  BitVec.ofNat 64 (r.ack % 256 * 2 ^ 12 + b1 r.nak * 2 ^ 11 + r.ccls % 4 * 2 ^ 9 + r.credits % 32 * 2 ^ 4)

/-- The return fields of a header or of a return word. -/
def returnsOf (h : Nat) : Returns :=
  { ack := bits h 19 12, nak := bitAt h 11, ccls := bits h 10 9, credits := bits h 8 4 }

/-- The other fields of a header. -/
def cellOf (h : Nat) (payload : List Word) : Cell :=
  { cls := bits h 31 30, kind := bits h 29 28, seq := bits h 27 20, poison := bitAt h 3, comp := bitAt h 2,
    payload := payload }

/-- Chop bits into 64-bit words. -/
def wordsOf : Nat → List Bool → List Word
  | 0, _ => []
  | n + 1, bs => BitVec.ofNat 64 (natOf (bs.take 64)) :: wordsOf n (bs.drop 64)

/-- The line bits of a slot that carries a cell (R97-R100), and the scrambler state after it. -/
def encodeSlot (k : LaneKind) (scr : Nat) (hdr : Nat) (payload : List Word) : Nat × Nat :=
  let body := bitsOf 32 hdr ++ (payload.flatMap fun w => bitsOf 64 w.toNat) ++ bitsOf 32 (cellCrc hdr payload)
  let s := scramble scr body
  let line := stuff false 0 s.1
  let all := bitsOf 16 marker ++ line
  (natOf (all ++ pad (k.slotBits - all.length) (line.getLastD false)), s.2)

/-- The payload words of a slot, whatever its stuffing and its CRC say. -/
def rawPayload (k : LaneKind) (descr : Nat) (line : Nat) : List Word :=
  wordsOf k.words ((descramble descr (destuff k.bodyBits false 0 ((bitsOf k.slotBits line).drop 16)).1).1.drop 32)

/-- A slot as a receiver judges it: its header and payload when the stuffing and the CRC are good (R123), and the
descrambler state after it. -/
def decodeSlot (k : LaneKind) (descr : Nat) (line : Nat) : Option (Nat × List Word) × Nat :=
  let r := destuff k.bodyBits false 0 ((bitsOf k.slotBits line).drop 16)
  let d := descramble descr r.1
  let hdr := natOf (d.1.take 32)
  let payload := wordsOf k.words (d.1.drop 32)
  let crc := natOf ((d.1.drop (32 + 64 * k.words)).take 32)
  (if r.2 && decide (crc = cellCrc hdr payload) then some (hdr, payload) else none, d.2)

/-- The slot of the receiver's own frame that is complete with the arriving line (R105, R106). -/
def Lane.framed (l : Lane) (k : LaneKind) (line : Nat) : Nat :=
  if l.frame = 0 then line % 2 ^ k.slotBits
  else l.prev % 2 ^ (k.slotBits - l.frame) * 2 ^ l.frame + line % 2 ^ k.slotBits / 2 ^ (k.slotBits - l.frame)

/-- The first bit position of the stream, counted from the second bit of the line before, at which a marker begins (R105). -/
def Lane.firstMatch (l : Lane) (k : LaneKind) (line : Nat) : Option Nat :=
  let s := l.prev * 2 ^ k.slotBits + line % 2 ^ k.slotBits
  (List.range k.slotBits).findSome? fun j =>
    if s / 2 ^ (2 * k.slotBits - 17 - j) % 2 ^ 16 = marker then some ((j + 1) % k.slotBits) else none

/-- The line of a slot has arrived: it is kept for the frames that run over it, and a slip takes effect (R106).  Where the frame
leaves the first bit, or moves past the last, the next cell is cut by the move; the flags are judged in the new frame. -/
def Lane.arrived (l : Lane) (k : LaneKind) (line : Nat) : Lane :=
  let place := (l.frame + l.slip) % k.slotBits
  { l with prev := line % 2 ^ k.slotBits, frame := place, slip := 0, gap := decide (l.slip ≠ 0 ∧ (l.frame = 0 ∨ k.slotBits < l.frame + l.slip)),
           good := if l.slip = 0 then l.good else 0 }

/-- The first 16 bits of a slot are a good marker (R104). -/
def goodMarker (k : LaneKind) (line : Nat) : Bool := decide (line / 2 ^ (k.slotBits - 16) % 2 ^ 16 = marker)

/-- The hardware hunt of R105 on one arriving line: comparing, or verifying the predicted marker; a bad marker sends it back
to comparing.  The match itself is not counted. (DEDUCED, log entry 16) -/
def Lane.seek (l : Lane) (k : LaneKind) (line : Nat) : Lane :=
  if l.verifying then
    if goodMarker k (l.framed k line) then { l with good := l.good + 1 } else { l with good := 0, verifying := false }
  else match l.firstMatch k line with
    | some n => { l with frame := n, verifying := true, good := 0 }
    | none => l

/-- A receiver that starts to look for markers afresh. -/
def Lane.unframe (l : Lane) : Lane := { l with good := 0, bad := 0, prev := 0, verifying := false, slip := 0, gap := false }

/-- The marker begins at any of bits 0-127 of the frame (R106). -/
def markerWithin (k : LaneKind) (line : Nat) : Bool :=
  (List.range 128).any fun i => decide (line / 2 ^ (k.slotBits - 16 - i) % 2 ^ 16 = marker)

/-! ## Acknowledgement, replay and credit of a transmitter (R136, R137, R139) -/

/-- Apply return fields at tick `now`. (DEDUCED, log entry 15) -/
def Tx.applyReturns (x : Tx) (k : LaneKind) (r : Returns) (now : Nat) : Tx :=
  let n := (r.ack + 1 + 256 - x.una % 256) % 256
  let n := if n ≤ x.buf.length then n else 0
  let x := if n = 0 then x else
    { x with una := (x.una + n) % 256, buf := x.buf.drop n, timer := now, progress := now,
             replay := if x.buf.length ≤ n then none else x.replay.map fun i => i - n }
  let x := { x with got := Bank.upd 0 x.got r.ccls fun g => g + (r.credits + 32 - g % 32) % 32 }
  let recent := match x.lastReplay with
    | some (u, t) => decide (u = x.una ∧ now < t + k.replayTime)
    | none => false
  if r.nak ∧ (r.ack + 1) % 256 = x.una ∧ recent = false then { x with naked := some (x.naked.getD now) } else x

/-- A replay from U starts (R136). -/
def Tx.startReplay (x : Tx) (now : Nat) : Tx :=
  { x with replay := if x.buf = [] then none else some 0, naked := none, timer := now, lastReplay := some (x.una, now) }

/-- A replay from U starts, and is counted where there is a cell to send again (R146). -/
def Lane.replayed (l : Lane) (now : Nat) : Lane :=
  { l with tx := l.tx.startReplay now,
           stats := if l.tx.buf = [] then l.stats else { l.stats with replays := satAdd 32 l.stats.replays 1 } }

/-- A run of cells waits for the line (R142).  It takes the place of a run of the same signal that the scope covers and that has not
ended, so that one reset gives one run. (DEDUCED, log entry 15) -/
def Tx.addRun (x : Tx) (r : Run) : Tx :=
  { x with runs := (x.runs.filter fun y => y.signal ≠ r.signal || (y.scope ≠ r.scope && r.scope ≠ 0)) ++ [r] }

/-- Credit is held for one more cell of class `c` (R139). -/
def Tx.hasCredit (x : Tx) (k : LaneKind) (c : Nat) : Bool :=
  decide (Bank.get 0 x.sent c < k.unit * (Bank.get 0 x.got c + k.credit c))

/-- The replay buffer has room for a new cell of class `c` (R136, R138). -/
def Tx.hasRoom (x : Tx) (k : LaneKind) (c : Nat) : Bool :=
  if c = 0 then decide (x.buf.length < k.depth.1 + k.depth.2)
  else decide ((x.buf.filter fun y => y.cls ≠ 0).length < k.depth.1 ∧ x.buf.length < k.depth.1 + k.depth.2)

/-- A new data cell of class `c` may be sent. -/
def Tx.maySend (x : Tx) (k : LaneKind) (c : Nat) : Bool :=
  x.synced && x.replay.isNone && x.hasCredit k c && x.hasRoom k c

/-- Send a new data cell: it takes the next sequence number and one credit and enters the replay buffer. -/
def Tx.sendNew (x : Tx) (c : Nat) (payload : List Word) (poison comp : Bool) (now : Nat) : Cell × Tx :=
  let cell : Cell := { cls := c, kind := 0, seq := x.next, poison := poison, comp := comp, payload := payload }
  (cell, { x with next := (x.next + 1) % 256, buf := x.buf ++ [cell], sent := Bank.upd 0 x.sent c (· + 1),
                  timer := if x.buf = [] then now else x.timer, progress := if x.buf = [] then now else x.progress })

/-- Discard the delivery state of a transmitter (R142 step 1): the unacknowledged cells, the counters, the rest of a
message begun.  Words, messages and class-0 cells not yet sent stay. (DEDUCED, log entry 14) -/
def Tx.reset (x : Tx) : Tx :=
  { x with una := 0, next := 0, buf := [], replay := none, naked := none, lastReplay := none, got := [], sent := [],
           p1 := [], p3 := [], last13 := 3, synced := false }

/-- Discard the delivery state of a receiver (R142 step 1, R144). -/
def Rx.reset (x : Rx) : Rx :=
  { x with exp := 0, armed := true, nak := false, recvd := [], freed := [], reported := [], lastCls := 3, asm1 := [],
           asm3 := [], buf2 := [], synced := false }

/-! ## Sequence of a receiver (R136) and its credit returns (R139) -/

/-- A cell failed its CRC. -/
def Rx.onBad (x : Rx) : Rx := if x.armed then { x with nak := true, armed := false } else x

/-- Judge the sequence number of a good cell that is not training: accepted or not. -/
def Rx.onSeq (x : Rx) (c : Cell) : Bool × Rx :=
  if c.kind = 0 then
    if c.seq = x.exp then (true, { x with exp := (x.exp + 1) % 256, armed := true, nak := false })
    else if x.armed then (false, { x with nak := true, armed := false })
    else (false, x)
  else if c.seq ≠ x.exp ∧ x.armed then (false, { x with nak := true, armed := false })
  else (false, x)

/-- The credit units of a class that a returner has freed. -/
def Rx.units (x : Rx) (k : LaneKind) (c : Nat) : Nat := Bank.get 0 x.freed c / k.unit

/-- The value a returner reports for a class. -/
def Rx.creditValue (x : Rx) (k : LaneKind) (c : Nat) : Nat := x.units k c % 32

/-- The forward distance of a class's value from the value last sent. -/
def Rx.distance (x : Rx) (k : LaneKind) (c : Nat) : Nat := (x.creditValue k c + 32 - Bank.get 0 x.reported c % 32) % 32

/-- The class to report: the largest distance, ties to the lower class, else the class after the last (R139). -/
def Rx.reportClass (x : Rx) (k : LaneKind) : Nat :=
  let best := (List.range 4).foldl (fun b c => if x.distance k b < x.distance k c then c else b) 0
  if x.distance k best = 0 then (x.lastCls + 1) % 4 else best

/-- The return fields a receiver sends next, and the receiver after it has sent them. -/
def Rx.returns (x : Rx) (k : LaneKind) : Returns × Rx :=
  let c := x.reportClass k
  ({ ack := (x.exp + 255) % 256, nak := x.nak, ccls := c, credits := x.creditValue k c },
   { x with reported := Bank.set 0 x.reported c (x.units k c), lastCls := c })

/-- One cell of class `c` leaves the receive buffer. -/
def Rx.free (x : Rx) (c : Nat) (n : Nat := 1) : Rx := { x with freed := Bank.upd 0 x.freed c (· + n) }

/-- A cell just counted as received lies beyond the sender's credit: the allotment and what was reported to it (R123, R139). -/
def Rx.beyondCredit (x : Rx) (k : LaneKind) (c : Nat) : Bool :=
  decide (k.unit * (Bank.get 0 x.reported c + k.credit c) < Bank.get 0 x.recvd c)

/-! ## Link words (R126) -/

/-- The link word: signal, scope, lane identity. -/
def linkWord (signal scope ident : Nat) : Word := BitVec.ofNat 64 (signal % 4 + scope % 4 * 4 + ident % 256 * 2 ^ 8)

/-- Extend words with zero words to `n`. -/
def padWords (n : Nat) (ws : List Word) : List Word := ws.take n ++ List.replicate (n - ws.length) 0#64

/-! ## PRBS (R102, R108) -/

/-- The degree and the second tap of the generator with code 1 PRBS-7, 2 PRBS-15, 3 PRBS-31 (R102). -/
def prbsTaps : Nat → Nat × Nat
  | 1 => (7, 6) | 2 => (15, 14) | _ => (31, 28)

/-- The next bit of a PRBS register. -/
def prbsNext (mode st : Nat) : Bool := bitAt st ((prbsTaps mode).1 - 1) != bitAt st ((prbsTaps mode).2 - 1)

/-- A PRBS register after it has taken a bit. -/
def prbsShift (mode st : Nat) (b : Bool) : Nat := (st * 2 + b1 b) % 2 ^ (prbsTaps mode).1

/-- The next `n` bits of a PRBS generator and the generator after them. -/
def prbsBits (mode : Nat) : Nat → Nat → List Bool × Nat
  | 0, st => ([], st)
  | n + 1, st =>
    let b := prbsNext mode st
    let r := prbsBits mode n (prbsShift mode st b)
    (b :: r.1, r.2)

/-- Errors of received PRBS-31 bits against the checker that follows the stream itself. -/
def prbsErrors : Nat → List Bool → Nat × Nat
  | st, [] => (0, st)
  | st, b :: bs =>
    let r := prbsErrors (prbsShift 3 st b) bs
    (r.1 + b1 (b != prbsNext 3 st), r.2)

/-- The checker declares lock (R102). -/
def Prbs.lock (p : Prbs) : Prbs := if p.mode = 0 then p else { p with locked := true, run := 0, errsAt := [] }

/-- A bit error `bits` received bits after the last: counted while locked; 64 within 1,024 bits drop the lock (R102).
Whether the error counts, and the checker after it. -/
def Prbs.bitError (p : Prbs) (bits : Nat) : Bool × Prbs :=
  if p.locked then
    let pos := p.pos + bits
    let es := (pos :: p.errsAt).filter fun e => pos < e + 1024
    (true, if 64 ≤ es.length then { p with locked := false, run := 0, pos := pos, errsAt := [] }
           else { p with pos := pos, errsAt := es })
  else (false, p)

/-- One received bit in test mode (R102): a checker that is not locked follows the stream and locks after 64 error-free bits
in a row; a locked one runs free and counts each bit that differs. (DEDUCED, log entry 17) -/
def Prbs.bit (p : Prbs) (b : Bool) : Bool × Prbs :=
  let good := b == prbsNext p.mode p.chk
  if p.locked then
    let q := { p with chk := prbsShift p.mode p.chk (prbsNext p.mode p.chk) }
    if good then (false, { q with pos := q.pos + 1 }) else q.bitError 1
  else
    let q := { p with chk := prbsShift p.mode p.chk b, pos := p.pos + 1, run := if good then p.run + 1 else 0 }
    (false, if 64 ≤ q.run then q.lock else q)

/-- Received bits in test mode: the errors counted, and the checker after them. -/
def Prbs.check : Prbs → List Bool → Nat × Prbs
  | p, [] => (0, p)
  | p, b :: bs =>
    let q := p.bit b
    let r := q.2.check bs
    (r.1 + b1 q.1, r.2)

/-- The line of one slot of a generator in test mode (R102): neither markers nor scrambling nor stuffing. -/
def Prbs.slot (p : Prbs) (k : LaneKind) : Nat × Prbs :=
  let r := prbsBits p.mode k.slotBits p.gen
  (natOf r.1, { p with gen := r.2 })

/-- The segments of the main cursor (R101). -/
def Tx.mainCursor (t : Tx) : Nat := 63 - t.pre - t.post

/-- A transmitter takes the pair of an emphasis object's entry at its slot boundary (R101). -/
def Tx.emphasis (t : Tx) (v : Nat) : Tx := { t with pre := bits v 3 0, post := bits v 8 4 }

/-! ## Messages (R134) -/

/-- The words that follow a message's header: its padded data, and in a response the status word before them. -/
def bodyWords (h : Word) : Nat := (h.toNat % 65536 + 7) / 8 + b1 (bitAt h.toNat 47)

/-- Split the words of a class-1 or class-3 stream into whole messages, each with whether any of its words was poisoned, and
what is still in parts.  An all-zero header ends the messages of the cell.  `fuel` bounds the messages. -/
def splitMessages : Nat → List (Word × Bool) → List (List Word × Bool) × List (Word × Bool)
  | 0, ws => ([], ws)
  | _, [] => ([], [])
  | n + 1, h :: ws =>
    if h.1 = 0#64 then ([], [])
    else
      let need := bodyWords h.1
      if ws.length < need then ([], h :: ws)
      else
        let m := h :: ws.take need
        let r := splitMessages n (ws.drop need)
        ((m.map Prod.fst, m.any Prod.snd) :: r.1, r.2)

/-- The sequence numbers of the unacknowledged cells of class 2 and 3. -/
def Tx.bulkSeqs (t : Tx) : List Nat := (t.buf.filter fun y => decide (2 ≤ y.cls)).map fun y => y.seq

/-- The words of one cell from what is left of a message begun and the messages that wait; what is left then (R134). -/
def takeMessages : Nat → List Word → List (List Word) → List Word × List Word × List (List Word)
  | room, part, [] => (part.take room, part.drop room, [])
  | room, part, m :: ms =>
    if room ≤ part.length then (part.take room, part.drop room, m :: ms)
    else
      let r := takeMessages (room - part.length) m ms
      (part ++ r.1, r.2.1, r.2.2)

/-- The transaction ID, opcode, index, sub-index and length of a message header (R134). -/
def msgId (h : Word) : Nat := h.toNat / 2 ^ 48
def msgOp (h : Word) : Nat := bits h.toNat 47 40
def msgIndex (h : Word) : Nat := bits h.toNat 39 24
def msgSub (h : Word) : Nat := bits h.toNat 23 16
def msgLen (h : Word) : Nat := h.toNat % 2 ^ 16

/-- A message header word. -/
def msgHeader (tid op index sub len : Nat) : Word :=
  BitVec.ofNat 64 (tid % 2 ^ 16 * 2 ^ 48 + op % 256 * 2 ^ 40 + index % 2 ^ 16 * 2 ^ 24 + sub % 256 * 2 ^ 16 + len % 2 ^ 16)

/-- `n` words of a little-endian value (R7). -/
def dataWords : Nat → Nat → List Word
  | 0, _ => []
  | n + 1, v => BitVec.ofNat 64 (v % 2 ^ 64) :: dataWords n (v / 2 ^ 64)

/-- The little-endian value of words. -/
def wordsVal : List Word → Nat
  | [] => 0
  | w :: ws => w.toNat + 2 ^ 64 * wordsVal ws

/-- The words of a class-0 cell up to the first all-zero word (R128). -/
def class0Words (ws : List Word) : List Word := ws.takeWhile fun w => w ≠ 0#64

/-- The opcode of a class-0 word. -/
def c0op (w : Word) : Nat := w.toNat / 2 ^ 56

/-- Timed words travel only in control-only cells (R129, R130). -/
def isTimed (op : Nat) : Bool := op == 0x01 || op == 0x02 || op == 0x11 || op == 0x40

end Sys2Proof.Machine
end

