-- ==== Sys2Proof/Machine/Mgmt.lean ====
section
/-! DEFINITION. Management messages (R134, R135), staging (R304, R305) and duplicate suppression (R308), written once for
both parts. -/

namespace Sys2Proof.Machine

/-- A management request.  `op` is 1 READ, 2 WRITE, 3 READ_AT, 4 WRITE_AT; `len` and `val` are the data bytes of a write;
`off`, `cnt` and `last` the parameter word. -/
structure Req where
  tid : Nat
  op : Nat
  index : Nat
  sub : Nat
  off : Nat := 0
  cnt : Nat := 0
  last : Bool := false
  len : Nat := 0
  val : Nat := 0
  poisoned : Bool := false
  deriving DecidableEq, Repr

/-- The parameter word of a request (R135). -/
def Req.param (r : Req) : List Word :=
  match r.op with
  | 3 => [BitVec.ofNat 64 (r.off % 2 ^ 32 + r.cnt % 2 ^ 16 * 2 ^ 32)]
  | 4 => [BitVec.ofNat 64 (r.off % 2 ^ 32 + b1 r.last * 2 ^ 32)]
  | _ => []

/-- The words of a request message (R134). -/
def Req.words (r : Req) : List Word :=
  let data := if r.op = 2 ∨ r.op = 4 then dataWords ((r.len + 7) / 8) (r.val % 2 ^ (8 * r.len)) else []
  let n := (if r.op = 3 ∨ r.op = 4 then 8 else 0) + (if r.op = 2 ∨ r.op = 4 then r.len else 0)
  msgHeader r.tid r.op r.index r.sub n :: r.param ++ data

/-- What a request that succeeds answers: bits [63:32] of the status word, and the data. -/
structure Answer where
  hi : Nat := 0
  len : Nat := 0
  val : Nat := 0
  deriving DecidableEq, Repr

/-- A response message (R135). -/
def Req.response (r : Req) : Res Answer → List Word
  | .ok a => msgHeader r.tid (r.op + 0x80) r.index r.sub a.len :: BitVec.ofNat 64 (a.hi * 2 ^ 32)
      :: dataWords ((a.len + 7) / 8) (a.val % 2 ^ (8 * a.len))
  | .error a => [msgHeader r.tid (r.op + 0x80) r.index r.sub 0, BitVec.ofNat 64 (a.code + a.owner * 2 ^ 32)]

/-- The answer of a READ_AT on an object of `bytes` bytes (R135). -/
def Req.readAt (r : Req) (bytes v : Nat) : Res Answer :=
  if 65528 < r.cnt % 2 ^ 16 then .error Abort.range
  else if bytes < r.off then .error Abort.range
  else
    let n := min (r.cnt % 2 ^ 16) (bytes - r.off)
    .ok { hi := bytes, len := n, val := v / 2 ^ (8 * r.off) % 2 ^ (8 * n) }

/-! ## Staging (R304, R305) -/

/-- 1 MiB, the staging buffers' bytes; there are 16 of them. -/
def stagingBytes : Nat := 1048576

def Staging.matches (s : Staging) (src index sub : Nat) : Bool := s.src == src && s.index == index && s.sub == sub

/-- Staging of the object by another source. -/
def stagedBy (ss : List Staging) (src index sub : Nat) : Option Nat :=
  (ss.find? fun s => s.index == index && s.sub == sub && s.src != src && !s.dead).map fun s => s.src

def dropStaging (ss : List Staging) (src index sub : Nat) : List Staging := ss.filter fun s => !s.matches src index sub

/-- 1 s in base ticks. -/
def stagingTimeout : Nat := 93750000

/-- The objects that have staging of their own (R304). -/
def ownStaging (index : Nat) : Bool := index == 0x2603 || index == 0x3003 || index == 0x3104

/-- A buffer of `n` bytes is free beside those in use; what has staging of its own uses none (R304). -/
def stagingRoom (ss : List Staging) (n : Nat) : Bool :=
  let live := ss.filter fun s => !s.dead && !ownStaging s.index
  decide (live.length < 16) && decide (live.foldl (fun n s => n + s.len) 0 + n ≤ stagingBytes)

/-- The object is a DOMAIN: more than 8 bytes, or `PortEnable` (R304, R190). -/
def Obj.isDomain (o : Obj) : Bool := decide (8 < o.bytes) || o.index == O.portEnable.index

/-- A whole write of a DOMAIN finds no staging buffer free (R304). (DEDUCED, log entry 41) -/
def Obj.unstaged (o : Obj) (ss : List Staging) (n : Nat) : Bool := o.isDomain && o.access != .ro && !stagingRoom ss n

/-- One WRITE_AT message at tick `now`: the abort, or the whole staged value (length, value) when it was the last, with the
staging after it.  `counted` says whether the object uses the shared buffers (R304). -/
def stage (ss : List Staging) (now src : Nat) (counted : Bool) (r : Req) : Res (Option (Nat × Nat)) × List Staging :=
  let mine := ss.find? fun s => s.matches src r.index r.sub
  let rest := dropStaging ss src r.index r.sub
  let v := r.val % 2 ^ (8 * r.len)
  let put (len val : Nat) : Res (Option (Nat × Nat)) × List Staging :=
    if r.last then (.ok (some (len, val)), rest)
    else (.ok none, rest ++ [{ src := src, index := r.index, sub := r.sub, len := len, val := val, last := now }])
  let room (n : Nat) : Bool := !counted || stagingRoom rest n
  if r.off = 0 then
    match stagedBy ss src r.index r.sub with
    | some other => (.error (Abort.owned (ownerCode 0x0C other)), ss)
    | none => if room r.len then put r.len v else (.error Abort.noStaging, rest)
  else match mine with
    | none => (.error Abort.outOfSequence, ss)
    | some s =>
      if s.dead ∨ s.last + stagingTimeout < now then (.error Abort.timeout, rest)
      else if r.off ≠ s.len then (.error Abort.outOfSequence, rest)
      else if room (s.len + r.len) then put (s.len + r.len) (s.val + v * 2 ^ (8 * s.len)) else (.error Abort.noStaging, rest)

/-- The 1 s limit of a staging has passed (R305, R327): it is discarded, and the next message of the sequence finds it timed
out. -/
def expireStaging (ss : List Staging) (now src index sub : Nat) : List Staging :=
  ss.map fun s => if s.matches src index sub && decide (s.last + stagingTimeout < now) then { s with dead := true, len := 0, val := 0 } else s

/-! ## Duplicates (R308) -/

/-- What the last 8 transactions of a source say of a request. -/
inductive Dup where
  | fresh | mismatch | executing
  | answered (words : List Word)
  deriving DecidableEq, Repr

def dupOf (ts : List Trans) (r : Req) : Dup :=
  match ts.find? fun t => t.id == r.tid with
  | none => .fresh
  | some t =>
    if t.opcode = r.op ∧ t.index = r.index ∧ t.sub = r.sub then
      match t.resp with
      | some ws => .answered ws
      | none => .executing
    else .mismatch

/-- Keep a new transaction among the last 8 that were received, in the order of their receipt. -/
def keepTrans (ts : List Trans) (t : Trans) : List Trans :=
  (ts.filter (fun u => decide (u.rcvd ≤ t.rcvd)) ++ [t] ++ ts.filter fun u => decide (t.rcvd < u.rcvd)).drop (ts.length + 1 - 8)

/-- The request that a message header names, for the judgement of R308. -/
def headReq (h : Word) : Req := { tid := msgId h, op := msgOp h, index := msgIndex h, sub := msgSub h }

/-- A transaction refused at its receipt, with its answer. -/
def refusedTrans (h : Word) (a : Abort) (lane now : Nat) : Trans :=
  { id := msgId h, opcode := msgOp h, index := msgIndex h, sub := msgSub h, resp := some ((headReq h).response (.error a)),
    lane := lane, rcvd := now }

/-- The tick at which a message that waits was received; `now` where none waits. -/
def receivedAt (lane : Nat) (ws : List Word) (inbox : List Delivered) (now : Nat) : Nat :=
  match inbox.find? fun d => decide (d.lane = lane) && decide (d.words = ws) with
  | some d => d.tick
  | none => now

/-- The transaction IDs that wait among messages `ds` and are none of `ts`: the requests received and not yet looked at (R307).
A duplicate counts as nothing new. -/
def waitingIds (ts : List Trans) (ds : List Delivered) : List Nat :=
  ((ds.filter fun d => d.mgmt && decide (msgOp (d.words.headD 0#64) < 0x80)).map fun d => msgId (d.words.headD 0#64)).eraseDups.filter
    fun n => !ts.any fun t => t.id == n

end Sys2Proof.Machine
end

