-- ==== Sys2Proof/Machine/TypesConc1.lean ====
section
/-! DEFINITION. The state of the concentrator, QDR-C96, part 1: time base, link endpoints, object dictionary and CAN, clocks
and power, faults and repair, partner and lease, reset, debug (chapters 05-07, 14-17, 22, 24). -/

namespace Sys2Proof.Machine

/-! ## Time base (chapter 07) -/

/-- A pending TIU start: tag and start beat. -/
structure TiuStart where
  tag : Nat
  beat : Nat
  tick : Nat
  deriving DecidableEq, Repr

/-- The time-interval unit (R163-R166).  `own` is the port that the latency measurement measures; `found` collects the nine
discovery samples (R167). -/
structure Tiu where
  running : Bool := false
  pending : List TiuStart := []
  samples : List Nat := []
  rejected : Nat := 0
  lastEcho : Option Nat := none
  nextTag : Nat := 0
  own : Option Nat := none
  discover : Bool := false
  found : Bank Nat := []
  gateHigh : Bool := false
  deriving DecidableEq, Repr

/-- A port's marks and latency (R157, R166-R168).  `lat` and `trip` are in 1/65,536 beat; `offNum` over `offDen` is the
offset of the last mark in base ticks; `owed` the second whose late mark is still to be sent (R158); `found` says that
`residue` is the port's echo residue (R167), `redo` that a new measurement is due whatever its age. -/
structure PortTime where
  markSecond : Option Nat := none
  delta : Nat := 0
  offNum : Int := 0
  offDen : Nat := 1
  owed : Option Nat := none
  originDue : Bool := false
  lat : Nat := 0
  trip : Nat := 0
  residue : Nat := 0
  found : Bool := false
  valid : Bool := false
  onOdd : Bool := false
  restored : Bool := false
  measured : Option Nat := none
  redo : Bool := false
  deriving DecidableEq, Repr

/-- The time base.  `acc` is nanoseconds times 2^32 plus fraction; `incBase` and `incAo` are the increments in use, whose
newest written values stand in the dictionary; `wroteAt` is the tick of the last increment write and `before` what was
pending before that tick (R170).  `hand` is a handover that waits for an AO edge (R150): 1 from the base clock on a planned
stop, 2 from a base clock that was lost, 3 from the AO clock.  `crossTick` is the tick in which the sum last crossed 10^9 ns,
`crossBeyond` by how much, and `crossAo` whether an AO increment crossed it (R148). -/
structure TimeBase where
  seconds : Nat := 0
  acc : Nat := 0
  incBase : Nat := 45812984491
  incAo : Nat := 512000000000
  changed : Bool := false
  wroteAt : Option Nat := none
  before : Nat × Nat := (45812984491, 512000000000)
  hand : Nat := 0
  onAo : Bool := false
  aoThisSecond : Bool := false
  gap : Bool := false
  state : Nat := 0
  windowTaken : Bool := false
  windowDone : Bool := false
  rejections : Nat := 0
  displaced : Bool := false
  armed : Option Nat := none
  lastPps : Option Nat := none
  latch : Nat × Nat := (0, 0)
  capture : Nat × Nat × Nat := (0, 0, 0)
  captureLatch : Nat × Nat × Nat := (0, 0, 0)
  owed : Option Nat := none
  load : Option Nat := none
  crossTick : Nat := 0
  crossBeyond : Nat := 0
  crossAo : Bool := false
  tiu : Tiu := {}
  ports : Bank PortTime := []
  deriving DecidableEq, Repr

/-! ## Link endpoints (chapters 05, 06) -/

/-- The record of class-0 numbers received under a boot tag (R133): `seen` are values of the window, newest `dmax`. -/
structure DupFilter where
  tag : Option Nat := none
  dmax : Nat := 0
  seen : List Nat := []
  deriving DecidableEq, Repr

/-- A PLL quad (R114, R115, R117). -/
structure Quad where
  locked : Bool := false
  retired : Bool := false
  powered : Bool := false
  losses : Nat := 0
  deriving DecidableEq, Repr

/-- What the link endpoints keep beside their lanes: class-0 numbering, duplicate filters, what was delivered, the logical
lane of each physical back-end lane and the source of each downlink's returns (R127, R131, R133, R140). -/
structure Links where
  beNumber : Nat := 0
  peerNumber : Nat := 0
  peerQ : List (List Word) := []
  beDup : DupFilter := {}
  peerDup : DupFilter := {}
  inbox : List Delivered := []
  map : Bank Nat := []
  source : Bank Nat := []
  skip : Bank Nat := []
  beEchoes : List (Nat × Nat × Nat) := []
  deriving DecidableEq, Repr

/-! ## Object dictionary, CAN, sessions (chapter 14) -/

/-- A relay to a front-end (R317): the host's request, where it came from, when it was first and last sent. -/
structure Relay where
  id : Nat
  port : Nat
  src : Nat
  lane : Nat
  cls : Nat
  req : Req
  first : Nat
  last : Nat
  again : Nat := 0
  sent : Bool := false
  deriving DecidableEq, Repr

/-- A frame the CAN controller has sent: COB-ID and bytes. -/
structure CanFrame where
  cob : Nat
  bytes : List Nat
  deriving DecidableEq, Repr

/-- An open segmented USDO transfer (R311); `toggle` is that of its last segment. -/
structure Usdo where
  session : Nat
  index : Nat
  sub : Nat
  toggle : Bool
  deriving DecidableEq, Repr

/-- What a USDO transfer was answered: the session, the abort code (0: none), the length and value read. -/
structure UsdoReply where
  session : Nat
  code : Nat
  len : Nat := 0
  val : Nat := 0
  deriving DecidableEq, Repr

/-- What came over CAN while the Ringmaster slept and is executed after the wake (R344): a write, a read, a USDO request, an NMT
command, an enrolment of the owner's key, a run of the stimulus test. -/
inductive CanAccess where
  | write (lane busy index sub len v : Nat)
  | read (index sub : Nat)
  | usdo (session : Nat) (write : Bool) (index sub len val : Nat) (toggle last : Bool)
  | nmtState (code : Nat)
  | resetComm (pins : Nat)
  | resetNode (pins : Nat)
  | enrol (hash : Nat) (cut : Bool)
  | stimulus (rose fell : Bool)
  deriving DecidableEq, Repr

/-- The CAN node (R310-R314).  `state` is the CiA state byte; `replies` are the answers to USDO transfers; `waiting` is what came
while the Ringmaster slept. -/
structure Can where
  state : Nat := 0x7F
  nodePins : Nat := 0
  nodeId : Nat := 127
  arbitration : Nat := 2
  dataRate : Nat := 1
  hbLast : Nat := 0
  emcy : List (Nat × Nat × Nat × Nat) := []
  emcyLast : Option Nat := none
  history : List Nat := []
  tpdoLast : Bank Nat := []
  usdo : List Usdo := []
  replies : List UsdoReply := []
  waiting : List CanAccess := []
  sent : List CanFrame := []
  deriving DecidableEq, Repr

/-- The dictionary server (R301-R320).  `copies` are the front-end P objects of each port as last known. -/
structure Dict where
  can : Can := {}
  trans : Bank (List Trans) := []
  staging : List Staging := []
  relays : List Relay := []
  relayId : Nat := 0
  copies : Bank Od := []
  session : Option Nat := none
  sessionLane : Nat := 0
  sessionLast : Nat := 0
  wrong : Nat := 0
  lockedUntil : Option Nat := none
  deriving DecidableEq, Repr

/-! ## Clocks and power (chapter 15) -/

/-- The frequency meter (R339). -/
structure Meter where
  domain : Nat := 7
  start : Nat := 0
  running : Bool := false
  refDead : Bool := false
  deriving DecidableEq, Repr

/-- Clocks, gates and the power state (R330-R345).  `target` is the state a request or a wake is heading for; `sleepAt` is when
the entry to ASLEEP completes, `wakeNext` the cause and target of a wake source that came during it (R348, R391);
`ringStopped` says that the Ringmaster's clock is stopped (R343, R345). -/
structure Power where
  doms : Bank ClockDom := []
  gated : Nat := 0x580
  gatesPending : Nat := 0
  gateForced : Nat := 0
  state : Nat := 3
  target : Option Nat := none
  wakeStart : Option Nat := none
  sleepAt : Option Nat := none
  wakeNext : Option (Nat × Nat) := none
  ringStopped : Bool := false
  meter : Meter := {}
  aoTrim : Int := 0
  deriving DecidableEq, Repr

/-! ## Faults, repair, scrubbing (chapter 16) -/

/-- An entry of the fault log (R369). -/
structure LogEntry where
  number : Nat
  seconds : Nat
  cls : Nat
  cause : Nat
  resource : Nat
  counter : Nat
  state : Nat
  owner : Nat
  detail : Nat
  deriving DecidableEq, Repr

/-- A row of the HBM row table (R359, R373). -/
structure HbmRow where
  frames : List Nat := []
  health : Health := {}
  scheduled : Bool := false
  heldOut : Bool := false
  uncorrectable : Bool := false
  deriving DecidableEq, Repr

/-- Fault accounting, the log, the Annealer and the Roustabout.  `lostForGood` are the logical engines that no move restores.  `lastOf` holds, by class, one more than the number of the
last entry posted; entries below `acked` are acknowledged; `decDue` is in AO ticks;
`annealEnd` is when the budget of the pass in progress ends, `annealSleep` says that the pass is on the way to ASLEEP,
`annealStop` that it stops at the next test boundary (R363). -/
structure Faults where
  health : Bank Health := []
  rows : Bank HbmRow := []
  log : List LogEntry := []
  next : Nat := 0
  lastOf : Bank Nat := []
  acked : Nat := 0
  decDue : Nat := 19660800
  macroSpares : Bank Nat := []
  spareRowsUsed : Bank Nat := []
  retiredFrames : List Nat := []
  lostForGood : List Nat := []
  annealEnd : Option Nat := none
  lastPass : Option Nat := none
  rolling : Nat := 0
  annealSleep : Bool := false
  annealStop : Bool := false
  hbmLine : Nat := 0
  sramWord : Nat := 0
  retries : Bank (Nat × Nat) := []
  deriving DecidableEq, Repr

/-! ## Lease and partner (chapter 17) -/

/-- The concentrator's record of a port's lease (R379, R381, R393).  `status` has the codes of `PortTable`;
`live` counts the bits of its `ChannelLive` (R373). -/
structure PortLease where
  serial : Nat := 0
  status : Nat := 0
  side : Nat := 0
  number : Nat := 0
  base : Nat := 0
  renewAt : Nat := 0
  unanswered : List Nat := []
  claimAt : Nat := 0
  claimSent : Option Nat := none
  live : Nat := 256
  deriving DecidableEq, Repr

/-- A takeover in progress (R387, R388); `refusedAt` is since when every claim of it has been refused (R389). -/
structure Takeover where
  start : Nat
  cause : Nat
  refusedAt : Option Nat := none
  restored : Bool := false
  deriving DecidableEq, Repr

/-- What a checkpoint carries (R385). -/
structure Checkpoint where
  gen : Nat
  od : Od
  ports : Bank PortLease
  copies : Bank Od
  times : Bank PortTime
  incBase : Nat
  incAo : Nat
  slots : Bank (Nat × Nat)
  pwHash : Nat
  deriving DecidableEq, Repr

/-- The pair (R375-R391).  `failedUntil` ends the FAILED heartbeats of R382; `relinquishAt` is when a relinquishing unit
stopped acting; `timeSeconds` holds the seconds of the last HEARTBEAT_TIME and the always-on tick of its arrival (R383);
`selfTestAt` is when the cycle of the rolling self-test began. -/
structure Partner where
  state : Nat := 0
  hbLast : Option Nat := none
  hbState : Nat := 7
  hbGen : Nat := 0
  hbHealth : Nat := 0
  hbPorts : Nat := 0
  hbRole : Bool := false
  timeSeconds : Option (Nat × Nat) := none
  hbLost : Bool := false
  partnerLost : Bool := false
  takeover : Option Takeover := none
  held : Option Checkpoint := none
  heldRaw : Option (Nat × Nat) := none
  pushed : Option Checkpoint := none
  pushedImages : List (Nat × Nat) := []
  gen : Nat := 0
  genAt : Nat := 0
  dirtySince : Option Nat := none
  relinquishAt : Option Nat := none
  hbSent : Nat := 0
  failedUntil : Option Nat := none
  selfTest : Nat := 0
  selfTestAt : Option Nat := none
  testFails : Nat := 0
  tag : Nat := 0
  decideBy : Option Nat := none
  deriving DecidableEq, Repr

/-! ## Reset and boot (chapter 22), debug (chapter 24) -/

/-- Reset, boot and watchdogs (R460-R471). -/
structure Boot where
  supplyOk : Bool := true
  inReset : Bool := false
  overTemp : Bool := false
  warnedAt : Option Nat := none
  rstLowSince : Option Nat := none
  rstStuck : Bool := false
  rstHighSince : Option Nat := none
  resetDue : Option Nat := none
  step : Nat := 1
  resetTick : Nat := 0
  wdLast : Nat := 0
  wdPeriod : Nat := 1000
  bootSince : Option Nat := none
  warmSince : Option Nat := none
  warmPosted : Bool := false
  recovery : Bool := false
  deriving DecidableEq, Repr

/-- The test access port and the debug module (R500-R502).  `instr` is the TAP instruction in force, `dm` the debug module's
registers, `op` and `data` what the last DMI access answered, `halted` the harts a debugger has halted. -/
structure Tap where
  instr : Nat := 1
  dm : Bank Nat := []
  op : Nat := 0
  data : Nat := 0
  halted : List Nat := []
  deriving DecidableEq, Repr

/-- What stands in external flash (R301, R354, R386, R403, R463): both copies of the stored set, the repair record, the count
of boots, the password hash, the checkpoint images of the task-image area as length and bytes. -/
structure StoredSet where
  conc : Od := []
  fe : Bank Od := []
  deriving DecidableEq, Repr

structure RepairRecord where
  health : Bank Health := []
  rows : Bank HbmRow := []
  frames : List Nat := []
  feSlots : Bank Nat := []
  spares : Bank Nat := []
  deriving DecidableEq, Repr

/-- The external flash.  `repair` and `repairOld` are the newer and the older copy of the repair record (R354). -/
structure Flash where
  stored : Option StoredSet := none
  previous : Option StoredSet := none
  repair : RepairRecord := {}
  repairOld : RepairRecord := {}
  resetCount : Nat := 0
  pwHash : Option Nat := none
  images : List (Nat × Nat) := []
  deriving DecidableEq, Repr

end Sys2Proof.Machine
end

