-- ==== Sys2Proof/Syntax.lean ====
section
/-! DEFINITION. The commands that the two parts take from outside, one constructor per row of the command table, with the operands
that the rule of each names: units by their numbers, object accesses by source, index, sub-index, length and value, events by what the
environment decides.  Those with operands stand first.  Nothing here says what a command does. -/

namespace Sys2Proof

open Sys2Proof.Machine (Checkpoint)

/-- The two parts of the chain (R1): the front-end and the concentrator. -/
inductive Part where
  | fe | conc
  deriving DecidableEq, Repr

/-- A lane end: lane `i` of the concentrator, numbered as in `LaneControl` (R117); the downlink receiver of a side of the front-end;
its uplink transmitter `n`, twice the side plus the uplink (R94). -/
inductive LaneRef where
  | conc (i : Nat)
  | feDown (side : Nat)
  | feUp (n : Nat)
  deriving DecidableEq, Repr

/-- The way a management message comes (R134, R315): on a downlink to the front-end; on physical back-end lane `n` or on peer lane `n`
to the concentrator, in class 1 or 3. -/
inductive Path where
  | feDown (side : Nat)
  | backEnd (n cls : Nat)
  | peer (n cls : Nat)
  deriving DecidableEq, Repr

/-- The commands. -/
inductive Instr where
  /-- A timing discriminator leading edge on a channel latches the coarse count and raw code and starts a candidate hit (R39). -/
  | timingCrossing (c beat code width : Nat) (val : Option Nat)
  /-- The timing discriminator trailing edge, `fine` 256ths of a beat into the base tick, ends the time-over-threshold and the hit
  word enters the derandomiser (R31). -/
  | trailingEdge (c fine ups : Nat) (reading : Bool)
  /-- The time-over-threshold count reaches 1,023 beats and the hit word leaves the channel (R31). -/
  | totSaturated (c beat ups : Nat) (reading : Bool)
  /-- A lost-hit report whose count reaches 127 closes (R74). -/
  | lostHitReportFull (c : Nat)
  /-- DC input current crosses 500 µA, and the baseline-saturated bit follows (R23). -/
  | baselineSaturationChange (c microAmps : Nat)
  /-- A completed channel-table transfer takes effect for all 256 channels in one base tick (R37). -/
  | channelTableWrite (side index sub len v : Nat)
  /-- The 200 µs settling of a channel leaving OFF ends and crossings are no longer gated (R32). -/
  | channelSettleEnd (c : Nat)
  /-- A change of the group input switch moves an input to or from slot 16 and starts blanking (R34). -/
  | spareAssignWrite (side g v : Nat)
  /-- The 20 µs or 200 µs blank of a reassigned channel ends (R34). -/
  | spareBlankEnd (c : Nat)
  /-- Reading BaselineStatus returns the table and clears every saturated-since-read bit (R38). -/
  | baselineStatusRead (side : Nat)
  /-- A SECOND_MARK word arrives in a control-only cell on the leased downlink and schedules its execution beat (R130). -/
  | secondMark (side : Nat) (w : Word) (age pos : Nat)
  /-- A slot histogram reaches N edges, stops counting and starts its table computation (R49). -/
  | culletHistogramFull (g k : Nat)
  /-- A table computation completes and the table is accepted into shadow or rejected (R50). -/
  | culletTableComputed (g k : Nat)
  /-- The group pulser injects a random-phase pulse into the next fed slot (R54). -/
  | pulserInject (g beat code : Nat)
  /-- A host-loaded table is checked and placed in shadow for the next mark (R52). -/
  | culletTableLoad (side len v : Nat)
  /-- Setting or clearing a group's Freeze bit stops histogramming or discards the partial histogram (R53). -/
  | culletFreezeWrite (side v : Nat)
  /-- A change of HistogramExponent discards and restarts every partial histogram (R66). -/
  | histogramExponentWrite (side v : Nat)
  /-- A write of TimeOffset, WalkTable or WalkEnable becomes pending until the next mark (R60). -/
  | timeCorrectionWrite (side index sub len v : Nat)
  /-- The wake mask of GroupRequest starts the wake of the named sleeping groups (R61). -/
  | groupRequestWake (side mask : Nat)
  /-- The sleep mask of GroupRequest puts the named ON_DEMAND or AUTO groups to sleep (R61). -/
  | groupRequestSleep (side mask : Nat)
  /-- A GROUP_WAKE fast command wakes the groups of its mask (R130). -/
  | groupWake (side : Nat) (w : Word)
  /-- A GROUP_SLEEP fast command puts the groups of its mask to sleep (R130). -/
  | groupSleep (side : Nat) (w : Word)
  /-- A change of a group's power mode takes effect at once, and ALWAYS starts a wake (R66). -/
  | groupPowerModeWrite (side g v : Nat)
  /-- The always-on domain samples a sleeping AUTO group's activity latch and requests its wake (R62). -/
  | aoActivitySample (g : Nat)
  /-- A waking group's PLL declares lock (R62). -/
  | groupPllLocked (g : Nat)
  /-- A waking group's DLL declares lock and its coarse counter is loaded from the chip counter (R62). -/
  | groupDllLocked (g : Nat)
  /-- A waking group becomes awake, stamps crossings and emits group event 0x01 (R62). -/
  | groupWakeComplete (g : Nat)
  /-- An AUTO group without converted edges for GroupIdleTime goes to sleep (R61). -/
  | groupIdleTimeout (g : Nat)
  /-- A group PLL or DLL loses lock, stops stamping and re-enters the wake sequence (R64). -/
  | groupLockLoss (g : Nat)
  /-- The group sorter takes the lowest-keyed oldest derandomiser entry while it has room (R76). -/
  | sorterTake (g flips : Nat)
  /-- The sorter releases its lowest word once its key is at or below the group horizon (R75). -/
  | sorterRelease (g flips : Nat)
  /-- At each M-cell slot the front-end fills each usable uplink with class 0, 1/3, 2 or idle (R81). -/
  | uplinkSlot (side : Nat)
  /-- Reading a SorterStatus sub-index resets its peak to the present occupancy (R93). -/
  | sorterStatusRead (side g : Nat)
  /-- A lane detects signal and moves from NO_SIGNAL to clock recovery, waking parked ends where enabled (R104). -/
  | signalDetect (l : LaneRef)
  /-- Loss of signal detect returns a lane to NO_SIGNAL (R104). -/
  | signalLoss (l : LaneRef)
  /-- Clock recovery locks and the blind receiver enters HUNT (R104). -/
  | cdrLocked (l : LaneRef)
  /-- No clock-recovery lock within 200 µs returns the lane to NO_SIGNAL with a retry count (R104). -/
  | cdrLockTimeout (l : LaneRef)
  /-- A cell slot is judged at its marker and a good cell is destuffed, CRC-checked and processed (R123). -/
  | cellArrival (l : LaneRef) (line : Nat)
  /-- After two slots Tightrope judges the marker flags of an ingress lane and slips or proceeds (R106). -/
  | tightropeJudge (x : Nat)
  /-- The 1 ms wait after a Tightrope failure ends and Tightrope starts again (R107). -/
  | tightropeRetry (x : Nat)
  /-- A DETECT lane's periodic termination sense or signal-detect hold moves it to TRAIN (R109). -/
  | trainDetectSense (x : Nat) (positive : Bool)
  /-- A preset's TrainDwell of error counting ends and the sweep requests the next or best preset (R110). -/
  | trainDwellEnd (x : Nat)
  /-- A training phase timeout returns the lane to DETECT after a hold-off and counts a retrain (R109). -/
  | trainingTimeout (x : Nat)
  /-- The 1 ms hold-off after a training failure ends and DETECT resumes (R109). -/
  | trainHoldoffEnd (x : Nat)
  /-- A park request by object or mode change starts parking a lane (R112). -/
  | laneParkRequest (src x : Nat)
  /-- Once the replay buffer is empty or 1 ms has passed, the lane switches off its driver and clock recovery (R112). -/
  | parkEntry (x : Nat)
  /-- An unpark by object or signal detect starts the lane's return to service (R113). -/
  | laneUnpark (src x : Nat)
  /-- A lane not aligned or ACTIVE 800 µs after unpark stays in HUNT or goes to DETECT (R113). -/
  | unparkDeadline (l : LaneRef)
  /-- A PRBS code in LaneControl puts a concentrator lane into test mode (R102). -/
  | prbsTestStart (src x code : Nat)
  /-- A non-zero front-end PRBS mode puts an uplink or downlink into test mode (R103). -/
  | fePrbsTestStart (side : Nat) (l : LaneRef) (code : Nat)
  /-- Writing code 0 ends a front-end test mode at once and the lane restarts bring-up (R103). -/
  | fePrbsTestStop (side : Nat) (l : LaneRef)
  /-- PrbsDuration expires and the front-end test mode ends by itself (R103). -/
  | prbsDurationEnd (l : LaneRef)
  /-- A quad PLL losing lock takes every lane of its quad out of service (R115). -/
  | quadPllLockLoss (p : Part) (n : Nat)
  /-- A quad PLL relocks and its lanes restart bring-up (R115). -/
  | quadPllRelock (p : Part) (n : Nat)
  /-- At each slot boundary a transmitter sends the first of control-only, replay, class 0, other class or idle (R141). -/
  | txSlot (x : Nat)
  /-- T_replay without acknowledgement progress starts a replay from U (R137). -/
  | replayTimerExpiry (l : LaneRef)
  /-- 10 ms without acknowledgement progress resets the link or uplink scope (R143). -/
  | ackProgressTimeout (l : LaneRef)
  /-- No answer within 256 slots repeats the initiate run and counts an answer timeout (R142). -/
  | answerTimeout (l : LaneRef)
  /-- A READ message returns the whole value of an object (R135). -/
  | mgmtRead (p : Path) (tid index sub : Nat) (poisoned : Bool)
  /-- A WRITE message writes the whole value of an object (R135). -/
  | mgmtWrite (p : Path) (tid index sub len v : Nat) (poisoned : Bool)
  /-- A READ_AT message returns a byte range of an object and its length (R135). -/
  | mgmtReadAt (p : Path) (tid index sub off cnt : Nat) (poisoned : Bool)
  /-- A WRITE_AT message stages a segment and applies the object at last = 1 (R305). -/
  | mgmtWriteAt (p : Path) (tid index sub off : Nat) (last : Bool) (len v : Nat) (poisoned : Bool)
  /-- A front-end response to a relay is returned to the host with its own transaction ID (R317). -/
  | mgmtResponse (l : Nat) (ws : List Word)
  /-- The front-end receives ECHO_REQUEST and schedules its ECHO_REPLY (R159). -/
  | echoRequest (side : Nat) (w : Word) (age : Nat)
  /-- An ECHO_REPLY reaching the concentrator registers the TIU stop for its tag (R164). -/
  | echoReply (l : Nat) (w : Word) (beat sub : Nat)
  /-- A front-end receiving a valid renewal resets its lease timer, otherwise refuses it (R377). -/
  | leaseRenew (side : Nat) (w : Word)
  /-- A front-end grants a claim while no side holds the lease, otherwise refuses it (R377). -/
  | leaseClaim (side : Nat) (w : Word) (both : Bool)
  /-- The concentrator receives a lease answer and on a grant configures the front-end (R381). -/
  | leaseAck (l : Nat) (w : Word)
  /-- The concentrator posts a received FE_FAULT in its log and forwards it as FE_FAULT_FWD (R371). -/
  | feFault (l : Nat) (w : Word)
  /-- A back-end echo request, whose marker began `age` beats before the base tick, is answered with BE_ECHO_REPLY carrying the
  turnaround (R169). -/
  | beEchoRequest (n : Nat) (w : Word) (age : Nat)
  /-- A PPS edge is captured, judged against its window and reported in a PPS_RECORD (R152). -/
  | ppsEdge (falling : Bool) (delay : Nat)
  /-- Writing AlignArm arms or disarms alignment on the next PPS edge (R155). -/
  | alignArmWrite (src v : Nat)
  /-- A written base or AO increment is range-checked and held pending until the next rollover (R151). -/
  | incrementWrite (src : Nat) (ao : Bool) (v : Nat)
  /-- The concentrator sends SECOND_MARK for a port in the earliest slot that starts the epoch on time (R157). -/
  | secondMarkSend (p : Nat)
  /-- TiuRun 1 starts a TIU run in the configured mode (R164). -/
  | tiuRunStart (src : Nat)
  /-- TiuRun 0 aborts a TIU run (R164). -/
  | tiuRunAbort (src : Nat)
  /-- A TI_START edge registers a pending start in pin mode (R164). -/
  | tiuStartEdge (beat : Nat) (gate : Bool)
  /-- A TI_STOP edge forms a sample or is rejected as out of order (R165). -/
  | tiuStopEdge (beat sub : Nat)
  /-- LatencyPeriod expires and the Ringmaster starts measuring a leased port (R167). -/
  | latencyPeriodDue (p : Nat)
  /-- Reading TimeSeconds latches all three counter fields (R171). -/
  | timeNowRead (src : Nat)
  /-- Reading PpsSeconds latches the capture and verdict (R171). -/
  | ppsCaptureRead (src : Nat)
  /-- The Gather takes a class-2 cell and sorts, sides or consumes each word against H (R178). -/
  | gatherCellTake (l : Nat)
  /-- A lane with no good class-2 cell for StaleTicks becomes lane-stale (R181). -/
  | laneStaleTimeout (l : Nat)
  /-- CarouselEnable 1 starts the ring empty at the bucket containing H (R195). -/
  | carouselStart (src : Nat)
  /-- CarouselEnable 0 discards the ring and ends every queue entry as an expired record (R196). -/
  | carouselStop (src : Nat)
  /-- An accepted TRIGIN edge is time-stamped and offers a tier-A trigger (R200). -/
  | triginEdge (n : Nat) (falling : Bool) (beat code width : Nat)
  /-- A paired LOOKBACK_START and LOOKBACK_SPAN request a window as a chain of entries (R203). -/
  | lookbackRequest (n : Nat) (w1 w2 : Word)
  /-- A READY entry starts extraction on a Carousel mover when the record store admits it (R208). -/
  | extractionStart (ch : Nat)
  /-- An extraction completes and its record is complete, truncated or expired in the store (R209). -/
  | extractionComplete (ch : Nat)
  /-- Reading TailKey latches tail, head and depth (R212). -/
  | carouselStatusRead (src : Nat)
  /-- An engine context executes an ordinary RISC-V instruction, raising any exception (R216). -/
  | engineInstruction (e : Nat)
  /-- qpop returns the next slice word and advances the feed, or a sentinel (R220). -/
  | qpop (e : Nat)
  /-- qpeek returns a word ahead in the feed without advancing (R220). -/
  | qpeek (e : Nat)
  /-- qtime returns slice start, ends, number or flags (R220). -/
  | qtime (e : Nat)
  /-- qhist atomically adds to a saturating counter and returns the old value (R220). -/
  | qhist (e : Nat)
  /-- qtrig offers a trigger at a key with tier and profile (R220). -/
  | qtrig (e : Nat)
  /-- qemit puts a primitive into the class-0 emit queue from a class-0 context (R220). -/
  | qemit (e : Nat)
  /-- qwait returns at once or makes the context WAITING for feed data or a limit (R220). -/
  | qwait (e : Nat)
  /-- qslice releases the current slice and makes the next pending one current (R220). -/
  | qslice (e : Nat)
  /-- The delayed result of a load, qhist or qtrig reaches its destination register (R221). -/
  | resultReturn (x rd : Nat)
  /-- Slice words reach a context's feed buffer, waking a waiting context (R231). -/
  | feedDataArrival (x n : Nat)
  /-- Service EXIT drains the instance's movers, makes it IDLE and records the status (R229). -/
  | ecallExit (e : Nat)
  /-- Service SET_RESTART registers the restart point and stack (R229). -/
  | ecallSetRestart (e : Nat)
  /-- Service LOG posts one log entry as a bulk record (R229). -/
  | ecallLog (e : Nat)
  /-- The Ringmaster completes a service call and the context leaves SERVICE (R229). -/
  | serviceComplete (x : Nat)
  /-- The start command checks resources and makes the instance STARTING (R226). -/
  | instanceStart (src : Nat)
  /-- The suspend command makes a context SUSPENDED (R236). -/
  | instanceSuspend (src : Nat)
  /-- The resume command returns a suspended or faulted context to its state (R236). -/
  | instanceResume (src : Nat)
  /-- The kill command drains the instance's movers and frees its resources (R262). -/
  | instanceKill (src : Nat)
  /-- All channels of an instance have drained and its ASID, channels and frames are freed (R262). -/
  | drainComplete (x : Nat)
  /-- The restart command restarts a context at its restart point (R228). -/
  | instanceRestart (src : Nat)
  /-- A STARTING instance's page tables are built and it becomes RUNNABLE (R226). -/
  | instanceRunnable (x : Nat)
  /-- TaskLoadSlot verifies the staged image and installs it in a slot (R224). -/
  | taskLoad (src k : Nat)
  /-- TaskUnload empties a slot whose instances are all IDLE (R224). -/
  | taskUnload (src k : Nat)
  /-- A register-file parity error aborts and restarts the instance at its restart point (R232). -/
  | parityRestart (x : Nat)
  /-- A cluster idle for ClusterIdle stops its clocks and sleeps (R215). -/
  | clusterIdleTimeout (k : Nat)
  /-- A sleeping cluster finishes waking after a runnable context or access (R215). -/
  | clusterWakeComplete (k : Nat)
  /-- A Tail write posts descriptors or is refused when it exceeds the ring (R253). -/
  | moverTailWrite (ch v : Nat)
  /-- RESUME re-reads a halted descriptor and continues at bytes done (R260). -/
  | moverResume (ch : Nat)
  /-- ABORT completes the halted or running descriptor as ABORTED (R260). -/
  | moverAbort (ch : Nat)
  /-- A COPY descriptor starts and copies bytes beat by beat (R255). -/
  | moverCopy (ch beats : Nat)
  /-- A SCATTER descriptor starts and writes strided elements (R255). -/
  | moverScatter (ch beats : Nat)
  /-- A FILL descriptor starts and writes the pattern (R255). -/
  | moverFill (ch beats : Nat)
  /-- A SEND descriptor starts and hands bytes to the bulk queue (R290). -/
  | moverSend (ch beats : Nat)
  /-- A COMPRESS descriptor gets a Marver unit and codes its input into blocks (R272). -/
  | moverCompress (ch beats : Nat)
  /-- A CRC descriptor starts and computes CRC-32C over the source (R255). -/
  | moverCrc (ch beats : Nat)
  /-- A descriptor's writes are accepted, its completion is written and Head advances (R257). -/
  | descriptorComplete (ch : Nat)
  /-- A block's input ends, its codes are flushed and its header words written (R272). -/
  | marverBlockFlush (ch : Nat)
  /-- FlipArm arms or disarms the flip mask (R250). -/
  | flipArmWrite (src v : Nat)
  /-- Reading LastErrorAddress latches the last-error fields (R265). -/
  | eccLastErrorRead (src : Nat)
  /-- Reading Class0Residence returns the maximum and resets it (R297). -/
  | class0ResidenceRead (src : Nat)
  /-- A CAN USDO transfer reads or writes an object (R311). -/
  | usdoRequest (session : Nat) (write : Bool) (index sub len v : Nat) (toggle last : Bool)
  /-- NMT reset node resets the part or acts as reset communication (R311). -/
  | nmtResetNode (pins : Nat)
  /-- NMT reset communication re-reads node ID and rates and closes CAN sessions (R311). -/
  | nmtResetCommunication (pins : Nat)
  /-- A TPDO period expires and its mapped objects are sent (R314). -/
  | tpdoSend (k : Nat)
  /-- The store signature copies P objects into flash (R301). -/
  | storeAll (src k v : Nat)
  /-- The restore signature erases the stored set (R301). -/
  | restoreDefaults (src k v : Nat)
  /-- A correct password opens the configuration session (R319). -/
  | sessionOpen (src lane pw : Nat)
  /-- The holder closes the configuration session (R319). -/
  | sessionClose (src v : Nat)
  /-- The session holder replaces the password (R320). -/
  | passwordChange (src pw : Nat)
  /-- Staging idle for 1 s is discarded (R305). -/
  | stagingTimeout (p : Part) (src index sub : Nat)
  /-- Writing 0 to ErrorCount clears the EMCY history (R328). -/
  | errorHistoryClear (src v : Nat)
  /-- A write to an object with no behaviour of its own is checked and applied (R303). -/
  | registerWrite (p : Part) (src index sub len v : Nat)
  /-- A monitor sees 64 reference cycles without an edge and declares the source dead (R332). -/
  | clockSourceDead (p : Part) (n : Nat)
  /-- A monitor declares a dead source alive again and pending switches proceed (R332). -/
  | clockSourceAlive (p : Part) (n : Nat)
  /-- A 1 ms window judges a fast clock's ratio, three good windows making it stable (R338). -/
  | stabilityWindow (p : Part) (n : Nat) (good : Bool)
  /-- A 1 ms window trims the always-on RC against the base clock (R336). -/
  | aoTrimWindow (p : Part) (ppm : Int)
  /-- MeterRun starts a frequency measurement (R339). -/
  | meterRun (src v : Nat)
  /-- The meter gate ends and count and deviation are reported (R339). -/
  | meterGateEnd (count : Nat)
  /-- A gate write closes or opens block clocks when their interfaces are idle (R340). -/
  | clockGateWrite (p : Part) (src busy v : Nat)
  /-- A gate waiting 64 busy cycles is forced and flagged (R340). -/
  | gateForce (p : Part) (b : Nat)
  /-- A PowerRequest of ASLEEP runs through STANDBY to ASLEEP (R344). -/
  | powerRequestAsleep (src : Nat)
  /-- A PowerRequest of COLD_STANDBY starts the relinquish procedure (R344). -/
  | powerRequestColdStandby (src : Nat)
  /-- A PowerRequest of STANDBY wakes or leaves OBSERVE to STANDBY (R344). -/
  | powerRequestStandby (src : Nat)
  /-- A PowerRequest of OBSERVE brings the part to OBSERVE (R344). -/
  | powerRequestObserve (src : Nat)
  /-- FeModeRequest SLEEP takes the front-end through STANDBY to SLEEP (R346). -/
  | feModeRequestSleep (side : Nat)
  /-- FeModeRequest STANDBY puts the groups to sleep (R346). -/
  | feModeRequestStandby (side : Nat)
  /-- FeModeRequest OBSERVE enters observation with groups per their modes (R346). -/
  | feModeRequestObserve (side : Nat)
  /-- Every 600 s of always-on time each non-zero fault counter loses 1 (R351). -/
  | faultDecrement (p : Part)
  /-- A drained SUSPECT resource starts its self-test (R355). -/
  | resourceSelfTestStart (p : Part) (kind num : Nat)
  /-- A self-test ends and the resource returns HEALTHY or is RETIRED (R352). -/
  | resourceSelfTestComplete (p : Part) (kind num : Nat) (passed : Bool)
  /-- AnnealRun in STANDBY starts a sleep pass (R362). -/
  | annealRun (src : Nat)
  /-- An Annealer pass finishes its work (R362). -/
  | annealPassComplete (failing : List (Nat × Nat))
  /-- FeAnnealRun starts a front-end pass in STANDBY (R364). -/
  | feAnnealRun (side : Nat)
  /-- A front-end pass ends and reports its result (R364). -/
  | feAnnealComplete (failing : List (Nat × Nat))
  /-- The Roustabout reads the next written HBM line at its steady rate (R365). -/
  | hbmScrubLine (busy : Bool) (k data check : Nat)
  /-- The Roustabout reads the next SRAM word of its scrub cycle (R365). -/
  | sramScrubWord (data check : Nat)
  /-- A line skipped for a pending write is returned to after 1 ms (R366). -/
  | scrubLineRetry (n : Nat) (busy : Bool)
  /-- Every 10 ms the front-end scrubs its configuration SRAM (R368). -/
  | feConfigScrub (corrected majority : Nat) (lost : List (Nat × Nat))
  /-- FaultLogAck advances the acknowledged point and clears error-register bits (R370). -/
  | faultLogAck (src v : Nat)
  /-- FeRetiredRestore adds retired slots and locks their assignments (R374). -/
  | feRetiredRestoreWrite (side v : Nat)
  /-- Every 10 ms the holder sends LEASE_RENEW on each leased port (R379). -/
  | leaseRenewSend (p : Nat)
  /-- An ACTIVE concentrator claims an unheld aligned port every 100 ms or after the refusal's remaining time (R381). -/
  | leaseClaimSend (p : Nat)
  /-- A partner's HEARTBEAT is received and its state recorded (R384). -/
  | heartbeat (n : Nat) (w : Word) (other : Nat)
  /-- A HEARTBEAT_TIME word's seconds and arrival tick are recorded (R383). -/
  | heartbeatTime (n : Nat) (w : Word)
  /-- A received RELINQUISH starts a takeover at the standby (R387). -/
  | relinquish (n : Nat) (w : Word)
  /-- A received TAKEOVER_REQUEST makes the active partner relinquish (R391). -/
  | takeoverRequest (n : Nat) (w : Word)
  /-- A completed CheckpointData transfer becomes the standby's valid checkpoint (R386). -/
  | checkpointReceive (k : Checkpoint) (version : Bool)
  /-- A pushed task image is written to the standby's flash image area (R386). -/
  | checkpointImageReceive (len v : Nat)
  /-- PartnerCommand 1 on the active partner runs the relinquish procedure (R391). -/
  | partnerRelinquish (src : Nat)
  /-- PartnerCommand 2 on the standby sends TAKEOVER_REQUEST (R391). -/
  | partnerRequestTakeover (src : Nat)
  /-- PartnerCommand 3 forces a takeover (R387). -/
  | partnerForceTakeover (src : Nat)
  /-- The cold standby tests its next SRAM macro or logic slice (R383). -/
  | standbySelfTestStep (pass : Bool)
  /-- The session holder burns the owner key hash and seal (R398). -/
  | ownerKeyEnrol (src hash : Nat) (cut : Bool)
  /-- FirmwareFloorCommit raises the firmware floor to the running version (R399). -/
  | firmwareFloorCommit (src v : Nat)
  /-- OwnerFloorCommit raises the owner floor (R399). -/
  | ownerFloorCommit (src v : Nat)
  /-- The last segment of a firmware image triggers its verification in the inactive slot (R403). -/
  | firmwareImageVerify (src len v : Nat)
  /-- FirmwareActivate makes the written slot preferred on trial (R403). -/
  | firmwareActivate (src v : Nat)
  /-- AttestRun starts building a signed attestation report (R404). -/
  | attestRun (src v : Nat)
  /-- A debug token written to DebugToken unlocks its scopes or is refused (R405). -/
  | debugToken (src v : Nat)
  /-- DebugLock relocks every scope and draws a new challenge (R405). -/
  | debugLock (src v : Nat)
  /-- AdcStart requests one host conversion of the selected setup (R421). -/
  | adcStart (src : Nat)
  /-- Reading AdcData returns the result and clears its new and overrun bits (R421). -/
  | adcDataRead (src : Nat)
  /-- The loop coprocessor requests a conversion at its scheduled slot (R422). -/
  | loopConversionRequest (l : Nat) (input : Bool)
  /-- A conversion ends and its result is stored with its flags (R419). -/
  | adcConversionComplete (code : Int) (rails : Nat)
  /-- Reading MaxLoopDelay returns and resets the largest loop delay (R427). -/
  | maxLoopDelayRead (src : Nat)
  /-- A loop computes its control law from the period's results and updates its output (R431). -/
  | loopSample (l : Nat)
  /-- LoopCommand clear returns a faulted loop to RUN (R439). -/
  | loopClearFault (src l : Nat)
  /-- LoopCommand start tune puts a thermal loop into relay auto-tune (R441). -/
  | loopTuneStart (src l : Nat)
  /-- LoopCommand accept tune copies the tuned gains into the region (R442). -/
  | loopTuneAccept (src l : Nat)
  /-- LoopCommand abort tune ends a running tune (R441). -/
  | loopTuneAbort (src l : Nat)
  /-- A new loop target starts or turns the ramp, flagging truncation (R435). -/
  | loopSetpointWrite (src v : Nat)
  /-- A write to the gains in force changes them bumplessly (R434). -/
  | loopGainsWrite (src v : Nat)
  /-- Reading LoopStatus clears the ramp-truncated bits (R444). -/
  | loopStatusRead (src : Nat)
  /-- FlashFire schedules a single flash for the third base tick (R448). -/
  | flashFire (src v : Nat)
  /-- A light sink pin below 0.6 V flags and counts a compliance loss (R445). -/
  | ledComplianceLoss (n : Nat)
  /-- FeedbackRun 1 starts bisecting an output's fraction to the target (R449). -/
  | feedbackRunStart (src : Nat)
  /-- FeedbackRun 0 aborts a feedback run (R449). -/
  | feedbackRunAbort (src : Nat)
  /-- After settling, a feedback step averages 16 conversions and bisects (R449). -/
  | feedbackStep (codes : List Int)
  /-- A Safety Net input holds a new level for 0.5 ms and permission is re-evaluated (R450). -/
  | safetyInputChange (n level : Nat)
  /-- BiasRequest sets the requested Safety Net outputs (R451). -/
  | biasRequestWrite (src v : Nat)
  /-- FeedbackTime after a change, a feedback mismatch sets FAULT (R452). -/
  | relayFeedbackCheck (k : Nat) (high : Bool)
  /-- Every 10 s an on output is driven off for 300 µs (R453). -/
  | testPulseStart (k : Nat)
  /-- The test pulse ends and its readback is judged (R453). -/
  | testPulseEnd (off on : Bool)
  /-- The stimulus LED is flashed and SN_LIGHT must rise and fall in time (R454). -/
  | stimulusTest (rose fell : Bool)
  /-- SafetyCommand 1 clears a Safety Net fault (R459). -/
  | safetyClearFault (src : Nat)
  /-- SafetyCommand 2 runs the stimulus test (R454). -/
  | safetyRunStimulus (src : Nat) (rose fell : Bool)
  /-- A signed Safety Net bundle is verified, stored and applied (R455). -/
  | safetyBundleWrite (src v : Nat)
  /-- Supply below 4.2 V for 2 µs asserts a power-on reset (R460). -/
  | brownOut (p : Part)
  /-- Supply above 4.4 V releases reset and starts the regulators (R461). -/
  | supplyRelease (p : Part)
  /-- RST_N low for 10 µs asserts a system reset (R464). -/
  | rstNAssert (p : Part) (us : Nat)
  /-- RST_N sampled high ends the system reset (R464). -/
  | rstNRelease (p : Part)
  /-- RST_N low for 5 s is treated as stuck and the part leaves reset (R465). -/
  | rstNStuck (p : Part)
  /-- The reset signature in ResetCommand schedules a concentrator system reset (R466). -/
  | resetCommand (src v : Nat)
  /-- The reset signature in FeResetCommand schedules a front-end system reset (R466). -/
  | feResetCommand (side v : Nat)
  /-- 10 ms or 1 ms after the response the requested system reset happens (R466). -/
  | softwareResetDue (p : Part)
  /-- After reset the concentrator runs its boot ladder to STANDBY or RECOVERY (R469). -/
  | bootLadder (pins : Nat) (cold : Bool) (failing : List (Nat × Nat)) (newerBad olderBad : Bool)
  /-- After reset the front-end runs its boot ladder to STANDBY awaiting a downlink (R472). -/
  | feBootLadder (failing : List (Nat × Nat))
  /-- Die above 110 °C posts a warning, repeated every 10 s (R490). -/
  | dieOvertempWarning (p : Part) (milliC : Int)
  /-- Die above 125 °C removes core power as a brown-out (R490). -/
  | dieOvertempShutdown (p : Part) (milliC : Int)
  /-- A probe selector entry routes a catalogue signal to a probe ball (R495). -/
  | probeSelectWrite (p : Part) (src n v : Nat)
  /-- A TAP instruction change takes effect and leaving EXTEST, CLAMP or HIGHZ resets the part (R501). -/
  | tapInstructionUpdate (p : Part) (code : Nat)
  /-- A token shifted in over JTAG is judged at Update-DR as a DebugToken write (R500). -/
  | tapTokenUpdate (v : Nat)
  /-- A debug module access completes or fails while its scope is locked (R502). -/
  | dmiAccess (op addr v : Nat)
  /-- A PRBS checker declares lock after 64 consecutive error-free received bits (R102). -/
  | prbsCheckerLock (l : LaneRef)
  /-- A locked PRBS checker counts an erroneous received bit and drops lock after 64 errors within 1,024 bits (R102). -/
  | prbsBitError (l : LaneRef) (bits : Nat)
  /-- A LaneControl write of PRBS code 0 ends a concentrator lane's test mode and restarts bring-up (R102). -/
  | prbsTestStop (src x : Nat)
  /-- The enable bit of LaneControl takes a lane into or out of DISABLED (R117). -/
  | laneEnableWrite (src x : Nat) (on : Bool)
  /-- A PortEnable write puts a port into DISABLED, unclaimed, or releases it to be claimed (R172). -/
  | portEnableWrite (src v : Nat)
  /-- A light sink pin that returns above its compliance voltage clears the compliance-lost-now flag (R445). -/
  | ledComplianceRestored (n : Nat)
  /-- An excitation source's pin crosses 2.45 V and its compliance detector flag in ExcitationStatus changes (R411). -/
  | excitationComplianceChange (k : Nat) (lost : Bool)
  /-- After a stuck release, RST_N sampled high without a break for 100 ms is watched again (R465). -/
  | rstNStuckRearm (p : Part)
  /-- The die cools below 115 °C after an over-temperature shutdown and the part leaves reset (R490). -/
  | dieOvertempRecovery (p : Part) (milliC : Int)
  /-- A CAN USDO transfer that times out is aborted and changes nothing (R304). -/
  | usdoTimeout (session : Nat)
  /-- 64 base ticks after the mark cell, counters reset, a commanded epoch starts and the second-mark word is queued (R42). -/
  | secondMarkExecute
  /-- With no mark by beat 3,003,000,000 of an epoch, a flywheel epoch starts with the next second number (R44). -/
  | flywheelEpochStart
  /-- A 938-base-tick rate window ends and each channel's prescale exponent is updated (R68). -/
  | rateWindowEnd
  /-- The chip merger takes the lowest-keyed released word once it is below every sorter horizon (R77). -/
  | mergerTake
  /-- A scaler interval ends and one scaler record per live channel is emitted (R89). -/
  | scalerIntervalEnd
  /-- The nanosecond counter reaches 10^9 ns, increments seconds and starts a new second (R148). -/
  | rollover
  /-- A PPS window closes without an accepted edge, counts a miss and may enter HOLDOVER (R154). -/
  | ppsWindowClose
  /-- On a planned base-clock stop the counter switches to AO increments at an AO edge (R150). -/
  | counterToAo
  /-- On a base-clock restart the counter switches back to base increments at an AO edge (R150). -/
  | counterToBase
  /-- In port-echo mode the TIU sends an ECHO_REQUEST every 180 base ticks (R164). -/
  | tiuEchoSend
  /-- A start without a stop within 2^24 beats is discarded and counted (R165). -/
  | tiuSampleTimeout
  /-- Once per base tick the Gather recomputes H from LIVE ports' progress and the sort window (R177). -/
  | horizonAdvance
  /-- H reaches the end of a slice span and the slice is handed to its subscriptions (R186). -/
  | sliceComplete
  /-- The per-channel hit counts of a completed second are published (R188). -/
  | channelRatesPublish
  /-- The random generator offers a tier-C trigger (R201). -/
  | randomTrigger
  /-- H passes an entry's end and FillExtra elapses, making the entry READY (R207). -/
  | entryReady
  /-- FillTimeout after counter time passes an entry's end makes it READY truncated (R207). -/
  | fillTimeout
  /-- At each 1 ms grid point a backlog above HighWater raises k_C or k_B (R210). -/
  | prescaleGrid1ms
  /-- At each 10 ms grid point a backlog below LowWater lowers k_B or k_C (R210). -/
  | prescaleGrid10ms
  /-- A WAITING context's qwait limit passes and it returns with the limit bit (R220). -/
  | qwaitLimitExpiry
  /-- A word at the head of the class-0 egress queue starts a duplicated class-0 cell (R292). -/
  | class0CellBuild
  /-- A front-end bulk record closes 10 µs after its first word (R289). -/
  | bulkRecordClose
  /-- NMT start makes the node operational (R311). -/
  | nmtStart
  /-- NMT stop makes the node stopped (R311). -/
  | nmtStop
  /-- NMT enter pre-operational changes the CAN state (R311). -/
  | nmtEnterPreOperational
  /-- The producer heartbeat period expires and a heartbeat is sent (R313). -/
  | canHeartbeat
  /-- A queued EMCY is sent at least 10 ms after the previous one (R313). -/
  | emcySend
  /-- SessionTimeout without a holder request ends the session (R319). -/
  | sessionTimeout
  /-- The 60 s lockout after three wrong passwords ends (R320). -/
  | passwordLockoutEnd
  /-- A relay without response for 4 ms is repeated (R317). -/
  | relayRepeat
  /-- A relay without response 20 ms after sending is answered with a timeout abort (R317). -/
  | relayTimeout
  /-- After 1 s alive the AO crystal again drives D0 (R336). -/
  | aoCrystalReturn
  /-- The time counter reaching WakeAt wakes the concentrator from ASLEEP (R344). -/
  | wakeAtAlarm
  /-- The wake ladder from ASLEEP finishes and the concentrator is in STANDBY (R345). -/
  | wakeLadderComplete
  /-- After the response is acknowledged or 1 ms, the front-end parks its lanes (R346). -/
  | feSleepPark
  /-- A front-end woken by signal detect reaches STANDBY (R346). -/
  | feWakeComplete
  /-- AnnealBudget expires and the pass ends with work left pending (R363). -/
  | annealBudgetExpiry
  /-- The front-end lease timer reaches 0 and the holder becomes none (R377). -/
  | leaseExpiry
  /-- 45 ms after the last answered renewal the concentrator stops acting and the port is UNLEASED (R379). -/
  | localLeaseExpiry
  /-- A Ringmaster core mismatch stops all outputs and enters FAILED (R382). -/
  | lockstepFailure
  /-- The 100 ms of FAILED heartbeats after a lockstep failure ends (R382). -/
  | failedHeartbeatEnd
  /-- Every 2 ms a partner sends HEARTBEAT and HEARTBEAT_TIME on the peer lanes (R384). -/
  | heartbeatSend
  /-- No valid heartbeat for 60 ms declares the heartbeat lost (R384). -/
  | heartbeatLoss
  /-- Images verified and instances started, the new active posts takeover complete (R388). -/
  | takeoverComplete
  /-- All claims refused for 2 s return the concentrator to COLD_STANDBY with PartnerLost (R389). -/
  | takeoverClaimTimeout
  /-- The active partner pushes a complete checkpoint after a change or each period (R385). -/
  | checkpointPush
  /-- After up to 60 ms at lease claim a prefer-standby unit becomes COLD_STANDBY or ACTIVE (R375). -/
  | roleDecision
  /-- The attestation report is signed and published (R404). -/
  | attestComplete
  /-- Every 10 s the converter calibrates offset and gain when no request is pending (R420). -/
  | adcCalibration
  /-- TuneTimeout ends a tune with status 2 (R441). -/
  | tuneTimeout
  /-- A flash turns on its outputs and offers a tier-C trigger (R448). -/
  | flashStart
  /-- FlashWidth beats elapse and the flash outputs turn off (R448). -/
  | flashEnd
  /-- The permit conditions held for ReleaseDelay make the state PERMITTED (R451). -/
  | releaseDelayEnd
  /-- The firmware restarts the Ringmaster watchdog (R467). -/
  | watchdogRestart
  /-- No restart for WatchdogPeriod causes a system reset (R467). -/
  | watchdogExpiry
  /-- STANDBY not reached within 60 s causes a system reset (R468). -/
  | bootWatchdogExpiry
  /-- Both HBM sensors reach 0 °C and the boot proceeds (R470). -/
  | warmupComplete
  /-- A warm-up lasting 600 s posts cause 0x2E (R470). -/
  | warmupLimit
  /-- VBUCK below 1.0 V for 2 ms stops the front-end buck converter and takes the core down (R482). -/
  | buckStop
  /-- 20 ms after a buck stop the converter restarts (R482). -/
  | buckRestart
  deriving DecidableEq, Repr

end Sys2Proof
end

