-- ==== Sys2Proof/Decode.lean ====
section
/-! DEFINITION. The command that a word spells.  The command table of the spec gives none of its rows any bits: the commands are
events and accesses, and what of them travels as words the meanings take apart themselves. -/

namespace Sys2Proof

/-- No row of the table has bits, so no word spells a command. (DESIGN CHOICE, log entry 7) -/
def decodeTableWord (_nbits _w : Nat) : Option Instr := none

end Sys2Proof
end

