-- ==== Sys2Proof/Config.lean ====
section
/-! DEFINITION. What the hardware fixes and the spec does not state: the fused values of a part, and the free values.
Every `opaque` here has no body: no proof can see its value, so a statement that holds, holds for every value. -/

namespace Sys2Proof.Config

/-- A value the spec leaves open, drawn afresh each time: the argument is the part's counter of drawn values. -/
opaque freeNat : Nat → Nat

/-- A choice the spec leaves open (R70, R46, R72, R464), drawn afresh each time. -/
opaque freeBool : Nat → Bool

/-- The fused delay of a front-end slot, group times 17 plus slot (R41, `SlotDelay`), as its 8-bit code. -/
opaque slotDelay : Nat → BitVec 8

/-- The front-end SRAM macro that holds the sorter of a group (R72), 0-63. (DESIGN CHOICE, log entry 12) -/
opaque sorterMacro : Nat → Fin 64

/-- The slot (0-271) or group (272-287) to which a front-end SRAM macro belongs that holds no sorter (R355).
(DEDUCED, log entry 33) -/
opaque feMacroOwner : Nat → Fin 288

/-- The bank and row of an HBM location within its pseudo-channel (R238, R355), by its 64 KiB block: bank times 16,384 plus
row. (DESIGN CHOICE, log entry 27) -/
opaque hbmRow : Nat → Fin 262144

/-- The SRAM macro that holds a word of a cluster memory, of a scratchpad or of another structure (R355), by its number.
(DESIGN CHOICE, log entry 27) -/
opaque sramMacro : Nat → Fin 3072

/-- The fused revision and serial number of the front-end (`FeIdentity`). -/
opaque feRevision : Nat
opaque feSerial : Nat

/-- SHA-512 of the vendor root modulus, in fuses (R395), as 64 bytes read little-endian. -/
opaque rootKeyHash : Nat

/-- The device's public modulus, its certificate and its signature of a report (R395, R404): what the security engine
answers for a private key that nothing reads. -/
opaque deviceModulus : Nat
opaque deviceCertificate : Nat
opaque deviceSign : Nat → Nat

/-- The `n`-th random `DebugChallenge` (R405). -/
opaque challenge : Nat → BitVec 64

/-- The attestation report's digests over contents whose layout the spec does not state (R404): of the fuse and OTP block, by
owner hash, seal and floors; of the repair record. (DEDUCED, log entry 48) -/
opaque fuseHash : Nat → Nat → Nat → Nat → Nat
opaque repairHash : Nat → Nat

/-- The concentrator's serial number and revision (0x1018:04, 0x1018:03), the hardware version (0x1009) as seven bytes, and the
seven bytes by which `SoftwareVersion` (0x100A) names a firmware version. -/
opaque serial : Nat
opaque revision : Nat
opaque hardwareVersion : BitVec 56
opaque softwareVersion : Nat → BitVec 56

/-- The beats between the pins and the internal markers of a back-end lane, which R169 counts in. -/
opaque beEchoPins : Nat

/-- The unit to which an SRAM macro belongs (R355, R358): 0-103 a physical engine, 104-116 a physical cluster, 117-124 a Marver
unit, 125 the sort store, 126 the bucket index, 127 the late directory, 128 the Ringmaster SRAM, 129 any other.
(DESIGN CHOICE, log entry 27) -/
opaque macroOwner : Nat → Fin 130

/-- The spare rows fused into an HBM bank (R359, R373): stack times 512 plus pseudo-channel times 16 plus bank.
(DESIGN CHOICE, log entry 27) -/
opaque hbmSpares : Nat → Fin 64

/-- The fused trim of an excitation source (R411): 500 stands for its set value, each step for 1 ppm of it. -/
opaque excitationTrim : Nat → Fin 1001

end Sys2Proof.Config
end

