-- ==== Sys2Proof/Machine/TypesFe.lean ====
section
/-! DEFINITION. The state of the front-end, QDR-F256 (chapters 02, 03, 04 and what the later chapters give it). -/

namespace Sys2Proof.Machine

/-- A converted leading edge that awaits its trailing edge (R31, R41).  `frac` is the fraction term, `base` the sum of
the slot delay and the time offset, `walk` the group's walk table where walk correction was on at the edge. -/
structure Cand where
  epoch : Nat
  lead : Nat
  coarse : Nat
  frac : Nat
  base : Int
  walk : Option Nat
  quality : Bool
  prescaled : Bool
  deriving DecidableEq, Repr

/-- A hit in a derandomiser: its key (epoch, time) and its word (R70, R87). -/
structure HitEntry where
  epoch : Nat
  time : Nat
  word : Word
  deriving DecidableEq, Repr

/-- An open lost-hit report (R74): the key of the first loss, the count and the cause bits. -/
structure Report where
  epoch : Nat
  time : Nat
  count : Nat
  causes : Nat
  deriving DecidableEq, Repr

/-- A logical channel (chapters 02 and 04). -/
structure Chan where
  settleUntil : Option Nat := none
  blankUntil : Option Nat := none
  satNow : Bool := false
  satSince : Bool := false
  discHigh : Bool := false
  cand : Option Cand := none
  k : Nat := 0
  windowCount : Nat := 0
  prescale : Nat := 0
  derand : List HitEntry := []
  report : Option Report := none
  scaler : Nat := 0
  scalerHist : List Nat := []
  scalerIrr : List Bool := []
  deriving DecidableEq, Repr

/-- A table that waits for the next mark (R51, R52). -/
structure Shadow where
  table : Nat
  loaded : Bool
  widest : Nat
  empty : Nat
  ready : Nat
  deriving DecidableEq, Repr

/-- A slot of a group: its Cullet histogram and tables (R48-R57).  `table` is `none` while the nominal table stands;
`older` is the table that the one in shadow displaced; `computing` is the full histogram in computation with the exponent
of its N; `freshAt` is when a host-loaded table was last swapped in; `powered` says that an input is connected to the slot
and its channel is not OFF, or that it is the spare (R32-R34). -/
structure Slot where
  hist : Bank Nat := []
  total : Nat := 0
  edges : Nat := 0
  table : Option Nat := none
  gen : Nat := 0
  shadow : Option Shadow := none
  older : Option Shadow := none
  computing : Option (Nat × Bank Nat) := none
  freshAt : Option Nat := none
  rejRun : Nat := 0
  rejects : Nat := 0
  lastRejected : Bool := false
  stale : Bool := false
  fed : Bool := false
  lastEdge : Option (Nat × Bool) := none
  lastServed : Option Nat := none
  unservedSince : Option Nat := none
  powered : Bool := true
  deriving DecidableEq, Repr

/-- The power condition of a group (R61, R62). -/
inductive GroupPwr where
  | asleep | waking | awake
  deriving DecidableEq, Repr

/-- A word in a group sorter or in the merger.  `rank` and `tie` are its place in the tie order of R77. -/
structure SortItem where
  epoch : Nat
  time : Nat
  rank : Nat
  tie : Nat
  word : Word
  released : Bool
  deriving DecidableEq, Repr

/-- A channel group.  `testing` is the slot whose input a self-test has moved to slot 16 (R356); `wait` are the words that
stand at the entry of a full sorter (R67); `pulserDue` is when its pulser next emits (R54); `sleptAt` is when it went to
sleep. -/
structure Group where
  pwr : GroupPwr := .asleep
  wakeStart : Nat := 0
  pll : Bool := false
  dll : Bool := false
  loaded : Bool := false
  lockLost : Bool := false
  lockLosses : Nat := 0
  latch : Bool := false
  sleepReq : Bool := false
  lastActive : Nat := 0
  sleptAt : Option Nat := none
  pulserNext : Nat := 0
  pulserDue : Nat := 0
  retired : Nat := 0
  assignLocked : Bool := false
  testing : Option Nat := none
  sorter : List SortItem := []
  wait : List SortItem := []
  peak : Nat := 0
  deriving DecidableEq, Repr

/-- One epoch of the front-end (R42-R44): index 0 is the NONE period, which is no epoch. -/
structure EpochRec where
  idx : Nat := 0
  start : Nat := 0
  second : Nat := 0
  deriving DecidableEq, Repr

/-- The scaler settings in force and the interval in progress (R89, R93). -/
structure Scaler where
  interval : Nat := 10
  exponent : Nat := 0
  source : Nat := 0
  enable : Nat := 1
  start : Nat := 0
  index : Nat := 0
  marked : Bool := false
  deriving DecidableEq, Repr

/-- One side of the front-end: its downlink receiver and its two uplink transmitters (R79, R140).  `echoes` are the
ECHO_REPLYs due (R159); `grid` is the tick on which the uplink slot grid starts (R159); `divider` the phase of the side's
base-clock divider in line bits (R96, R105); `ans0` and `ans1` the class-0 words and the management messages that wait for
the answering uplink (R378, R317). -/
structure FeSide where
  down : Lane := { st := .noSignal }
  up0 : Lane := { st := .parked }
  up1 : Lane := { st := .parked }
  echoes : List (Nat × Nat) := []
  grid : Nat := 0
  divider : Nat := 0
  ans0 : List Word := []
  ans1 : List (List Word) := []
  pllLocked : Bool := true
  deriving DecidableEq, Repr

/-- An entry of the front-end fault log (R371, R374). -/
structure FeLogEntry where
  number : Nat
  second : Nat
  cause : Nat
  kind : Nat
  res : Nat
  counter : Nat
  state : Nat
  deriving DecidableEq, Repr

/-- The front-end's mode, clocks, lease, accounting and reset state (chapters 15, 16, 17, 22, 23).  `mode` has the
codes of R346; `phase` is the divider phase of the base clock's source (R96); `leaseEnd` is the AO tick at which the lease timer reaches 0; `discard` says that the merger discards
(R380) and `awaitMark` is the epoch of a grant
whose holder's first commanded mark is awaited. -/
structure FeSys where
  mode : Nat := 2
  phase : Nat := 0
  sleepPark : Option Nat := none
  sleepAfter : Bool := false
  standbyDue : Bool := false
  decDue : Nat := 56250000000
  macroSpares : Bank Nat := []
  wakeStart : Option Nat := none
  clocks : Bank ClockDom := []
  gatesPending : Nat := 0
  gated : Nat := 1
  gateForced : Nat := 0
  aoTrim : Int := 0
  tap : Nat := 1
  leaseEnd : Option Nat := none
  discard : Bool := true
  awaitMark : Option Nat := none
  faults : Bank Health := []
  log : List FeLogEntry := []
  nextLog : Nat := 0
  annealing : Option Nat := none
  annealCursor : Nat := 0
  supplyOk : Bool := true
  inReset : Bool := false
  overTemp : Bool := false
  warnedAt : Option Nat := none
  rstLowSince : Option Nat := none
  rstStuck : Bool := false
  rstHighSince : Option Nat := none
  resetDue : Option Nat := none
  buckStopped : Option Nat := none
  bootStep : Nat := 1
  resetTick : Nat := 0
  trans : Bank (List Trans) := []
  staging : List Staging := []
  inbox : List Delivered := []
  deriving DecidableEq, Repr

/-- The front-end.  `tick` counts base-tick periods from power-up and never stops; `now` is the base-tick counter of
the part, from its reset.  `offset`, `walk` and `walkEnable` are the corrections in force (R60), whose newest written
values stand in the dictionary.  `marks` are the second marks that wait for their execution beat (R42). -/
structure Fe where
  tick : Nat := 0
  now : Nat := 0
  od : Od := []
  chans : Bank Chan := []
  slots : Bank Slot := []
  groups : Bank Group := []
  epochs : List EpochRec := [{}]
  kind : Nat := 0
  marks : List (Nat × Nat) := []
  seenMark : Bool := false
  crystalQ : Bool := false
  offset : Nat := 0
  walk : Nat := 0
  walkEnable : Nat := 0
  windowStart : Nat := 0
  scaler : Scaler := {}
  secondWords : List (Nat × Word) := []
  merger : List SortItem := []
  class3 : List Word := []
  promise : Nat × Nat := (0, 0)
  sides : Bank FeSide := []
  sys : FeSys := {}
  free : Nat := 0
  deriving DecidableEq, Repr

end Sys2Proof.Machine
end

