-- ==== Sys2Proof/Machine/FeOps.lean ====
section
/-! DEFINITION. The shared operations of the front-end: access to its channels, slots, groups and sides, its epochs and
time keys, its losses and lost-hit reports, its sorter, its fault accounting. -/

namespace Sys2Proof.Machine

/-! ## Access -/

def Fe.chan (f : Fe) (c : Nat) : Chan := Bank.get {} f.chans c
def Fe.setChan (f : Fe) (c : Nat) (x : Chan) : Fe := { f with chans := Bank.set {} f.chans c x }

/-- The number of a slot: group times 17 plus slot (R355). -/
def slotIx (g s : Nat) : Nat := g * 17 + s

def Fe.slot (f : Fe) (g s : Nat) : Slot := Bank.get {} f.slots (slotIx g s)
def Fe.setSlot (f : Fe) (g s : Nat) (x : Slot) : Fe := { f with slots := Bank.set {} f.slots (slotIx g s) x }
def Fe.group (f : Fe) (g : Nat) : Group := Bank.get {} f.groups g
def Fe.setGroup (f : Fe) (g : Nat) (x : Group) : Fe := { f with groups := Bank.set {} f.groups g x }
def Fe.side (f : Fe) (i : Nat) : FeSide := Bank.get {} f.sides i
def Fe.setSide (f : Fe) (i : Nat) (x : FeSide) : Fe := { f with sides := Bank.set {} f.sides i x }
def Fe.get (f : Fe) (o : Obj) (i : Nat := 0) : Nat := f.od.val o i
def Fe.put (f : Fe) (o : Obj) (v : Nat) (i : Nat := 0) : Fe := { f with od := f.od.put o v i }

/-- Add to an event counter (R9). -/
def Fe.count (f : Fe) (o : Obj) (i : Nat := 0) (n : Nat := 1) : Fe := f.put o (satAdd (8 * o.bytes) (f.get o i) n) i

/-- Add to one entry, of `w` bits, of a table of event counters (R9). -/
def Fe.countEntry (f : Fe) (o : Obj) (w i : Nat) (n : Nat := 1) : Fe :=
  f.put o (entryUpd w (f.get o) i fun v => satAdd w v n)

/-- Draw one free choice (the model's own counter of drawn values advances). (DESIGN CHOICE, log entry 5) -/
def Fe.drawBool (f : Fe) : Bool × Fe := (Config.freeBool f.free, { f with free := f.free + 1 })

/-- Draw one free value. (DESIGN CHOICE, log entry 5) -/
def Fe.drawNat (f : Fe) : Nat × Fe := (Config.freeNat f.free, { f with free := f.free + 1 })

/-- The front-end's always-on ticks, 1 us each (R2). -/
def Fe.ao (f : Fe) : Nat := f.tick * 32 / 3000

/-- Base-tick periods in a millisecond and in a second (R2). -/
def msTicks : Nat := 93750
def secTicks : Nat := 93750000

/-- The judgement of R338 begins anew. -/
def ClockDom.rejudge (d : ClockDom) : ClockDom :=
  { d with stable := false, good := 0, windows := 0, restarted := false, failed := false }

/-- The base clock F5 runs: in STANDBY and OBSERVE (R331, R346), from any source but a monitor clock declared dead (R333). -/
def Fe.baseRuns (f : Fe) : Bool :=
  decide (2 ≤ f.sys.mode) && !(f.get O.baseSource == 0 && (Bank.get {} f.sys.clocks 1).dead)

/-! ## Channels, slots, groups -/

/-- The input switched to slot 16 of group `g`, 255 none (R33). -/
def Fe.assigned (f : Fe) (g : Nat) : Nat := f.get O.spareAssignGroup g

/-- The slot of its group that serves logical channel `c` (R19, R33). -/
def Fe.slotOf (f : Fe) (c : Nat) : Nat := if f.assigned (c / 16) = c % 16 then 16 else c % 16

/-- The logical channel that slot `s` of group `g` serves, if any. -/
def Fe.servedBy (f : Fe) (g s : Nat) : Option Nat :=
  if s = 16 then (if f.assigned g < 16 then some (g * 16 + f.assigned g) else none)
  else if f.assigned g = s then none else some (g * 16 + s)

/-- The mode code of a channel (R32): 0 OFF, 1 MASKED, 2 ENABLED. -/
def Fe.chanMode (f : Fe) (c : Nat) : Nat := entryGet 8 (f.get O.channelMode) c % 4

/-- Whether validation is on for a channel (R38). -/
def Fe.validates (f : Fe) (c : Nat) : Bool := bitAt (entryGet 8 (f.get O.channelMode) c) 2

/-- The key of a resource in the health table (R355): kind and number. -/
def resKey (kind num : Nat) : Nat := kind * 2 ^ 24 + num

def Fe.health (f : Fe) (kind num : Nat) : Health := Bank.get {} f.sys.faults (resKey kind num)

/-- Slot `s` of group `g` is RETIRED. -/
def Fe.slotRetired (f : Fe) (g s : Nat) : Bool := bitAt (f.group g).retired s

/-- The channel is served by a working slot (R36, R38, R355): its bit of `ChannelLive`. -/
def Fe.live (f : Fe) (c : Nat) : Bool :=
  !f.slotRetired (c / 16) (f.slotOf c) && decide ((f.health 0x11 (c / 16)).st ≠ .retired)

/-- The slot is fed by the pulser now: below the floor, or its group is forced (R54). -/
def Fe.fedNow (f : Fe) (g s : Nat) : Bool := (f.slot g s).fed || bitAt (f.get O.pulserForce) g

/-- The group's bit in `Freeze` (R53). -/
def Fe.frozen (f : Fe) (g : Nat) : Bool := bitAt (f.get O.freeze) g

/-- The slot histograms: it serves a live channel that is not OFF (R48). -/
def Fe.histograms (f : Fe) (g s : Nat) : Bool :=
  match f.servedBy g s with
  | none => false
  | some c => f.live c && decide (f.chanMode c ≠ 0)

/-- N of R49. -/
def Fe.histN (f : Fe) : Nat := 2 ^ f.get O.histogramExponent

/-- The nominal table of R41: T[c] = 16c + 8, 16 bits an entry. -/
def nominalFrom : Nat → Nat → Nat
  | 0, _ => 0
  | n + 1, c => (16 * c + 8) + nominalFrom n (c + 1) * 2 ^ 16

def nominalTable : Nat := nominalFrom 256 0

/-- The table in use in a slot. -/
def Slot.inUse (s : Slot) : Nat := s.table.getD nominalTable

/-! ## Epochs and keys -/

/-- The present epoch; index 0 is the NONE period. -/
def Fe.epoch (f : Fe) : EpochRec := f.epochs.headD {}

/-- Base ticks since the epoch began. -/
def Fe.inEpoch (f : Fe) : Nat := f.now - f.epoch.start

/-- Settle a corrected time that may be negative in an epoch of the list (newest first), R43: the epoch, the time and
whether the time had to be set to 0. -/
def settleTime : List EpochRec → Int → Nat × Nat × Bool
  | [], _ => (0, 0, true)
  | [e], t => if t < 0 then (e.idx, 0, true) else (e.idx, t.toNat, false)
  | e :: p :: es, t =>
    if 0 ≤ t then (e.idx, t.toNat, false)
    else if p.idx = 0 then (e.idx, 0, true)
    else settleTime (p :: es) (t + (8192 * (e.start - p.start) : Nat))

/-- `settleTime` from the epoch with index `e` on. (DEDUCED, log entry 11) -/
def Fe.settle (f : Fe) (e : Nat) (t : Int) : Nat × Nat × Bool := settleTime (f.epochs.dropWhile fun r => e < r.idx) t

/-- An instant, in fine ticks since reset, as (epoch, time) (R75): the newest epoch that had begun. -/
def instantIn : List EpochRec → Nat → Nat × Nat
  | [], _ => (0, 0)
  | [e], x => (e.idx, x - 8192 * e.start)
  | e :: es, x => if 8192 * e.start ≤ x then (e.idx, x - 8192 * e.start) else instantIn es x

/-- The instant of (epoch, time) in fine ticks since reset (R83). -/
def instantOf (es : List EpochRec) (e t : Nat) : Nat :=
  match es.find? fun r => r.idx = e with
  | some r => 8192 * r.start + t
  | none => 0

/-- The merge key of (epoch, time) as one number; time -1, the second mark's, is 0 within its epoch. -/
def keyOf (e t : Nat) : Nat := e * 2 ^ 64 + t + 1

/-- The order of R77: key, then rank, then tie. -/
def SortItem.order (x : SortItem) : Nat :=
  ((if x.rank = 0 then x.epoch * 2 ^ 64 else keyOf x.epoch x.time) * 4 + x.rank) * 2 ^ 16 + x.tie

/-- Insert a word into a list kept in the order of R77. -/
def insertItem (x : SortItem) : List SortItem → List SortItem
  | [] => [x]
  | y :: ys => if x.order < y.order then x :: y :: ys else y :: insertItem x ys

/-- The words a sorter holds at most (R67). -/
def sorterSize : Nat := 512

/-- Enter a word into a group's sorter (R75); its peak follows.  With 512 words in it, the word stands at its entry until
one leaves (R67). -/
def Group.push (r : Group) (x : SortItem) : Group :=
  if r.wait = [] ∧ r.sorter.length < sorterSize then
    { r with sorter := insertItem x r.sorter, peak := max r.peak (r.sorter.length + 1) }
  else { r with wait := r.wait ++ [x] }

/-- Take item `x` out of a list of words. -/
def eraseItem (x : SortItem) : List SortItem → List SortItem
  | [] => []
  | y :: ys => if y = x then ys else y :: eraseItem x ys

/-- The words of a group's sorter and at its entry, in the order of R77. -/
def Group.words (r : Group) : List SortItem := r.wait.foldl (fun l x => insertItem x l) r.sorter

/-- A word leaves the sorter, and the first at its entry takes the place. -/
def Group.drop (r : Group) (x : SortItem) : Group :=
  if r.sorter.contains x then
    let l := eraseItem x r.sorter
    match r.wait with
    | [] => { r with sorter := l }
    | y :: ys => { r with sorter := insertItem y l, wait := ys }
  else { r with wait := eraseItem x r.wait }

/-- Exchange a word of a group for another. -/
def Group.exchange (r : Group) (x y : SortItem) : Group :=
  if r.sorter.contains x then { r with sorter := insertItem y (eraseItem x r.sorter) }
  else { r with wait := eraseItem x r.wait ++ [y] }

/-- Enter a word into the sorter of a group. (DEDUCED, log entry 13) -/
def Fe.pushSorter (f : Fe) (g : Nat) (x : SortItem) : Fe := f.setGroup g ((f.group g).push x)

/-! ## Corrections (R41, R58, R59) -/

/-- Walk point `i` of a group's table, signed (R59). -/
def walkPoint (t i : Nat) : Int := toSigned 16 (entryGet 16 t i)

/-- The walk correction at a time-over-threshold (R59): point, remainder and log2 of the spacing. -/
def walkAt (t tot : Nat) : Int :=
  let seg (i r sh : Nat) : Int :=
    (walkPoint t i * (2 ^ sh - r : Int) + walkPoint t (i + 1) * r + 2 ^ (sh - 1)) / 2 ^ sh
  if tot < 64 then seg (tot / 2) (tot % 2) 1
  else if tot < 184 then seg (32 + (tot - 64) / 8) ((tot - 64) % 8) 3
  else if tot < 192 then seg 47 (tot - 184) 3
  else if tot < 672 then seg (48 + (tot - 192) / 32) ((tot - 192) % 32) 5
  else walkPoint t 63

/-- The least walk correction of a table. (DEDUCED, log entry 13) -/
def walkMin (t : Nat) : Int := (List.range 64).foldl (fun m i => min m (walkPoint t i)) (walkPoint t 0)

/-- The fused delay of a slot (R41). (DESIGN CHOICE, log entry 6) -/
def slotDelayOf (g s : Nat) : Int := (Config.slotDelay (slotIx g s)).toInt

/-- The time of a candidate with walk correction `w`, before R43. -/
def Cand.raw (x : Cand) (w : Int) : Int := (256 * x.coarse + x.frac : Nat) + x.base + w

/-! ## Losses and reports (R73, R74) -/

/-- The cause bits of a lost-hit report, as bits [52:47] of its word (R87). -/
inductive LossCause where
  | overwrite | wake | blank | collision | lockLoss | uncorrectable
  deriving DecidableEq, Repr

def LossCause.bit : LossCause → Nat
  | .overwrite => 32 | .wake => 16 | .blank => 8 | .collision => 4 | .lockLoss => 2 | .uncorrectable => 1

/-- The lost-hit report word of R87. -/
def reportWord (c : Nat) (r : Report) : Word :=
  BitVec.ofNat 64 (3 * 2 ^ 61 + c * 2 ^ 53 + r.causes * 2 ^ 47 + r.count % 128 * 2 ^ 40 + r.time % 2 ^ 40)

def reportItem (c : Nat) (r : Report) (rel : Bool) : SortItem :=
  { epoch := r.epoch, time := r.time, rank := 2, tie := c, word := reportWord c r, released := rel }

/-- Close the open report of a channel into its group's sorter. -/
def Fe.closeReport (f : Fe) (c : Nat) (rel : Bool) : Fe :=
  match (f.chan c).report with
  | none => f
  | some r => (f.setChan c { f.chan c with report := none }).pushSorter (c / 16) (reportItem c r rel)

/-- Or two cause masks (the sum of the bits of either). -/
def orBits (a b : Nat) : Nat := a ||| b

/-- Count one lost hit of channel `c` with its cause and loss time: in `LostHits` and in the channel's report (R73, R74).
A report that already holds 127 has closed; the loss opens another. -/
def Fe.lose (f : Fe) (c : Nat) (cause : LossCause) (e t : Nat) : Fe :=
  let f := f.countEntry O.lostHits 32 c
  let f := match (f.chan c).report with
    | some r => if 127 ≤ r.count then f.closeReport c false else f
    | none => f
  let x := f.chan c
  match x.report with
  | some r => f.setChan c { x with report := some { r with count := r.count + 1, causes := orBits r.causes cause.bit } }
  | none => f.setChan c { x with report := some { epoch := e, time := t, count := 1, causes := cause.bit } }

/-- A loss at the present base tick (R73: base tick of the crossing times 8,192). -/
def Fe.loseNow (f : Fe) (c : Nat) (cause : LossCause) : Fe := f.lose c cause f.epoch.idx (f.inEpoch * 8192)

/-! ## Fault accounting of the front-end (R351-R353, R371) -/

/-- Count one fault event; an immediate one raises the counter to 8 (R353).  Events on a RETIRED resource are ignored. -/
def Health.event (h : Health) (immediate : Bool) : Health :=
  match h.st with
  | .retired => h
  | _ =>
    let n := min (h.counter + 1) 255
    let n := if immediate then max n 8 else n
    { h with
      counter := n, events := satAdd 16 h.events 1,
      st := if 8 ≤ n then .suspect else h.st,
      pending := h.pending || decide (8 ≤ n) }

/-- The counter after a passed self-test at tick `now`: halved, before the events of that tick (R352, R372). -/
def Health.halved (h : Health) (now : Nat) : Nat :=
  match h.before with
  | some (t, n) => if t = now then n / 2 + (h.counter - n) else h.counter / 2
  | none => h.counter / 2

/-- A passed self-test, or a spare taken: HEALTHY, the counter halved. -/
def Health.heal (h : Health) (now : Nat) : Health :=
  { h with st := .healthy, counter := h.halved now, before := none, pending := false, testing := none }

/-- A fault event at tick `now`, with the counter before the first event of that tick kept. -/
def Health.eventAt (h : Health) (now : Nat) (immediate : Bool) : Health :=
  let first : Nat := match h.before with
    | some (t, n) => if t = now then n else h.counter
    | none => h.counter
  { h.event immediate with before := some (now, first) }

/-- The grid point of R351 on one counter: every counter above 0 loses 1, in every state. -/
def Health.decrement (h : Health) : Health := { h with counter := h.counter - 1 }

/-- 600 s in base ticks (R351). -/
def decrementTicks : Nat := 56250000000

/-- The grid point of R351: every counter above 0 loses 1. -/
def Fe.faultDecrement (f : Fe) : Fe :=
  if f.sys.decDue ≤ f.tick then
    { f with sys := { f.sys with decDue := f.sys.decDue + decrementTicks,
                                 faults := Bank.mapVals {} (fun _ h => h.decrement) f.sys.faults } }
  else f

def HealthSt.code : HealthSt → Nat
  | .healthy => 0 | .suspect => 1 | .retired => 2

/-- The FE_FAULT word (R371). (DEDUCED, log entry 14) -/
def feFaultWord (kind cause num state counter : Nat) : Word :=
  BitVec.ofNat 64 (0x13 * 2 ^ 56 + kind % 256 * 2 ^ 40 + cause % 256 * 2 ^ 32 + num % 65536 * 2 ^ 16
    + state % 256 * 2 ^ 8 + counter % 256)

/-- The side whose lease is current: 0 none, 1 A, 2 B (R377).  The AO tick of expiry still counts (R145). -/
def Fe.holder (f : Fe) : Nat :=
  match f.sys.leaseEnd with
  | some e => if f.ao ≤ e then f.get O.leaseHolder else 0
  | none => 0

/-- The merger discards: no current lease, or no first commanded mark of the new holder yet (R380).
(DEDUCED, log entry 14) -/
def Fe.discards (f : Fe) : Bool := f.sys.discard || f.holder == 0

/-- Queue a class-0 word on uplink 0 of a side (R371). -/
def Fe.sendC0 (f : Fe) (side : Nat) (w : Word) : Fe :=
  let x := f.side side
  f.setSide side { x with up0 := { x.up0 with tx := { x.up0.tx with c0 := x.up0.tx.c0 ++ [w] } } }

/-- Queue a word on uplink 0 of the leased side, or of both sides when no lease is current (R371). -/
def Fe.sendFault (f : Fe) (w : Word) : Fe :=
  match f.holder with
  | 1 => f.sendC0 0 w
  | 2 => f.sendC0 1 w
  | _ => (f.sendC0 0 w).sendC0 1 w

/-- Enter one entry into the front-end fault log, 32 entries, and send it as FE_FAULT (R371). -/
def Fe.post (f : Fe) (kind num cause : Nat) : Fe :=
  let h := f.health kind num
  let e : FeLogEntry :=
    { number := f.sys.nextLog, second := f.get O.currentSecond, cause := cause, kind := kind, res := num,
      counter := h.counter, state := h.st.code }
  let l := f.sys.log ++ [e]
  let f := { f with sys := { f.sys with log := l.drop (l.length - 32), nextLog := f.sys.nextLog + 1 } }
  f.sendFault (feFaultWord kind cause num h.st.code h.counter)

/-- A fault event against a front-end resource (R351): counted, logged, and logged again as SUSPECT when it becomes so.  A
decrement that is due applies first (R372). -/
def Fe.faultEvent (f : Fe) (kind num cause : Nat) (immediate : Bool := false) : Fe :=
  let f := f.faultDecrement
  let h := f.health kind num
  match h.st with
  | .retired => f
  | st =>
    let h' := h.eventAt f.tick immediate
    let f := { f with sys := { f.sys with faults := Bank.set {} f.sys.faults (resKey kind num) h' } }
    let f := f.post kind num cause
    if st = .healthy ∧ h'.st = .suspect then f.post kind num 0x10 else f

/-! ## Group status words (R87, R88) -/

/-- Some slot of the group is stale. -/
def Fe.anyStale (f : Fe) (g : Nat) : Bool := (List.range 17).any fun s => (f.slot g s).stale

/-- A group status word (R87). -/
def statusWord (g s v : Nat) (awake stale fed frozen : Bool) (t : Nat) : Word :=
  BitVec.ofNat 64 (4 * 2 ^ 61 + g * 2 ^ 57 + s * 2 ^ 52 + v % 256 * 2 ^ 44 + b1 awake * 2 ^ 43 + b1 stale * 2 ^ 42
    + b1 fed * 2 ^ 41 + b1 frozen * 2 ^ 40 + t % 2 ^ 40)

/-- Emit a group event: 0 not awake at the mark, 1 wake complete, 2 sleep entered, 3 lock lost (R88). -/
def Fe.groupEvent (f : Fe) (g v t : Nat) : Fe :=
  f.pushSorter g
    { epoch := f.epoch.idx, time := t, rank := 1, tie := g * 32 + 31, released := false,
      word := statusWord g 31 v (decide ((f.group g).pwr = .awake)) (f.anyStale g) false (f.frozen g) t }

/-- Emit the slot report of slot `s` (R88). -/
def Fe.slotReport (f : Fe) (g s : Nat) : Fe :=
  let x := f.slot g s
  f.pushSorter g
    { epoch := f.epoch.idx, time := 0, rank := 1, tie := g * 32 + s, released := false,
      word := statusWord g s x.gen true x.stale (f.fedNow g s) (f.frozen g) 0 }

/-! ## Horizons (R75, R83) -/

/-- The lowest key (epoch, time) held upstream of the sorter of group `g`: in a derandomiser, in an edge that awaits its
trailing edge (with the least walk correction it can get), in an open report. -/
def Fe.upstream (f : Fe) (g : Nat) : List (Nat × Nat) :=
  (List.range 16).flatMap fun k =>
    let x := f.chan (g * 16 + k)
    (x.derand.map fun h => (h.epoch, h.time))
    ++ (match x.cand with
        | none => []
        | some c =>
          let r := f.settle c.epoch (c.raw (match c.walk with | none => 0 | some w => walkMin w))
          [(r.1, r.2.1)])
    ++ (match x.report with | none => [] | some r => [(r.epoch, r.time)])

/-- The first term of the group horizon: the chip's current time less 188 base ticks; `none` before that time. -/
def Fe.lagTime (f : Fe) : Option (Nat × Nat) :=
  if f.now < 188 then none else some (instantIn f.epochs (f.now * 8192 - 1540096))

def minKey (a b : Nat × Nat) : Nat × Nat := if keyOf a.1 a.2 ≤ keyOf b.1 b.2 then a else b

/-- The group horizon H_g (R75); `none` while the lag of 188 base ticks has not passed since reset.
(DEDUCED, log entry 13) -/
def Fe.horizon (f : Fe) (g : Nat) : Option (Nat × Nat) :=
  f.lagTime.map fun h => (f.upstream g).foldl minKey h

/-- Whether (epoch, time) is at or below the horizon of group `g`. -/
def Fe.atOrBelow (f : Fe) (g e t : Nat) : Bool :=
  match f.horizon g with
  | none => false
  | some h => decide (keyOf e t ≤ keyOf h.1 h.2)

end Sys2Proof.Machine
end

