-- ==== Sys2Proof/Machine/FeInputs.lean ====
section
/-! DEFINITION. Front-end inputs and discriminators (chapter 02) and the conversion of an edge (chapter 03): what a
crossing, a trailing edge and a change of the input switch do. -/

namespace Sys2Proof.Machine

/-! ## Edges -/

/-- Count one event in a channel's scaler when its source in force is `src` (R89). -/
def Fe.scale (f : Fe) (c src : Nat) : Fe :=
  if f.scaler.source = src then
    let x := f.chan c
    f.setChan c { x with scaler := x.scaler + 1 }
  else f

/-- A slot's histogram is full: it stops counting, the computation of its table starts with its N, and a new histogram
begins (R49). -/
def Fe.histogramFull (f : Fe) (g s : Nat) : Fe :=
  let x := f.slot g s
  if f.frozen g ∨ x.total < f.histN then f
  else f.setSlot g s { x with computing := some (f.get O.histogramExponent, x.hist), hist := [], total := 0 }

/-- One edge into a slot's histogram, unless the group is frozen or the slot histograms nothing (R48, R53).  The edge after
the N-th begins a new histogram (R49).  `real` edges count toward the rate floor (R54). -/
def Fe.histogram (f : Fe) (g s code : Nat) (real : Bool) : Fe :=
  if f.frozen g ∨ f.histograms g s = false then f
  else
    let f := f.histogramFull g s
    let x := f.slot g s
    f.setSlot g s
      { x with hist := Bank.upd 0 x.hist code (· + 1), total := x.total + 1, edges := x.edges + (if real then 1 else 0) }

/-- The time-quality flag at a leading edge (R57), but for the condition of R43. -/
def Fe.quality (f : Fe) (g s : Nat) : Bool :=
  let x := f.slot g s
  decide (x.gen = 0) || x.stale || decide (f.kind ≠ 1) || decide (f.get O.baseSource = 3) || f.crystalQ

/-- Whether a candidate's prescale counter lets it pass (R68). -/
def Chan.keeps (x : Chan) : Bool := decide (x.prescale % 2 ^ x.k = 0)

/-- A converted edge that is a candidate hit: rate reduction (R68, R69), then it awaits its trailing edge.  R68 does not say
whether the prescale counter is compared before or after it advances: it is compared before, so the first candidate after a
change of k is kept. (DESIGN CHOICE, log entry 50) -/
def Fe.candidate (f : Fe) (c beat code : Nat) : Fe :=
  let g := c / 16
  let s := f.slotOf c
  let f := f.scale c 1
  let x := f.chan c
  let keep := x.keeps
  let x := { x with windowCount := x.windowCount + 1, prescale := x.prescale + 1, discHigh := true }
  if keep then
    let frac := (entryGet 16 (f.slot g s).inUse code + 8) / 16
    let cand : Cand :=
      { epoch := f.epoch.idx, lead := (f.now * 32 + beat) * 256 + code, coarse := f.inEpoch * 32 + beat, frac := frac,
        base := slotDelayOf g s + toSigned 16 (entryGet 16 f.offset c),
        walk := if bitAt f.walkEnable g then some (entryGet 1024 f.walk g) else none,
        quality := f.quality g s, prescaled := decide (0 < x.k) }
    f.setChan c { x with cand := some cand }
  else f.setChan c x

/-- The validation decision (R29): `valDelay` is the number of beats after the leading edge at which the validation
discriminator is first high. -/
def Fe.validated (f : Fe) (c : Nat) (valDelay : Option Nat) : Bool :=
  !f.validates c || (match valDelay with | none => false | some d => decide (d ≤ f.get O.validationWindow))

/-- A leading edge that the slot converts (R39, R48, R29). -/
def Fe.converted (f : Fe) (c beat code : Nat) (valDelay : Option Nat) : Fe :=
  let g := c / 16
  let s := f.slotOf c
  let f := f.setSlot g s { f.slot g s with lastEdge := some ((f.now * 32 + beat) * 256 + code, false) }
  let f := f.histogram g s code true
  let f := if f.chanMode c = 2 then f.setGroup g { f.group g with lastActive := f.ao } else f
  let f := f.scale c 0
  if f.validated c valDelay then f.candidate c beat code
  else f.setChan c { f.chan c with discHigh := true }

/-- 2.5 ns in fine ticks (R47). (DEDUCED, log entry 11) -/
def deadTime : Nat := 1920

/-- The discriminator of a channel is high though its edge gave no hit. -/
def Fe.discUp (f : Fe) (c : Nat) : Fe := f.setChan c { f.chan c with discHigh := true }

/-- A leading edge at the converter of an awake group (R47, R55). (DEDUCED, log entry 11) -/
def Fe.atConverter (f : Fe) (c beat code : Nat) (valDelay : Option Nat) : Fe :=
  let g := c / 16
  let s := f.slotOf c
  let now := (f.now * 32 + beat) * 256 + code
  match (f.slot g s).lastEdge with
  | some (t, pulser) =>
    if now < t + deadTime then
      let f := if pulser then
          (f.count O.pulserCollisions).lose c .collision f.epoch.idx (256 * (f.inEpoch * 32 + beat))
        else f.count O.doublePulseRejects g
      f.discUp c
    else if (f.chan c).discHigh then f
    else f.converted c beat code valDelay
  | none => if (f.chan c).discHigh then f else f.converted c beat code valDelay

/-- Preamplifier and discriminators of a slot are powered: not in OFF and SLEEP (R24), nor with no input or a channel in OFF
(R32-R34). -/
def Fe.slotPowered (f : Fe) (g s : Nat) : Bool := decide (2 ≤ f.sys.mode) && (f.slot g s).powered

/-- The mode allows crossings of the channel to be seen at all: ENABLED and not settling (R32), served by a working slot
(R36), the front-end observing (R61).  A crossing that R32 gates off (MASKED, or settling after OFF) counts no loss in a blank
either, though R34 counts every crossing of a blanked channel: it is gated before it can be lost. (DEDUCED, log entry 11) -/
def Fe.seesCrossing (f : Fe) (c : Nat) : Bool :=
  decide (f.sys.mode = 3) && decide (f.chanMode c = 2) && decide ((f.chan c).settleUntil = none) && f.live c

/-- Whether a discriminator pulse of a width in ps counts as a crossing at all (R46): none below 150 ps, every one of 250 ps
or more, and between them a free value decides. (DEDUCED, log entry 11) -/
def Fe.wideEnough (f : Fe) (widthPs : Nat) : Bool × Fe :=
  if widthPs < 150 then (false, f) else if widthPs < 250 then f.drawBool else (true, f)

/-- A crossing on a channel that sees crossings: lost in a blank (R34), in a group that wakes (R63, R64) or that it wakes
(R62), else at the converter.  The discriminator is high after it in each case (R55). -/
def Fe.seen (f : Fe) (c beat code : Nat) (valDelay : Option Nat) : Fe :=
  let g := c / 16
  let r := f.group g
  if (f.chan c).blankUntil.isSome then (f.loseNow c .blank).discUp c
  else match r.pwr with
    | .asleep =>
      if f.get O.groupPowerMode g = 2 then
        ((f.setGroup g { r with latch := true }).loseNow c .wake).discUp c
      else f.discUp c
    | .waking => (f.loseNow c (if r.lockLost then .lockLoss else .wake)).discUp c
    | .awake => f.atConverter c beat code valDelay

/-- A timing crossing on channel `c` (R28-R30, R34, R46, R47, R63, R64): `beat` within the base tick, raw code `code`.  The
width is judged first, so that a pulse too narrow makes no count of any kind, in a blank either (R46 against R34).  Where the
mask gates it off, the discriminator still goes high (R32, R55). (DEDUCED, log entry 11) -/
def Fe.crossing (f : Fe) (c beat code widthPs : Nat) (valDelay : Option Nat) : Fe :=
  if f.slotPowered (c / 16) (f.slotOf c) = false then f
  else
    let d := f.wideEnough widthPs
    if d.1 then (if d.2.seesCrossing c then d.2.seen c beat code valDelay else d.2.discUp c) else d.2

/-- The hit word of R87. -/
def hitWord (c : Nat) (prescaled pileup quality : Bool) (tot t : Nat) : Word :=
  BitVec.ofNat 64 (c * 2 ^ 53 + b1 prescaled * 2 ^ 52 + b1 pileup * 2 ^ 51 + b1 quality * 2 ^ 50 + tot % 1024 * 2 ^ 40
    + t % 2 ^ 40)

/-- The corrected time of a candidate whose time-over-threshold is `tot` (R41, R43): epoch, time, set to 0. -/
def Fe.hitTime (f : Fe) (x : Cand) (tot : Nat) : Nat × Nat × Bool :=
  f.settle x.epoch (x.raw (match x.walk with | none => 0 | some w => walkAt w tot))

/-- Write a hit into the derandomiser (R70, R71).  With 30 or 31 entries the write side may see it full; `reading` says
that the read of the oldest entry has started, and then the next-oldest is discarded in its place (R92).
(DESIGN CHOICE, log entry 12) -/
def Fe.derandWrite (f : Fe) (c : Nat) (h : HitEntry) (reading : Bool) : Fe :=
  let n := (f.chan c).derand.length
  let d : Bool × Fe := if 32 ≤ n then (true, f) else if 30 ≤ n then f.drawBool else (false, f)
  let f := d.2
  let x := f.chan c
  if d.1 then
    let i := if reading then 1 else 0
    match x.derand[i]? with
    | none => f.setChan c { x with derand := x.derand ++ [h] }
    | some old =>
      (f.setChan c { x with derand := x.derand.eraseIdx i ++ [h] }).lose c .overwrite old.epoch old.time
  else f.setChan c { x with derand := x.derand ++ [h] }

/-- The hit of a candidate leaves the channel with its time-over-threshold (R31, R41, R87). -/
def Fe.finishHit (f : Fe) (c tot ups : Nat) (reading : Bool) : Fe :=
  match (f.chan c).cand with
  | none => f
  | some x =>
    let r := f.hitTime x tot
    let w := hitWord c x.prescaled (decide (2 ≤ ups)) (x.quality || r.2.2) tot r.2.1
    let f := f.setChan c { f.chan c with cand := none }
    (f.derandWrite c { epoch := r.1, time := r.2.1, word := w } reading).scale c 2

/-- The time-over-threshold at an instant `fine` 256ths of a beat into the base tick (R31): the whole beats since the leading edge. -/
def Fe.totAt (f : Fe) (x : Cand) (fine : Nat) : Nat := min 1023 ((f.now * 8192 + fine - x.lead) / 256)

/-- The trailing edge on channel `c` (R31), `fine` 256ths of a beat into the base tick: `ups` upward crossings of the validation
discriminator since the leading edge (R30). -/
def Fe.trailing (f : Fe) (c fine ups : Nat) (reading : Bool) : Fe :=
  let x := f.chan c
  let f := f.setChan c { x with discHigh := false }
  match x.cand with
  | none => f
  | some k => f.finishHit c (f.totAt k fine) ups reading

/-- The time-over-threshold count reaches 1,023 beats (R31): the hit leaves though the discriminator is still high. -/
def Fe.totFull (f : Fe) (c beat ups : Nat) (reading : Bool) : Fe :=
  match (f.chan c).cand with
  | none => f
  | some k => if k.lead / 256 + 1023 ≤ f.now * 32 + beat then f.finishHit c 1023 ups reading else f

/-- A group stops, so that its derandomisers hold nothing and no edge awaits its trailing edge (R76): the hit of a waiting
edge leaves with a free time-over-threshold and a free pile-up flag, and every hit goes on to the sorter.
(DESIGN CHOICE, log entry 50) -/
def Fe.flushChan (f : Fe) (c : Nat) : Fe :=
  let f := match (f.chan c).cand with
    | none => f
    | some _ =>
      let d := f.drawNat
      d.2.finishHit c (d.1 % 1024) (d.1 / 1024 % 2 * 2) false
  let x := f.chan c
  x.derand.foldl (fun f h => f.pushSorter (c / 16)
    { epoch := h.epoch, time := h.time, rank := 3, tie := c, word := h.word, released := false })
    (f.setChan c { x with derand := [] })

def Fe.flushGroup (f : Fe) (g : Nat) : Fe := (List.range 16).foldl (fun f k => f.flushChan (g * 16 + k)) f

/-- A report whose count is 127 closes (R74). -/
def Fe.reportFull (f : Fe) (c : Nat) : Fe :=
  match (f.chan c).report with
  | some r => if 127 ≤ r.count then f.closeReport c false else f
  | none => f

/-- DC input current above 500 uA sets the channel's baseline-saturated bits (R23, R38). -/
def Fe.baseline (f : Fe) (c microAmps : Nat) : Fe :=
  let x := f.chan c
  let sat := decide (500 < microAmps)
  f.setChan c { x with satNow := sat, satSince := x.satSince || x.satNow || sat }

/-! ## The input switch (R33-R36) -/

/-- Blank a channel for `n` base-tick periods (R34).  An edge that awaits its trailing edge is discarded as one blank
loss; a channel in mode OFF is not blanked. -/
def Fe.blankChan (f : Fe) (c n : Nat) : Fe :=
  if f.chanMode c = 0 then f
  else
    let x := f.chan c
    let f := f.setChan c { x with cand := none, discHigh := false, blankUntil := some (f.tick + n) }
    match x.cand with
    | none => f
    | some k => f.lose c .blank k.epoch (k.coarse / 32 * 8192)

/-- A slot whose table has stood unused since a tick is stale: for longer than `StaleTime` (0: never), unless a host-loaded
table was swapped in meanwhile (R48, R56). -/
def Fe.longUnserved (f : Fe) (x : Slot) (since : Option Nat) : Bool :=
  match since with
  | none => false
  | some t => decide (0 < f.get O.staleTime ∧ t + f.get O.staleTime * secTicks < f.tick) &&
      (match x.freshAt with | some u => decide (u < t) | none => true)

/-- Slot `s` starts to serve input `k`: its tables are kept when it last served the same input, else cleared (R35, R48). -/
def Fe.startServing (f : Fe) (g s k : Nat) : Fe :=
  let x := f.slot g s
  let same := decide (s ≠ 16) || decide (x.lastServed = some k)
  let x := if same then { x with hist := [], total := 0, stale := x.stale || f.longUnserved x x.unservedSince }
    else { x with hist := [], total := 0, edges := 0, table := none, gen := 0, shadow := none, older := none, computing := none,
                  stale := false, rejRun := 0 }
  f.setSlot g s { x with lastServed := some k, unservedSince := none, powered := decide (f.chanMode (g * 16 + k) ≠ 0) }

/-- 20 us and 200 us in base ticks (R34, R32). -/
def blankShort : Nat := 1875
def blankLong : Nat := 18750

/-- Set the assignment of group `g` to `b` (0-15, 255 none): slots change, and the channels concerned are blanked (R34).  Every
move of an input to slot 16 blanks for 20 us, also from an input whose channel is OFF; slot 16 is powered while it serves
none. -/
def Fe.moveSpare (f : Fe) (g b : Nat) : Fe :=
  let a := f.assigned g
  if a = b then f
  else
    let f := f.put O.spareAssignGroup b g
    let f :=
      if a < 16 then
        let own := f.slot g a
        (f.startServing g a a).blankChan (g * 16 + a) (if own.powered then blankShort else blankLong)
      else f
    if b < 16 then
      let f := f.setSlot g b { f.slot g b with powered := false, unservedSince := some f.tick }
      (f.startServing g 16 b).blankChan (g * 16 + b) blankShort
    else f.setSlot g 16 { f.slot g 16 with powered := true, unservedSince := some f.tick }

/-- A host write of `SpareAssign` (R33, R36, R38): from then on the assignment is the host's, also of a slot under test. -/
def Fe.writeSpareAssign (f : Fe) (g v : Nat) : Res Fe :=
  if v ≠ 255 ∧ 16 ≤ v then .error Abort.range
  else if (f.group g).assignLocked then .error (Abort.owned (ownerCode 1 (slotIx g (f.assigned g))))
  else
    let f := f.moveSpare g v
    .ok (f.setGroup g { f.group g with testing := none })

/-- The blank of a channel ends (R34). -/
def Fe.blankEnd (f : Fe) (c : Nat) : Fe :=
  match (f.chan c).blankUntil with
  | some t => if t ≤ f.tick then f.setChan c { f.chan c with blankUntil := none } else f
  | none => f

/-- The settling of a channel that left OFF ends (R32). -/
def Fe.settleEnd (f : Fe) (c : Nat) : Fe :=
  match (f.chan c).settleUntil with
  | some t => if t ≤ f.tick then f.setChan c { f.chan c with settleUntil := none } else f
  | none => f

/-! ## Channel tables (R37, R38) -/

/-- A change of one channel's mode code: leaving OFF starts the settling of R32; in OFF its slot is unpowered (R24, R32).
R37 names MASKED alone for a hit that waits for its trailing edge: set to OFF, the hit is delivered too.
(DESIGN CHOICE, log entry 50) -/
def Fe.modeChange (f : Fe) (old new c : Nat) : Fe :=
  let o := entryGet 8 old c % 4
  let n := entryGet 8 new c % 4
  let s := f.slotOf c
  if o = 0 ∧ n ≠ 0 then
    (f.setSlot (c / 16) s { f.slot (c / 16) s with powered := true }).setChan c
      { f.chan c with settleUntil := some (f.tick + blankLong) }
  else if o ≠ 0 ∧ n = 0 then
    (f.setSlot (c / 16) s { f.slot (c / 16) s with powered := false }).setChan c
      { f.chan c with settleUntil := none, blankUntil := none, discHigh := false }
  else f

/-- Write `ChannelMode` whole (R38): a table that holds mode 0b11 anywhere is refused. -/
def Fe.writeChannelMode (f : Fe) (v : Nat) : Res Fe :=
  if (List.range 256).any fun c => entryGet 8 v c % 4 = 3 then .error Abort.range
  else
    let old := f.get O.channelMode
    .ok ((List.range 256).foldl (fun f c => f.modeChange old v c) (f.put O.channelMode v))

/-! ## Status objects -/

/-- `BaselineStatus` (R38).  A saturation that lasts past a read counts as one since that read. (DEDUCED, log entry 11) -/
def Fe.baselineStatus (f : Fe) : Nat :=
  (List.range 256).foldl (fun v c =>
    let x := f.chan c
    entrySet 8 v c (b1 x.satNow + 2 * b1 (x.satNow || x.satSince))) 0

/-- Reading `BaselineStatus` clears bit 1 of every entry (R38).  A READ_AT of part of the table is a read of it and clears the
whole. (DESIGN CHOICE, log entry 50) -/
def Fe.clearBaseline (f : Fe) : Fe :=
  { f with chans := Bank.mapVals {} (fun _ x => { x with satSince := false }) f.chans }

/-- `ChannelLive` (R38). -/
def Fe.channelLive (f : Fe) : Nat := (List.range 256).foldl (fun v c => v + b1 (f.live c) * 2 ^ c) 0

/-- The pin IN of a channel: tied to analogue ground through 1 kOhm, or held at the trim voltage in mV (R24, R25). -/
inductive InPin where
  | ground
  | trim (milliVolts : Nat)
  deriving DecidableEq, Repr

/-- The state of the pin IN of a channel (R24). -/
def Fe.inPin (f : Fe) (c : Nat) : InPin :=
  if f.sys.mode < 2 ∨ f.chanMode c = 0 then .ground else .trim (10 * entryGet 8 (f.get O.biasTrim) c)

/-- Some channel of the group is blanking (R38). -/
def Fe.blanking (f : Fe) (g : Nat) : Bool := (List.range 16).any fun k => (f.chan (g * 16 + k)).blankUntil.isSome

/-- `SpareStatus` of a group (R38). -/
def Fe.spareStatus (f : Fe) (g : Nat) : Nat :=
  let r := f.group g
  r.retired % 2 ^ 17 + b1 (decide (f.assigned g < 16)) * 2 ^ 17 + b1 r.assignLocked * 2 ^ 18 + b1 (f.blanking g) * 2 ^ 19

end Sys2Proof.Machine
end

