-- ==== Sys2Proof/Machine/FeTiming.lean ====
section
/-! DEFINITION. Front-end time measurement and Cullet calibration (chapter 03): epochs, tables, the pulser and group
power; with the scaler intervals and the calibration records that epochs drive (R89, R90). -/

namespace Sys2Proof.Machine

/-! ## Cullet tables (R49-R52, R90) -/

/-- The entries T[c] of R49 from a histogram, 16 bits each: `s` is S(c - 1). -/
def tableFrom (h : Bank Nat) (n : Nat) : Nat → Nat → Nat → Nat
  | 0, _, _ => 0
  | k + 1, c, s =>
    let hc := Bank.get 0 h c
    ((2 * s + hc) * 2 ^ 11 + 2 ^ (n - 1)) / 2 ^ n + tableFrom h n k (c + 1) (s + hc) * 2 ^ 16

/-- The table of a histogram with N = 2^n (R49). -/
def culletTable (h : Bank Nat) (n : Nat) : Nat := tableFrom h n 256 0 0

/-- The widest bin's count. -/
def widestBin (h : Bank Nat) : Nat := h.foldl (fun m p => max m p.2) 0

/-- The number of empty bins (R50). -/
def emptyBins (h : Bank Nat) : Nat := 256 - h.length

/-- Whether a computed table is rejected (R50). -/
def culletRejects (h : Bank Nat) (n : Nat) : Bool := decide (2 ^ n < widestBin h * 32) || decide (16 < emptyBins h)

/-- A table for the shadow buffer of a slot takes the place of the one there; that one, when it waited since before this base
tick, still swaps at a mark of this tick (R51). -/
def Slot.shade (x : Slot) (now : Nat) (sh : Shadow) : Slot :=
  { x with shadow := some sh,
           older := match x.shadow with | some o => if o.ready < now then some o else x.older | none => none }

/-- The table that a mark of this base tick swaps: one accepted before this tick (R51). -/
def Slot.waiting (x : Slot) (now : Nat) : Option Shadow :=
  match x.shadow with
  | some sh => if sh.ready < now then some sh else x.older
  | none => none

/-- The shadow buffer after such a swap. -/
def Slot.swapped (x : Slot) (now : Nat) : Slot :=
  { x with older := none, shadow := match x.shadow with | some sh => if sh.ready < now then none else some sh | none => none }

/-- A table computation ends: rejected, or accepted into the shadow buffer (R50, R51), by the N of its own histogram. -/
def Fe.tableComputed (f : Fe) (g s : Nat) : Fe :=
  let x := f.slot g s
  match x.computing with
  | none => f
  | some (n, h) =>
    if f.frozen g then f.setSlot g s { x with computing := none }
    else if culletRejects h n then
      let y := { x with computing := none, lastRejected := true, rejects := satAdd 16 x.rejects 1 }
      if x.rejRun = 3 then (f.setSlot g s { y with rejRun := 0 }).faultEvent 0x10 (slotIx g s) 0x09
      else f.setSlot g s { y with rejRun := x.rejRun + 1 }
    else f.setSlot g s
      (({ x with computing := none, lastRejected := false, rejRun := 0 } : Slot).shade f.now
        { table := culletTable h n, loaded := false, widest := (widestBin h * 2 ^ 12 + 2 ^ (n - 1)) / 2 ^ n,
          empty := emptyBins h, ready := f.now })

/-- A loaded table is non-decreasing (R52); its range is the object's check. -/
def monotone (t : Nat) : Bool := (List.range 255).all fun i => entryGet 16 t i ≤ entryGet 16 t (i + 1)

/-- A write of `CulletTableData` (R52): into the shadow of the slot that serves the selected channel. -/
def Fe.loadTable (f : Fe) (v : Nat) : Res Fe :=
  let c := f.get O.culletTableSelect
  let g := c / 16
  let s := f.slotOf c
  if f.live c = false then .error (Abort.owned (ownerCode 1 (slotIx g s)))
  else if monotone v = false then .error Abort.range
  else
    let sh : Shadow := { table := v, loaded := true, widest := 0, empty := 0, ready := f.now }
    .ok (f.setSlot g s ((f.slot g s).shade f.now sh))

/-- A read of `CulletTableData`: the table in use (R66). -/
def Fe.readTable (f : Fe) : Res Nat :=
  let c := f.get O.culletTableSelect
  if f.live c = false then .error (Abort.owned (ownerCode 1 (slotIx (c / 16) (f.slotOf c))))
  else .ok (f.slot (c / 16) (f.slotOf c)).inUse

/-- One step of the CRC-16 of R90. -/
def crc16Bit (c : Nat) (b : Bool) : Nat :=
  let top := decide (2 ^ 15 ≤ c)
  let sh := c * 2 % 2 ^ 16
  if top != b then sh ^^^ 0x1021 else sh

/-- CRC-16 over bytes, most significant bit of each first (R90). -/
def crc16 (bs : List Nat) : Nat :=
  bs.foldl (fun c b => (List.range 8).foldl (fun c i => crc16Bit c (bitAt b (7 - i))) c) 0xFFFF

/-- The peak deviation of a table from the nominal table (R90). -/
def peakDeviation (t : Nat) : Nat :=
  min 2047 ((List.range 256).foldl (fun m c => max m ((entryGet 16 t c : Int) - (16 * c + 8 : Nat)).natAbs) 0)

/-- The calibration record of R90. -/
def calibrationRecord (c gen : Nat) (sh : Shadow) : Word :=
  BitVec.ofNat 64 (6 * 2 ^ 61 + c * 2 ^ 53 + gen * 2 ^ 45 + b1 sh.loaded * 2 ^ 44 + sh.widest % 2 ^ 12 * 2 ^ 32
    + sh.empty % 32 * 2 ^ 27 + peakDeviation sh.table * 2 ^ 16 + crc16 (toBytes 512 sh.table))

/-- The next table generation: 255 is followed by 1 (R51). -/
def nextGen (g : Nat) : Nat := if g = 255 then 1 else g + 1

/-- Swap in a table that waited in shadow since before this base tick (R51), with its record (R90).  R90 does not say which
channel the record of a slot that serves none names: the model names the input it last served. (DESIGN CHOICE, log entry 50) -/
def Fe.swapSlot (f : Fe) (g s : Nat) : Fe :=
  let x := f.slot g s
  match x.waiting f.now with
  | none => f
  | some sh =>
    let gen := nextGen x.gen
    let f := f.setSlot g s { x.swapped f.now with
      table := some sh.table, gen := gen, stale := false, freshAt := if sh.loaded then some f.tick else none }
    if f.get O.calibrationRecords = 1 then
      let c := match f.servedBy g s with
        | some c => c
        | none => g * 16 + x.lastServed.getD s % 16
      { f with class3 := f.class3 ++ [calibrationRecord c gen sh] }
    else f

/-! ## The rate floor and the pulser (R54, R55) -/

/-- Choose the slots the pulser feeds in the epoch that begins, and start its edge counts afresh (R54).  At the first commanded
mark no epoch has just ended (R44), and R54 does not say what is compared: the edges histogrammed since reset are.
(DESIGN CHOICE, log entry 50) -/
def Fe.feedSlot (f : Fe) (g s : Nat) : Fe :=
  let x := f.slot g s
  let below := f.histograms g s && decide (x.edges < f.get O.rateFloor)
  f.setSlot g s { x with fed := below, edges := 0 }

/-- The fed slots of a group. (DEDUCED, log entry 11) -/
def Fe.fedSlots (f : Fe) (g : Nat) : List Nat := (List.range 17).filter fun s => f.fedNow g s

/-- The discriminator of the channel a slot serves is high. -/
def Fe.slotHigh (f : Fe) (g s : Nat) : Bool :=
  match f.servedBy g s with | none => false | some c => (f.chan c).discHigh

/-- Base ticks between two pulses of a pulser at its average rate of 2^k kHz (R54). -/
def Fe.pulserPeriod (f : Fe) : Nat := msTicks / 2 ^ f.get O.pulserRate

/-- A pulse of a group's pulser at an instant (R54, R55), round-robin to the next fed slot.  The spec does not say what
becomes of a pulse that may not be injected (the discriminator high, a converted edge within 2.5 ns): it is dropped, and the
same slot has the next turn. (DESIGN CHOICE, log entry 50) -/
def Fe.pulse (f : Fe) (g beat code : Nat) : Fe :=
  let r := f.group g
  let fed := f.fedSlots g
  let s := (fed.find? fun s => r.pulserNext ≤ s).getD (fed.headD 0)
  let x := f.slot g s
  let now := (f.now * 32 + beat) * 256 + code
  let close : Bool := match x.lastEdge with | some (t, _) => decide (now < t + deadTime) | none => false
  if f.slotHigh g s ∨ close then f
  else
    let f := f.setGroup g { r with pulserNext := s + 1 }
    (f.setSlot g s { x with lastEdge := some (now, true) }).histogram g s code false

/-- A group's pulser emits once its interval has passed, in an awake group that is not frozen and has a fed slot (R53, R54).
Each interval is free, from 1 tick to twice the average period. (DESIGN CHOICE, log entry 50) -/
def Fe.inject (f : Fe) (g beat code : Nat) : Fe :=
  let r := f.group g
  if r.pwr ≠ .awake ∨ f.tick < r.pulserDue ∨ f.frozen g ∨ f.fedSlots g = [] then f
  else
    let d := f.drawNat
    (d.2.setGroup g { r with pulserDue := f.tick + 1 + d.1 % (2 * f.pulserPeriod - 1) }).pulse g beat code

/-- A pulse that no command has placed within its base tick comes at a free phase (R54). -/
def Fe.injectFree (f : Fe) (g : Nat) : Fe :=
  if (f.group g).pwr = .awake ∧ (f.group g).pulserDue ≤ f.tick then
    let d := f.drawNat
    d.2.inject g (d.1 % 32) (d.1 / 32 % 256)
  else f

/-! ## Scalers (R89, R93) -/

/-- The base ticks of an interval code (R93). -/
def scalerTicks (code : Nat) : Nat :=
  ([1, 2, 4, 5, 8, 10, 20, 25, 40, 50, 100, 125, 200, 250, 500, 1000].getD (code % 16) 1000) * 93750

/-- One channel's interval ends: its record, its `ScalerRead` entry, its history.  The spec gives class 3 no buffer and no
discard: records made while no class-3 cell may leave wait in a queue without bound. (DESIGN CHOICE, log entry 50) -/
def Fe.scalerEndChan (f : Fe) (irr : Bool) (c : Nat) : Fe :=
  let x := f.chan c
  let n := f.scaler.exponent
  let hist := (x.scaler :: x.scalerHist).take (2 ^ n)
  let irrs := (irr :: x.scalerIrr).take (2 ^ n)
  let sum := min (hist.foldl (· + ·) 0) (2 ^ 36 - 1)
  let w : Word := BitVec.ofNat 64 (5 * 2 ^ 61 + c * 2 ^ 53 + n * 2 ^ 49 + f.scaler.source * 2 ^ 47
    + b1 (irrs.any id) * 2 ^ 46 + f.scaler.index % 1024 * 2 ^ 36 + sum)
  let keep := decide (1 < 2 ^ n)
  let f := f.setChan c
    { x with scaler := 0, scalerHist := if keep then hist else [], scalerIrr := if keep then irrs else [] }
  let f := f.put O.scalerRead (entrySet 32 (f.get O.scalerRead) c (min x.scaler (2 ^ 32 - 1)))
  if f.scaler.enable = 1 ∧ f.live c then { f with class3 := f.class3 ++ [w] } else f

/-- The running interval ends now; `irr` says that its length is irregular, or that no mark has executed (R89). -/
def Fe.scalerEnd (f : Fe) (irr : Bool) : Fe :=
  let f := (List.range 256).foldl (fun f c => f.scalerEndChan irr c) f
  let i := if f.scaler.index = 1000 then 0 else f.scaler.index + 1
  { f with scaler := { f.scaler with start := f.now, index := i } }

/-- The scaler interval's nominal length has passed (R89). -/
def Fe.scalerDue (f : Fe) : Bool := decide (f.scaler.start + scalerTicks f.scaler.interval ≤ f.now)

/-- A mark ends the running interval, starts interval 0 and takes up changed settings, which clear every sum (R89, R93). -/
def Fe.scalerMark (f : Fe) : Fe :=
  let sc := f.scaler
  let len := f.now - sc.start
  let f := if 0 < len then
      f.scalerEnd (!sc.marked || decide (len ≠ scalerTicks sc.interval)) else f
  let new : Scaler := { interval := f.get O.scalerInterval, exponent := f.get O.scalerExponent,
                        source := f.get O.scalerSource, enable := f.get O.scalerEnable, start := f.now, index := 0,
                        marked := true }
  let same := decide (new.interval = sc.interval ∧ new.exponent = sc.exponent ∧ new.source = sc.source ∧
    new.enable = sc.enable)
  let f := { f with scaler := new }
  if same then f
  else { f with chans := Bank.mapVals {} (fun _ x => { x with scaler := 0, scalerHist := [], scalerIrr := [] }) f.chans }

/-! ## Epochs (R42-R45, R51, R54, R60, R78, R88) -/

/-- The second-mark word of R87. -/
def secondMarkWord (second : Nat) (flywheel crystal first copy : Bool) : Word :=
  BitVec.ofNat 64 (2 ^ 61 + second % 2 ^ 32 * 2 ^ 29 + b1 flywheel * 2 ^ 28 + b1 crystal * 2 ^ 27 + b1 first * 2 ^ 26
    + b1 copy * 2 ^ 25)

/-- Every slot number of the part, as (group, slot). -/
def allSlots : List (Nat × Nat) := (List.range 16).flatMap fun g => (List.range 17).map fun s => (g, s)

/-- The status words of an executed second mark for one group (R88). -/
def Fe.markStatus (f : Fe) (g : Nat) : Fe :=
  if (f.group g).pwr = .awake then
    (List.range 17).foldl (fun f s => match f.servedBy g s with
      | some c => if f.live c then f.slotReport g s else f
      | none => f) f
  else f.groupEvent g 0 0

/-- The epochs that words still held in the hit path name, and that of the last promise. -/
def Fe.heldEpochs (f : Fe) : List Nat :=
  f.promise.1 :: (f.merger.map fun x => x.epoch) ++ (f.secondWords.map fun p => p.1)
  ++ (List.range 16).flatMap fun g => ((f.group g).words.map fun x => x.epoch) ++ (f.upstream g).map fun p => p.1

/-- The epochs kept when `e` begins: itself and the last 16 (R43), and every one since the oldest that a held word names (R83). -/
def Fe.keepEpochs (f : Fe) (e : EpochRec) : List EpochRec :=
  let oldest := f.heldEpochs.foldl min e.idx
  (e :: f.epochs).filter fun r => decide (e.idx < r.idx + 17) || decide (oldest ≤ r.idx)

/-- The length of the epoch that ends is reported (R44). -/
def Fe.noteLength (f : Fe) : Fe := if f.epoch.idx = 0 then f else f.put O.lastEpochLength (f.inEpoch * 32 % 2 ^ 32)

/-- The corrections pending take effect (R60). -/
def Fe.takeCorrections (f : Fe) : Fe :=
  { f with offset := f.get O.timeOffset, walk := f.get O.walkTable, walkEnable := f.get O.walkEnable }

/-- The tables swap (R51), then the floor of each slot is checked (R54). -/
def Fe.swapTables (f : Fe) : Fe :=
  allSlots.foldl (fun f p => f.feedSlot p.1 p.2) (allSlots.foldl (fun f p => f.swapSlot p.1 p.2) f)

/-- The new epoch with its second-mark word (R42, R44, R87). -/
def Fe.beginEpoch (f : Fe) (second kind : Nat) : Fe :=
  let crystal := decide (f.get O.baseSource = 3)
  let first := kind == 1 && !f.seenMark
  let e : EpochRec := { idx := f.epoch.idx + 1, start := f.now, second := second % 2 ^ 32 }
  let f := { f with epochs := f.keepEpochs e, kind := kind, seenMark := f.seenMark || kind == 1,
                    crystalQ := f.crystalQ && !(kind == 1 && !crystal),
                    secondWords := f.secondWords ++
                      [(e.idx, secondMarkWord second (kind == 2) crystal first false)] }
  (f.put O.currentSecond e.second).put O.epochState kind

/-- An epoch begins at this base tick (R42, R44): `kind` 1 commanded, 2 flywheel. -/
def Fe.startEpoch (f : Fe) (second kind : Nat) : Fe :=
  (List.range 16).foldl (fun f g => f.markStatus g)
    (f.noteLength.scalerMark.takeCorrections.swapTables.beginEpoch second kind)

/-- The execution beat of the oldest second mark that is due (R42).  Every base tick begins with the marks due in it
(`Fe.tickOn`), so an edge of that tick belongs to the new epoch (R43). -/
def Fe.executeMark (f : Fe) : Fe :=
  match f.marks with
  | [] => f
  | (at', second) :: rest => if at' ≤ f.now then ({ f with marks := rest }).startEpoch second 1 else f

/-- Insert a mark in the order of execution. -/
def insertMark (m : Nat × Nat) : List (Nat × Nat) → List (Nat × Nat)
  | [] => [m]
  | x :: xs => if m.1 < x.1 then m :: x :: xs else x :: insertMark m xs

/-- A SECOND_MARK word, the `pos`-th of its cell, whose marker began `age` base ticks ago, on the leased downlink
(R42, R129, R130). -/
def Fe.takeMark (f : Fe) (side second age pos : Nat) : Fe :=
  if f.holder = side + 1 ∧ f.baseRuns then { f with marks := insertMark (f.now - age + 64 + pos, second % 2 ^ 32) f.marks }
  else f

/-- The beat at which a flywheel epoch starts, in base ticks of the epoch (R44): 3,003,000,000 beats after a commanded
mark, 3,000,000,000 after a flywheel start. -/
def flywheelTicks (kind : Nat) : Nat := if kind = 2 then 93750000 else 93843750

/-- A flywheel epoch starts, unless a mark executes at this very beat (R44).  The base tick in which it is due begins with it
(`Fe.tickOn`). -/
def Fe.flywheel (f : Fe) : Fe :=
  if f.kind ≠ 0 ∧ flywheelTicks f.kind ≤ f.inEpoch ∧ (f.marks.all fun m => decide (f.now < m.1)) = true then
    (f.startEpoch (f.epoch.second + 1) 2).count O.flywheelEpochs
  else f

/-- The marks due at the present base tick execute, and a flywheel epoch starts at its beat (R42-R44). -/
def Fe.epochsDue (f : Fe) : Fe := (f.marks.foldl (fun f _ => f.executeMark) f).flywheel

/-! ## Configuration writes -/

/-- A write of `Freeze` (R53): clearing a group's bit discards its partial histograms.  Setting it discards a table
computation that is running: the spec says that it stops and not whether it goes on later. (DESIGN CHOICE, log entry 50) -/
def Fe.writeFreeze (f : Fe) (v : Nat) : Fe :=
  let old := f.get O.freeze
  let f := f.put O.freeze v
  allSlots.foldl (fun f p =>
    let x := f.slot p.1 p.2
    if bitAt old p.1 && !bitAt v p.1 then f.setSlot p.1 p.2 { x with hist := [], total := 0 }
    else if !bitAt old p.1 && bitAt v p.1 then f.setSlot p.1 p.2 { x with computing := none }
    else f) f

/-- A write of `HistogramExponent`: a change discards every partial histogram; shadows are kept (R66). -/
def Fe.writeExponent (f : Fe) (v : Nat) : Fe :=
  if v = f.get O.histogramExponent then f
  else
    let f := f.put O.histogramExponent v
    { f with slots := Bank.mapVals {} (fun _ x => { x with hist := [], total := 0 }) f.slots }

/-! ## Group power (R61-R64) -/

/-- A sleeping group starts to wake (R62); awake and waking groups are left alone (R63), and none wakes while STANDBY is due
(R61).  A group that never slept before has slept since reset. -/
def Fe.wakeGroup (f : Fe) (g : Nat) : Fe :=
  let r := f.group g
  if f.sys.mode = 3 ∧ f.sys.standbyDue = false ∧ r.pwr = .asleep then
    f.setGroup g { r with pwr := .waking, wakeStart := f.tick, pll := false, dll := false, loaded := false,
                          latch := false, sleepReq := false, lockLost := false,
                          sleptAt := some (r.sleptAt.getD f.sys.resetTick) }
  else f

/-- A group stops: its last hits go on (R76, R92), PLL, DLL, histograms and pulser stop, tables are kept (R61); group event
0x02 (R88). -/
def Fe.sleepGroup (f : Fe) (g : Nat) : Fe :=
  let f := f.flushGroup g
  let r := f.group g
  (f.setGroup g { r with pwr := .asleep, pll := false, dll := false, loaded := false, latch := false,
                         sleepReq := false, lockLost := false, sleptAt := some (r.sleptAt.getD f.tick) }).groupEvent g 2 (f.inEpoch * 8192)

/-- A sleep request (R61, R63): ignored for ALWAYS groups, held for a waking group. -/
def Fe.requestSleep (f : Fe) (g : Nat) : Fe :=
  let r := f.group g
  if f.get O.groupPowerMode g = 0 then f
  else match r.pwr with
    | .asleep => f
    | .waking => f.setGroup g { r with sleepReq := true }
    | .awake => f.sleepGroup g

/-- The groups of a mask. -/
def maskGroups (m : Nat) : List Nat := (List.range 16).filter fun g => bitAt m g

def Fe.wakeMask (f : Fe) (m : Nat) : Fe := (maskGroups m).foldl (fun f g => f.wakeGroup g) f
def Fe.sleepMask (f : Fe) (m : Nat) : Fe := (maskGroups m).foldl (fun f g => f.requestSleep g) f

/-- A write of `GroupRequest` (R66): one group in both masks is refused. -/
def Fe.writeGroupRequest (f : Fe) (v : Nat) : Res Fe :=
  if andBits (v % 2 ^ 16) (v / 2 ^ 16) ≠ 0 then .error Abort.range
  else .ok ((f.wakeMask (v % 2 ^ 16)).sleepMask (v / 2 ^ 16 % 2 ^ 16))

/-- A waking group forgets a sleep request, but not the one of a STANDBY that is due (R61, R63). -/
def Fe.keepAwake (f : Fe) (g : Nat) : Fe :=
  if f.sys.standbyDue then f else f.setGroup g { f.group g with sleepReq := false }

/-- A change of a group's power mode (R66): an ALWAYS group never sleeps while observing (R61). -/
def Fe.writePowerMode (f : Fe) (g v : Nat) : Fe :=
  let f := f.put O.groupPowerMode v g
  if v = 0 then (f.keepAwake g).wakeGroup g else f

/-- The always-on domain samples the activity latch of a sleeping AUTO group (R62). -/
def Fe.sampleActivity (f : Fe) (g : Nat) : Fe :=
  if (f.group g).latch ∧ f.get O.groupPowerMode g = 2 then f.wakeGroup g else f

def Fe.pllLocked (f : Fe) (g : Nat) : Fe :=
  let r := f.group g
  if r.pwr = .waking then f.setGroup g { r with pll := true } else f

/-- The DLL declares lock and the coarse counter is loaded from the chip counter (R62 steps 4 and 5). -/
def Fe.dllLocked (f : Fe) (g : Nat) : Fe :=
  let r := f.group g
  if r.pwr = .waking ∧ r.pll then f.setGroup g { r with dll := true, loaded := true, lockLost := false } else f

/-- The slots of a group that slept longer than `StaleTime` are marked stale (R56). -/
def Fe.markStale (f : Fe) (g : Nat) : Fe :=
  let since := (f.group g).sleptAt
  (List.range 17).foldl (fun f s =>
    let x := f.slot g s
    if f.longUnserved x since then f.setSlot g s { x with stale := true } else f) f

/-- A waking group is awake (R62 step 7): event 0x01, the idle timer restarts, a held sleep request takes effect. -/
def Fe.wakeComplete (f : Fe) (g : Nat) : Fe :=
  let r := f.group g
  if r.pwr = .waking ∧ r.pll ∧ r.dll ∧ r.loaded then
    let f := f.markStale g
    let f := (f.setGroup g { f.group g with pwr := .awake, lastActive := f.ao, sleptAt := none }).groupEvent g 1
      (f.inEpoch * 8192)
    if r.sleepReq then f.sleepGroup g else f
  else f

/-- An AUTO group without converted edges for `GroupIdleTime` sleeps once the AO tick of expiry has passed, since activity in
that tick keeps it awake (R61, R63). -/
def Fe.idleTimeout (f : Fe) (g : Nat) : Fe :=
  let r := f.group g
  if f.get O.groupPowerMode g = 2 ∧ r.pwr = .awake ∧ r.lastActive + f.get O.groupIdleTime * 1000 < f.ao then f.sleepGroup g
  else f

/-- A group's PLL or DLL loses lock after lock was declared (R64). -/
def Fe.lockLoss (f : Fe) (g : Nat) : Fe :=
  let r := f.group g
  if r.pwr ≠ .asleep ∧ (r.pll ∨ r.dll) then
    let f := f.flushGroup g
    let r := f.group g
    let f := f.setGroup g { r with pwr := .waking, wakeStart := f.tick, pll := false, dll := false, loaded := false,
                                   lockLost := true, lockLosses := satAdd 16 r.lockLosses 1 }
    (f.faultEvent 0x11 g 0x08).groupEvent g 3 (f.inEpoch * 8192)
  else f

/-! ## Status objects (R66) -/

def Fe.groupAwake (f : Fe) : Nat :=
  (List.range 16).foldl (fun v g => v + b1 (decide ((f.group g).pwr = .awake)) * 2 ^ g
    + b1 (decide ((f.group g).pwr = .waking)) * 2 ^ (16 + g)) 0

def Fe.tdcStatus (f : Fe) (g : Nat) : Nat :=
  let r := f.group g
  b1 r.pll + b1 r.dll * 2 + b1 (f.frozen g) * 4 + b1 (f.anyStale g) * 8 + (f.fedSlots g).length * 16 + r.lockLosses * 2 ^ 16

/-- The `CulletStatus` entry of a channel (R66). -/
def Fe.culletEntry (f : Fe) (c : Nat) : Nat :=
  let g := c / 16
  let s := f.slotOf c
  let x := f.slot g s
  x.gen + b1 x.shadow.isSome * 2 ^ 8 + b1 (f.fedNow g s) * 2 ^ 9 + b1 x.stale * 2 ^ 10 + b1 x.lastRejected * 2 ^ 11
    + x.rejRun * 2 ^ 12 + x.rejects * 2 ^ 16

def Fe.culletStatus (f : Fe) : Nat := (List.range 256).foldl (fun v c => v + f.culletEntry c * 2 ^ (32 * c)) 0

/-- `SlotDelay` (R66). -/
def slotDelays : Nat := (List.range 272).foldl (fun v i => v + (Config.slotDelay i).toNat * 2 ^ (8 * i)) 0

end Sys2Proof.Machine
end

