-- ==== Sys2Proof/Machine/FeHitPath.lean ====
section
/-! DEFINITION. The front-end hit path (chapter 04): rate windows, the sorters, the merger, the class-2 and class-3 cells
that the uplinks take, and the hit-path objects. -/

namespace Sys2Proof.Machine

/-! ## Rate reduction (R68, R93) -/

/-- The prescale exponent of the next window. -/
def nextK (limit maxExp k count : Nat) : Nat :=
  if limit = 0 then 0
  else
    let k' := if limit < count then k + 1 else if 4 * count ≤ limit then k - 1 else k
    min k' maxExp

/-- The base ticks of a rate window (R68). -/
def rateWindow : Nat := 938

/-- A rate window ends for every channel; the windows run free from reset. -/
def Fe.rateWindowEnd (f : Fe) : Fe :=
  if f.windowStart + rateWindow ≤ f.now then
    let limit := f.get O.rateLimit
    let maxExp := f.get O.rateMaxExponent
    { f with
      windowStart := f.windowStart + rateWindow,
      chans := Bank.mapVals {} (fun _ x =>
        let k := nextK limit maxExp x.k x.windowCount
        { x with k := k, windowCount := 0, prescale := if k = x.k then x.prescale else 0 }) f.chans }
  else f

/-! ## SEC-DED (R72) -/

/-- What reading a stored entry with `flips` flipped bits gives. -/
inductive EccRead where
  | good | corrected | discarded
  /-- Delivered with wrong content, counted as corrected or not at all. -/
  | wrong (counted : Bool)
  deriving DecidableEq, Repr

/-- The verdict of SEC-DED on `flips` flipped bits (R72): beyond two the code decides nothing, and a free choice stands
for what it reports. (DESIGN CHOICE, log entry 12) -/
def Fe.eccRead (f : Fe) (flips : Nat) : EccRead × Fe :=
  match flips with
  | 0 => (.good, f)
  | 1 => (.corrected, f)
  | 2 => (.discarded, f)
  | _ =>
    let d := f.drawBool
    if d.1 then (.discarded, d.2)
    else
      let e := d.2.drawBool
      (.wrong e.1, e.2)

/-! ## The sorter (R75, R76) -/

/-- The channel of the group whose oldest derandomiser entry has the lowest key, ties to the lower channel (R76). -/
def Fe.oldest (f : Fe) (g : Nat) : Option (Nat × HitEntry) :=
  (List.range 16).foldl (fun best k =>
    let c := g * 16 + k
    match (f.chan c).derand with
    | [] => best
    | h :: _ =>
      match best with
      | none => some (c, h)
      | some (_, b) => if keyOf h.epoch h.time < keyOf b.epoch b.time then some (c, h) else best) none

/-- The sorter of group `g` reads one derandomiser entry while it has room (R76); `flips` bits of it are flipped (R72).
(DEDUCED, log entry 13) -/
def Fe.sorterTake (f : Fe) (g flips : Nat) : Fe :=
  if f.baseRuns = false ∨ sorterSize ≤ (f.group g).sorter.length + (f.group g).wait.length then f
  else match f.oldest g with
    | none => f
    | some (c, h) =>
      let x := f.chan c
      let f := f.setChan c { x with derand := x.derand.drop 1 }
      let item (w : Word) : SortItem :=
        { epoch := h.epoch, time := h.time, rank := 3, tie := c, word := w, released := false }
      let r := f.eccRead flips
      let f := r.2
      match r.1 with
      | .good => f.pushSorter g (item h.word)
      | .corrected => (f.count O.correctedErrors).pushSorter g (item h.word)
      | .discarded =>
        ((f.count O.uncorrectedErrors).loseNow c .uncorrectable).faultEvent 0x10 (slotIx g (f.slotOf c)) 0x0A true
      | .wrong counted =>
        let f := if counted then f.count O.correctedErrors else f
        let d := f.drawNat
        d.2.pushSorter g (item (BitVec.ofNat 64 d.1))

/-- The lowest open report of a group: channel and report. -/
def Fe.lowestReport (f : Fe) (g : Nat) : Option (Nat × Report) :=
  (List.range 16).foldl (fun best k =>
    let c := g * 16 + k
    match (f.chan c).report with
    | none => best
    | some r =>
      match best with
      | none => some (c, r)
      | some (_, b) => if keyOf r.epoch r.time < keyOf b.epoch b.time then some (c, r) else best) none

/-- Read a sorter entry on its release (R72).  An uncorrectable one makes its macro SUSPECT at once (R353). -/
def Fe.releaseItem (f : Fe) (g flips : Nat) (x : SortItem) : Fe :=
  let back (f : Fe) (w : Word) : Fe := f.setGroup g ((f.group g).exchange x { x with word := w, released := true })
  let e := f.eccRead flips
  let f := e.2
  match e.1 with
  | .good => back f x.word
  | .corrected => back (f.count O.correctedErrors) x.word
  | .discarded =>
    let f := (f.setGroup g ((f.group g).drop x)).count O.uncorrectedErrors
    let f := if x.rank = 3 then f.loseNow x.tie .uncorrectable else f
    f.faultEvent 0x15 (Config.sorterMacro g).val 0x0A true
  | .wrong counted =>
    let f := if counted then f.count O.correctedErrors else f
    let d := f.drawNat
    back d.2 (BitVec.ofNat 64 d.1)

/-- The sorter of group `g` releases its lowest word, or closes its lowest open report, when that key is at or below the
group horizon (R74, R75).  A released word stays in the sorter until the merger takes it. (DEDUCED, log entry 13) -/
def Fe.sorterRelease (f : Fe) (g flips : Nat) : Fe :=
  if f.baseRuns = false then f
  else
  let item := (f.group g).words.find? fun x => !x.released
  let rep := f.lowestReport g
  let repFirst := match item, rep with
    | some x, some (c, r) => decide ((reportItem c r false).order < x.order)
    | none, some _ => true
    | _, none => false
  match repFirst, rep, item with
  | true, some (c, r), _ => if f.atOrBelow g r.epoch r.time then f.closeReport c true else f
  | _, _, some x => if f.atOrBelow g x.epoch x.time then f.releaseItem g flips x else f
  | _, _, none => f

/-! ## The merger (R77, R78, R380) -/

/-- The words the merger holds at most (R67). -/
def mergerSize : Nat := 64

/-- The lowest word of each sorter, and the lowest open report, in the order of R77. -/
def Fe.fronts (f : Fe) : List (Nat × SortItem) :=
  (List.range 16).flatMap fun g =>
    (match (f.group g).words with | [] => [] | x :: _ => [(g, x)])
    ++ (match f.lowestReport g with | none => [] | some (c, r) => [(g, reportItem c r false)])

/-- The lowest of the fronts. -/
def Fe.lowestFront (f : Fe) : Option (Nat × SortItem) :=
  f.fronts.foldl (fun best p => match best with
    | none => some p
    | some b => if p.2.order < b.2.order then some p else best) none

/-- The words the merger holds are discarded, each hit counted (R380). -/
def Fe.dropMerger (f : Fe) : Fe :=
  { f.count O.unleasedDiscards 0 (f.merger.countP fun x => x.rank = 3) with merger := [] }

/-- The merger's copy of a word: discarded while no lease is current and after a grant until the second-mark word of the
first commanded mark of the new holder (R380); discarded hits are counted. -/
def Fe.mergerIn (f : Fe) (x : SortItem) : Fe :=
  let commandedMark := decide (x.rank = 0) && !bitAt x.word.toNat 28
  let awaited : Bool := match f.sys.awaitMark with | none => false | some e => decide (e < x.epoch)
  let f := if f.sys.discard ∧ awaited ∧ commandedMark then
      { f with sys := { f.sys with discard := false, awaitMark := none } } else f
  if f.discards then
    if x.rank = 3 then f.count O.unleasedDiscards else f
  else { f with merger := f.merger ++ [x] }

/-- The merger takes the lowest released word once its key is at or below every group horizon; the second-mark word goes
once every horizon lies in its epoch and nothing older is held (R77, R78). (DEDUCED, log entry 13) -/
def Fe.mergerTake (f : Fe) : Fe :=
  if f.baseRuns = false ∨ (mergerSize ≤ f.merger.length ∧ f.discards = false) then f
  else
    let front := f.lowestFront
    let markFirst := match f.secondWords, front with
      | (e, w) :: _, some (_, x) =>
        decide (({ epoch := e, time := 0, rank := 0, tie := 0, word := w, released := true } : SortItem).order < x.order)
      | _ :: _, none => true
      | [], _ => false
    match markFirst, f.secondWords, front with
    | true, (e, w) :: rest, _ =>
      if (List.range 16).all fun g => f.atOrBelow g e 0 then
        ({ f with secondWords := rest }).mergerIn
          { epoch := e, time := 0, rank := 0, tie := 0, word := w, released := true }
      else f
    | _, _, some (g, x) =>
      if x.released && (List.range 16).all fun h => f.atOrBelow h x.epoch x.time then
        (f.setGroup g ((f.group g).drop x)).mergerIn x
      else f
    | _, _, none => f

/-! ## Class-2 and class-3 payloads (R82, R83, R85) -/

/-- The earlier of two (epoch, time) in time order (R83). -/
def earlier (es : List EpochRec) (a b : Nat × Nat) : Nat × Nat :=
  if instantOf es a.1 a.2 ≤ instantOf es b.1 b.2 then a else b

/-- State (epoch, time) in the later epoch when it lies at or after an epoch's start (R83). -/
def inLaterEpoch (es : List EpochRec) (p : Nat × Nat) : Nat × Nat := instantIn es (instantOf es p.1 p.2)

/-- The keys, with a second-mark word at its epoch's start, of the words the merger and the sorters hold. -/
def Fe.heldTimes (f : Fe) : List (Nat × Nat) :=
  (f.merger.map fun x => (x.epoch, x.time))
  ++ (f.secondWords.map fun p => (p.1, 0))
  ++ ((List.range 16).flatMap fun g => (f.group g).words.map fun x => (x.epoch, x.time))

/-- P of R83: the earliest, in time order, of every sorter horizon and of the words held; never before the last P.
(DEDUCED, log entry 13) -/
def Fe.nextPromise (f : Fe) : Nat × Nat :=
  let hs := (List.range 16).filterMap fun g => f.horizon g
  match hs ++ f.heldTimes with
  | [] => f.promise
  | p :: ps =>
    let q := inLaterEpoch f.epochs (ps.foldl (earlier f.epochs) p)
    if instantOf f.epochs f.promise.1 f.promise.2 ≤ instantOf f.epochs q.1 q.2 then q else f.promise

/-- The second number of an epoch. -/
def Fe.secondOf (f : Fe) (e : Nat) : Nat := ((f.epochs.find? fun r => r.idx = e).map fun r => r.second).getD 0

/-- A progress word or filler (R87). -/
def progressWord (filler crystal : Bool) (second t : Nat) : Word :=
  BitVec.ofNat 64 (2 * 2 ^ 61 + b1 filler * 2 ^ 60 + b1 crystal * 2 ^ 59 + second % 256 * 2 ^ 40 + t % 2 ^ 40)

def Fe.crystal (f : Fe) : Bool := decide (f.get O.baseSource = 3)

/-- The 32 words of a class-2 cell (R82), and the front-end after its words have left the merger. -/
def Fe.class2Payload (f : Fe) : List Word × Fe :=
  let p := f.nextPromise
  let s := f.secondOf p.1
  let ws := (f.merger.take 31).map fun x => x.word
  let fill := progressWord true f.crystal s p.2
  (progressWord false f.crystal s p.2 :: ws ++ List.replicate (31 - ws.length) fill,
   { f with merger := f.merger.drop 31, promise := p })

/-- The 32 words of a class-3 cell (R85).  R85 does not say which flags the copied second mark carries: flywheel and crystal
are those of the present, and first is 0; nor which second its fillers name: 0. (DESIGN CHOICE, log entry 50) -/
def Fe.class3Payload (f : Fe) : List Word × Fe :=
  let ws := f.class3.take 31
  let fly := decide (f.kind = 2)
  (secondMarkWord (f.get O.currentSecond) fly f.crystal false true :: ws
     ++ List.replicate (31 - ws.length) (progressWord true f.crystal 0 0),
   { f with class3 := f.class3.drop 31 })

/-! ## Hit-path objects (R93) -/

def Fe.rateExponents (f : Fe) : Nat := (List.range 256).foldl (fun v c => v + (f.chan c).k * 2 ^ (8 * c)) 0

def Fe.sorterStatus (f : Fe) (g : Nat) : Nat :=
  let r := f.group g
  let n := r.sorter.length
  min n 1023 + min r.peak 1023 * 2 ^ 10 + b1 (decide (sorterSize ≤ n)) * 2 ^ 20

/-- Reading a `SorterStatus` sub-index resets its peak to the present occupancy. -/
def Fe.resetPeak (f : Fe) (g : Nat) : Fe :=
  let r := f.group g
  f.setGroup g { r with peak := r.sorter.length }

/-- A scaler interval of the nominal length ends (R89). -/
def Fe.scalerTick (f : Fe) : Fe := if f.scalerDue then f.scalerEnd (!f.scaler.marked) else f

end Sys2Proof.Machine
end

