-- ==== Sys2Proof/Machine/FeLink.lean ====
section
/-! DEFINITION. The front-end's ends of its lanes (chapters 05, 06): the downlink receivers, the uplink transmitters, the
side links, and the base clock that follows the active downlink (R334, R335). -/

namespace Sys2Proof.Machine

/-! ## The base clock (R334, R335) -/

/-- The active downlink: the leased one, else A when A is ALIGNED, else B. -/
def Fe.activeDown (f : Fe) : Nat :=
  match f.holder with
  | 1 => 0
  | 2 => 1
  | _ => if (f.side 0).down.st = .aligned then 0 else 1

/-- The clock recovered on a downlink is declared dead (R332): F3 of side A, F4 of side B. -/
def Fe.recoveredDead (f : Fe) (side : Nat) : Bool := (Bank.get {} f.sys.clocks (3 + side)).dead

/-- The crystal can take over the base clock. -/
def Fe.crystalReady (f : Fe) : Bool := decide (f.get O.crystalFitted = 1) && !(Bank.get {} f.sys.clocks 2).dead

/-- Enter STANDBY or SLEEP with every group asleep: an awake group sleeps, a waking one at the end of its wake. -/
def Fe.sleepAll (f : Fe) : Fe :=
  (List.range 16).foldl (fun f g =>
    match (f.group g).pwr with
    | .asleep => f
    | _ => f.sleepGroup g) f

/-- The base clock runs from the crystal: the fallback of R334. -/
def Fe.onCrystal (f : Fe) : Fe := { (f.put O.baseSource 3).count O.fallbackEvents with crystalQ := true }

/-- The base clock loses its recovered source: to the crystal, else to the monitor clock in STANDBY (R334, R335). -/
def Fe.baseLoss (f : Fe) : Fe :=
  if f.get O.baseSource ≠ 1 ∧ f.get O.baseSource ≠ 2 then f
  else if f.crystalReady then f.onCrystal
  else
    let f := (f.put O.baseSource 0).sleepAll
    let f := { f with sys := { f.sys with mode := if f.sys.mode = 1 then 1 else 2 } }
    f.put O.feMode f.sys.mode

/-- The first tick from now on at which a downlink marker begins: markers follow every 20 base ticks from the grid's start
(R94, R159). -/
def Fe.gridFrom (f : Fe) (x : FeSide) : Nat := x.grid + 20 * ((f.tick - x.grid + 19) / 20)

/-- The base clock runs from the active downlink's recovered clock, with the phase of its divider (R96); that side's uplink slot
grid restarts on a marker (R334, R159). -/
def Fe.baseReturn (f : Fe) (side : Nat) : Fe :=
  let x := f.side side
  let f := f.setSide side { x with grid := f.gridFrom x }
  { f.put O.baseSource (side + 1) with sys := { f.sys with phase := x.divider } }

/-- Bring the base clock to what R334 says after a change of lease, of alignment or of a recovered clock; a change of the active
downlink is a loss followed by a return.  A return to a recovered clock that is declared dead is held pending (R333). -/
def Fe.reclock (f : Fe) : Fe :=
  let a := f.activeDown
  let src := f.get O.baseSource
  if (f.side a).down.st = .aligned ∧ f.recoveredDead a = false then
    if src = a + 1 then f
    else if src = 1 ∨ src = 2 then f.baseLoss.baseReturn a
    else f.baseReturn a
  else f.baseLoss

/-! ## Link reset and synchronisation (R142-R144) -/

/-- The uplinks that a scope covers (R126). -/
def scopeUps (scope : Nat) : List Nat :=
  match scope with | 0 => [0, 1] | 1 => [0] | 2 => [1] | _ => []

def FeSide.up (x : FeSide) (u : Nat) : Lane := if u = 0 then x.up0 else x.up1
def FeSide.setUp (x : FeSide) (u : Nat) (l : Lane) : FeSide := if u = 0 then { x with up0 := l } else { x with up1 := l }

/-- Discard a transmitter's delivery state, counting what is lost (R142, R144), and start a run. -/
def Lane.resetTx (l : Lane) (signal scope : Nat) : Lane :=
  { l with
    stats := { l.stats with discarded := satAdd 32 l.stats.discarded l.tx.buf.length },
    tx := { l.tx.reset.addRun { signal := signal, scope := scope, left := 16 } with awaiting := none, waitScope := scope } }

/-- Discard a receiver's delivery state, counting what is lost. -/
def Lane.resetRx (l : Lane) : Lane :=
  { l with stats := { l.stats with discarded := satAdd 32 l.stats.discarded l.rx.buf2.length }, rx := l.rx.reset }

/-- The front-end resets a scope of a side link and sends a run of initiate (1) or answer (2) cells (R142). -/
def FeSide.reset (x : FeSide) (signal scope : Nat) : FeSide :=
  let x := if scope = 0 then { x with down := x.down.resetRx } else x
  (scopeUps scope).foldl (fun x u => x.setUp u ((x.up u).resetTx signal scope)) x

/-- An initiate cell: reset the scope and answer, once per run (R142).  R126 reserves scope 0b11 and does not say what a cell of
it does: it is ignored, at both ends alike. (DESIGN CHOICE, log entry 51) -/
def FeSide.initiated (x : FeSide) (scope : Nat) : FeSide :=
  if x.down.rx.ignoring ∨ 3 ≤ scope then x
  else
    let x := x.reset 2 scope
    { x with down := { x.down with rx := { x.down.rx with ignoring := true, synced := true } } }

/-- A transmitter that waits for an answer of this scope is synchronised. -/
def Tx.answered (x : Tx) (scope : Nat) : Tx :=
  if x.awaiting.isSome ∧ x.waitScope = scope then { x with awaiting := none, synced := true, ansFails := 0 } else x

/-- An answer cell (R142): ignored when none is awaited. -/
def FeSide.answer (x : FeSide) (scope : Nat) : FeSide :=
  let waits := (scopeUps scope).any fun u => (x.up u).tx.awaiting.isSome && decide ((x.up u).tx.waitScope = scope)
  let x := (scopeUps scope).foldl (fun x u => x.setUp u { x.up u with tx := (x.up u).tx.answered scope }) x
  if waits ∧ scope = 0 then { x with down := { x.down with rx := { x.down.rx with synced := true } } } else x

/-- The link word of an idle or control-only cell (R126, R142): signal, scope and identity. -/
def FeSide.link (x : FeSide) (w : Word) (idle : Bool) : FeSide :=
  let v := w.toNat
  let x := { x with down := { x.down with identity := some (bits v 15 8) } }
  let scope := bits v 3 2
  match v % 4 with
  | 1 => x.initiated scope
  | 2 => x.answer scope
  | _ => if idle then { x with down := { x.down with rx := { x.down.rx with ignoring := false } } } else x

/-! ## The downlink receiver (R104, R105, R123) -/

def LinkStats.protoErr (s : LinkStats) (n : Nat := 1) : LinkStats := { s with proto := satAdd 32 s.proto n }

/-- A receiver raises NAK: counted in the lane's statistics (R146). (DEDUCED, log entry 15) -/
def Lane.nakRaised (l : Lane) (rx : Rx) : Lane :=
  if rx.nak && !l.rx.nak then { l with stats := { l.stats with naks := satAdd 32 l.stats.naks 1 } } else l

/-- A transmitter registers a NAK: counted too. `t` is the transmitter before. -/
def Lane.nakHeard (l : Lane) (t : Tx) : Lane :=
  if l.tx.naked.isSome && t.naked.isNone then { l with stats := { l.stats with naks := satAdd 32 l.stats.naks 1 } } else l

/-- A cell of a lane fails its CRC (R136, R146). -/
def Lane.crcFailed (l : Lane) : Lane :=
  let r := l.nakRaised l.rx.onBad
  { r with rx := l.rx.onBad, stats := { r.stats with crc := satAdd 32 r.stats.crc 1, crcRun := (r.stats.crcRun + 1) % 256 } }

/-- The class-0 opcodes a front-end takes (R130). -/
def feKnownOp (op : Nat) : Bool := decide (1 ≤ op ∧ op ≤ 6)

/-- Deliver the class-0 words of a cell, timed or untimed; words that do not belong are protocol errors (R123). -/
def Fe.deliverC0 (f : Fe) (side : Nat) (timed : Bool) (ws : List Word) : Fe :=
  ws.foldl (fun f w =>
    if feKnownOp (c0op w) && (isTimed (c0op w) == timed) then
      { f with sys := { f.sys with inbox := f.sys.inbox ++ [{ lane := side, tick := f.tick, words := [w] }] } }
    else
      let x := f.side side
      f.setSide side { x with down := { x.down with stats := x.down.stats.protoErr } }) f

/-- Count a protocol error on a downlink. -/
def Fe.downProto (f : Fe) (side : Nat) : Fe :=
  let x := f.side side
  f.setSide side { x with down := { x.down with stats := x.down.stats.protoErr } }

/-- An uplink is usable for a class: aligned, synchronised and in credit (R80). (DEDUCED, log entry 15) -/
def Lane.usable (l : Lane) (cls : Nat) : Bool := decide (l.st = .aligned) && l.tx.synced && l.tx.hasCredit .ingress cls

/-- The uplink that carries answers of a class on a side: uplink 0, or uplink 1 when uplink 0 is not usable (R378, R159). -/
def FeSide.answerUp (x : FeSide) (cls : Nat) : Nat := if x.up0.usable cls = false ∧ x.up1.usable cls then 1 else 0

/-- Queue a management response, class 1, for the answering uplink of a side (R317). -/
def Fe.respond (f : Fe) (side : Nat) (ws : List Word) : Fe :=
  let x := f.side side
  f.setSide side { x with ans1 := x.ans1 ++ [ws] }

/-- Record an abort in `FeLastAbort` (R322, R329). (DEDUCED, log entry 15) -/
def Fe.recordAbort (f : Fe) (side : Nat) (a : Abort) (index sub tid : Nat) : Fe :=
  f.put O.feLastAbort (entrySet 128 (f.get O.feLastAbort) side
    (a.code + index % 2 ^ 16 * 2 ^ 32 + sub % 256 * 2 ^ 48 + tid % 2 ^ 16 * 2 ^ 64 + a.owner * 2 ^ 96))

/-- The words of a refusal (R135). -/
def abortWords (h : Word) (a : Abort) : List Word :=
  [msgHeader (msgId h) ((msgOp h + 0x80) % 256) (msgIndex h) (msgSub h) 0,
   BitVec.ofNat 64 (a.code + a.owner * 2 ^ 32)]

/-- The transactions of a side that are cached (R308). -/
def Fe.trans (f : Fe) (side : Nat) : List Trans := Bank.get [] f.sys.trans side

/-- The messages of a side that wait. -/
def Fe.waiting (f : Fe) (side : Nat) : List Delivered := f.sys.inbox.filter fun d => d.lane == side

/-- Whether a transaction ID is among the last 8 of a side, answered or waiting. -/
def Fe.knownId (f : Fe) (side tid : Nat) : Bool :=
  ((f.trans side).any fun t => t.id == tid) || (waitingIds (f.trans side) (f.waiting side)).contains tid

/-- Keep a transaction of a side (R308). -/
def Fe.keepTrans (f : Fe) (side : Nat) (t : Trans) : Fe :=
  { f with sys := { f.sys with trans := Bank.set [] f.sys.trans side (Machine.keepTrans (f.trans side) t) } }

/-- Queue a class-0 word for the answering uplink of a side (R378). -/
def Fe.answer0 (f : Fe) (side : Nat) (w : Word) : Fe :=
  let x := f.side side
  f.setSide side { x with ans0 := x.ans0 ++ [w] }

/-- Refuse a message without executing it; a new ID is kept with the answer (R308). -/
def Fe.refuseMsg (f : Fe) (side : Nat) (h : Word) (a : Abort) : Fe :=
  let f := if f.knownId side (msgId h) then f else f.keepTrans side (refusedTrans h a side f.tick)
  (f.recordAbort side a (msgIndex h) (msgSub h) (msgId h)).respond side (abortWords h a)

/-- A duplicate of one of the last 8 transactions of a side (R308): the answer again, or the refusal of another request under the
same ID.  None for a new one. -/
def Fe.duplicate (f : Fe) (side : Nat) (r : Req) : Option Fe :=
  match dupOf (f.trans side) r with
  | .fresh => none
  | .answered ws => some ((f.count O.feDuplicateRequests).respond side ws)
  | .executing => some (f.count O.feDuplicateRequests)
  | .mismatch =>
    some (((f.count O.feDuplicateRequests).recordAbort side Abort.general r.index r.sub r.tid).respond side
      (r.response (.error Abort.general)))

/-- One assembled message is received: an unknown opcode is answered at once, as an unleased side is (R135, R318); the ninth
outstanding transaction of a source is refused (R307). -/
def Fe.receiveMsg (f : Fe) (side : Nat) (m : List Word) (poisoned : Bool) : Fe :=
  let h := m.headD 0#64
  if msgOp h = 0 ∨ 4 < msgOp h then
    if f.holder = side + 1 then
      (match f.duplicate side (headReq h) with
        | some g => g
        | none => f.refuseMsg side h (if poisoned then Abort.hardware else Abort.badOpcode))
    else (f.count O.feUnleasedRequests).refuseMsg side h Abort.unreachable
  else if 8 ≤ (waitingIds (f.trans side) (f.waiting side)).length ∧ f.knownId side (msgId h) = false then
    (f.count O.feOutstandingRefused).refuseMsg side h Abort.outstanding
  else
    { f with sys := { f.sys with
      inbox := f.sys.inbox ++ [{ lane := side, tick := f.tick, words := m, mgmt := true, poisoned := poisoned }] } }

/-- Deliver the management words of an accepted class-1 or class-3 cell (R134). -/
def Fe.deliverMsgs (f : Fe) (side cls : Nat) (poisoned : Bool) (ws : List Word) : Fe :=
  let x := f.side side
  let held := if cls = 1 then x.down.rx.asm1 else x.down.rx.asm3
  let r := splitMessages 64 (held ++ ws.map fun w => (w, poisoned))
  let rx := if cls = 1 then { x.down.rx with asm1 := r.2 } else { x.down.rx with asm3 := r.2 }
  let f := f.setSide side { x with down := { x.down with rx := rx } }
  r.1.foldl (fun f m => f.receiveMsg side m.1 m.2) f

/-- The contents of an accepted data cell (R123, R124): word 7 is no part of them.  The messages of a poisoned cell are
not executed, and are answered (R135). -/
def Fe.downContents (f : Fe) (side : Nat) (c : Cell) (beyond : Bool) : Fe :=
  let ws := c.payload.take 7
  if beyond ∨ c.comp then f.downProto side
  else match c.cls with
    | 0 => if c.poison then f.downProto side else f.deliverC0 side false (class0Words ws)
    | 1 => if c.poison then (f.downProto side).deliverMsgs side 1 true ws else f.deliverMsgs side 1 false ws
    | 3 => if c.poison then (f.downProto side).deliverMsgs side 3 true ws else f.deliverMsgs side 3 false ws
    | _ => f.downProto side

/-- A good cell on a downlink, in the order of R123: return fields, link word and timed words, sequence, contents. -/
def Fe.downGood (f : Fe) (side hdr : Nat) (payload : List Word) : Fe :=
  let c := cellOf hdr payload
  if c.kind = 3 then f
  else
    let x := f.side side
    let up (l : Lane) (r : Returns) : Lane := { l with tx := l.tx.applyReturns .ingress r f.tick }.nakHeard l.tx
    let x := { x with up0 := up x.up0 (returnsOf hdr), up1 := up x.up1 (returnsOf (payload.getD 7 0#64).toNat) }
    let f := f.setSide side x
    let f :=
      if c.kind = 0 then
        let x := f.side side
        f.setSide side { x with down := { x.down with rx := { x.down.rx with ignoring := false } } }
      else
        let f := f.setSide side ((f.side side).link (payload.headD 0#64) (c.kind = 1))
        if c.kind = 2 then f.deliverC0 side true (class0Words ((payload.drop 1).take 6)) else f
    let x := f.side side
    let q := x.down.rx.onSeq c
    let x := { x with down := x.down.nakRaised q.2 }
    if q.1 then
      let rx := { q.2 with recvd := Bank.upd 0 q.2.recvd c.cls (· + 1) }
      let beyond := rx.beyondCredit .downlink c.cls
      let f := f.setSide side { x with down := { x.down with rx := rx.free c.cls } }
      f.downContents side c beyond
    else f.setSide side { x with down := { x.down with rx := q.2 } }

/-- A cell that fails its CRC (R123, R136); every 256th is a fault event against the downlink (R146). -/
def Fe.downBad (f : Fe) (side : Nat) : Fe :=
  let x := f.side side
  let d := x.down.crcFailed
  let f := f.setSide side { x with down := d }
  if d.stats.crcRun = 0 then f.faultEvent 0x13 side 0x04 else f

/-- An uplink transmitter that a downlink's alignment starts (R380): one that returns replays from U (R143). -/
def Lane.startUp (l : Lane) (now : Nat) : Lane :=
  match l.st with
  | .prbs | .retired | .disabled | .aligned => l
  | _ => { l with st := .aligned }.replayed now

/-- The uplinks of a side start, once its PLL is locked (R115, R380). -/
def FeSide.startUps (x : FeSide) (now : Nat) : FeSide :=
  if x.pllLocked then { x with up0 := x.up0.startUp now, up1 := x.up1.startUp now } else x

def Lane.parkUp (l : Lane) : Lane :=
  match l.st with
  | .prbs | .retired | .disabled => l
  | _ => { l with st := .parked }

/-- A downlink reaches ALIGNED: the base clock may return (R334), the side's uplinks start (R380) with a slot grid that begins
at its next marker (R159), and after the front-end's reset the link starts (R143).  The bits of a CELL_ARRIVAL are those of the 20
base ticks before its own, so the marker at bit `frame` of the next begins `frame` / 32 ticks from now.
(DESIGN CHOICE, log entry 10) -/
def Fe.downAligned (f : Fe) (side : Nat) : Fe :=
  let x := f.side side
  let first := !x.down.train.everActive
  let d := { x.down with st := .aligned, since := f.tick, bad := 0, unparkDue := none,
                         train := { x.down.train with everActive := true } }
  let x := ({ x with down := d, grid := f.tick + d.frame / 32 } : FeSide).startUps f.tick
  let x := if first then x.reset 1 0 else x
  (f.setSide side x).reclock

/-- A downlink leaves ALIGNED for another state: its uplinks park and the base clock may fall back (R334, R380). -/
def Fe.downLost (f : Fe) (side : Nat) (st : LaneSt) : Fe :=
  let x := f.side side
  let was := decide (x.down.st = .aligned)
  let d := { x.down.unframe with st := st, since := f.tick }
  let f := f.setSide side { x with down := d, up0 := x.up0.parkUp, up1 := x.up1.parkUp }
  if was then f.reclock else f

/-- A bad marker on an ALIGNED downlink (R104): four in a row send it to HUNT. -/
def Fe.downBadMarker (f : Fe) (side : Nat) : Fe :=
  let f := f.count O.badMarkers side
  let x := f.side side
  if x.down.bad = 3 then (f.downLost side .hunt).count O.realigns side
  else f.setSide side { x with down := { x.down with bad := x.down.bad + 1 } }

/-- One arriving line of a downlink in HUNT (R105): a match sets the slot counter and the phase of the divider; 64 good
markers in a row align the lane. -/
def Fe.downHunt (f : Fe) (side line : Nat) : Fe :=
  let x := f.side side
  let d := x.down.seek .downlink line
  let f := f.setSide side { x with down := d, divider := if d.verifying then d.frame % 32 else x.divider }
  if 64 ≤ d.good then f.downAligned side else f

/-- One slot of an ALIGNED downlink, judged at its marker (R104, R123); the body enters the descrambler whatever the marker
(R98). -/
def Fe.downCell (f : Fe) (side slot : Nat) (cell : Option (Nat × List Word)) : Fe :=
  if goodMarker .downlink slot then
    let x := f.side side
    let f := f.setSide side { x with down := { x.down with bad := 0 } }
    match cell with
    | some (hdr, payload) => f.downGood side hdr payload
    | none => f.downBad side
  else f.downBadMarker side

/-- Received bits of a downlink in test mode (R102). -/
def Fe.downTest (f : Fe) (side line : Nat) : Fe :=
  let x := f.side side
  let r := x.down.prbs.check (bitsOf (LaneKind.slotBits .downlink) line)
  (f.setSide side { x with down := { x.down with prbs := r.2 } }).count O.fePrbsErrors side r.1

/-- CELL_ARRIVAL on a downlink: the 640 bits of one slot time.  `line` is cut where the bits arrive, not where markers
begin (R105). (DESIGN CHOICE, log entry 10) -/
def Fe.downSlot (f : Fe) (side line : Nat) : Fe :=
  let x := f.side side
  let slot := x.down.framed .downlink line
  let r := decodeSlot .downlink x.down.rx.descr slot
  let keep (f : Fe) : Fe :=
    let y := f.side side
    f.setSide side { y with down := (y.down.arrived .downlink line) }
  match x.down.st with
  | .prbs => f.downTest side line
  | .hunt => keep ((f.setSide side { x with down := { x.down with rx := { x.down.rx with descr := r.2 } } }).downHunt side line)
  | .aligned =>
    keep ((f.setSide side { x with down := { x.down with rx := { x.down.rx with descr := r.2 } } }).downCell side slot r.1)
  | _ => f

/-! ## The uplink transmitters (R79-R85, R141) -/

/-- The class-2 stream may go out on a side: it holds the lease and the merger no longer discards (R79, R380). -/
def Fe.streams (f : Fe) (side : Nat) : Bool := decide (f.holder = side + 1) && !f.discards

/-- The next cell of an uplink: what goes out is a kind, a class, a payload. -/
inductive UpChoice where
  | control | replay | data (cls : Nat) | idle
  deriving DecidableEq, Repr

/-- The class-0 words that uplink `u` of a side may send: its own, and the answers where it answers (R371, R378). -/
def FeSide.words0 (x : FeSide) (u : Nat) : List Word := (x.up u).tx.c0 ++ (if u = x.answerUp 0 then x.ans0 else [])

/-- The choice of R141 and R81 for one uplink.  Three points the spec leaves open.  Unacknowledged class-2 and class-3 cells
are replayed on a side that has lost the lease: R79 allows no such cell there, R136 and R141 replay from U.  A due keep-alive
waits for every cell that R81 puts first and for a replay, without bound: R84 gives it five slots.  A replayed cell counts
as a cell sent for the counts of R81 and R84 (`Tx.slotCounts`). (DESIGN CHOICE, log entry 51; DEDUCED, log entry 14; DEDUCED,
log entry 15) -/
def Fe.upChoice (f : Fe) (side u : Nat) : UpChoice :=
  let s := f.side side
  let t := (s.up u).tx
  let echoHere := (s.echoes.any fun p => p.1 ≤ f.tick) && u == s.answerUp 0
  let words := decide (f.merger ≠ [])
  let may13 := !(f.streams side && words) || decide (63 ≤ t.since13)
  let r0 := decide (s.words0 u ≠ []) && t.maySend .ingress 0
  let r1 := (decide (t.p1 ≠ []) || decide (s.ans1 ≠ []) && u == s.answerUp 1) && t.maySend .ingress 1
  let r3 := decide (f.class3 ≠ []) && decide (f.holder = side + 1) && t.maySend .ingress 3
  if echoHere then .control
  else if t.replay.isSome then .replay
  else if r0 then .data 0
  else if may13 ∧ (r1 ∨ r3) then
    if r1 ∧ r3 then (if t.last13 = 1 then .data 3 else .data 1) else if r1 then .data 1 else .data 3
  else if f.streams side ∧ t.maySend .ingress 2 ∧ (words ∨ 4 ≤ t.since2) then .data 2
  else .idle

/-- Count down the run at the head of a transmitter's runs as an idle cell carries it (R142). -/
def Tx.runSent (x : Tx) (now slot : Nat) : Tx :=
  match x.runs with
  | [] => x
  | r :: rest =>
    if 1 < r.left then { x with runs := { r with left := r.left - 1 } :: rest }
    else if r.signal = 1 then { x with runs := rest, awaiting := some (now + 256 * slot), waitScope := r.scope }
    else { x with runs := rest, synced := x.synced || r.sync }

/-- The signal and scope of the run in progress. (DEDUCED, log entry 15) -/
def Tx.signal (x : Tx) : Nat × Nat := match x.runs with | [] => (0, 0) | r :: _ => (r.signal, r.scope)

/-- The uplink's counts of slots since its last class-1 or class-3 cell and since its last class-2 cell (R81, R84).  The spec
does not say whether a replayed cell counts as a cell sent: it counts here, by its class. (DESIGN CHOICE, log entry 51) -/
def Tx.slotCounts (x : Tx) (c : Cell) : Tx :=
  let new := decide (c.kind = 0)
  { x with
    since13 := if new ∧ (c.cls = 1 ∨ c.cls = 3) then 0 else min (x.since13 + 1) 63,
    since2 := if new ∧ c.cls = 2 then 0 else min (x.since2 + 1) 5,
    last13 := if new ∧ (c.cls = 1 ∨ c.cls = 3) then c.cls else x.last13 }

/-- Put a cell on an uplink's line with the side's return fields. -/
def Fe.emit (f : Fe) (side u : Nat) (r : Returns) (c : Cell) (t : Tx) : Fe :=
  let x := f.side side
  let l := x.up u
  let e := encodeSlot .ingress t.scr (headerOf c r) c.payload
  f.setSide side (x.setUp u { l with tx := { t.slotCounts c with scr := e.2, line := e.1, lastCell := some c } })

/-- The data cell of a class, taken from what waits (R82, R85, R128, R134). -/
def Fe.upData (f : Fe) (side u cls : Nat) : Cell × Tx × Fe :=
  let t := ((f.side side).up u).tx
  match cls with
  | 0 =>
    let x := f.side side
    let ws := x.words0 u
    let r := t.sendNew 0 (padWords 32 ws) false false f.tick
    (r.1, { r.2 with c0 := t.c0.drop 32 },
      if u = x.answerUp 0 then f.setSide side { x with ans0 := x.ans0.drop (32 - t.c0.length) } else f)
  | 1 =>
    let x := f.side side
    let m := takeMessages 32 t.p1 (if u = x.answerUp 1 then x.ans1 else [])
    let r := t.sendNew 1 (padWords 32 m.1) false false f.tick
    (r.1, { r.2 with p1 := m.2.1 }, if u = x.answerUp 1 then f.setSide side { x with ans1 := m.2.2 } else f)
  | 2 =>
    let f := if f.merger = [] then f.count O.keepAliveCells else f
    let p := f.class2Payload
    let r := t.sendNew 2 p.1 false false f.tick
    (r.1, r.2, p.2)
  | _ =>
    let p := f.class3Payload
    let r := t.sendNew 3 p.1 false false f.tick
    (r.1, r.2, p.2)

/-- A slot of an uplink's generator in test mode (R102). -/
def Fe.upTest (f : Fe) (side u : Nat) : Fe :=
  let x := f.side side
  let l := x.up u
  let p := l.prbs.slot .ingress
  f.setSide side (x.setUp u { l with prbs := p.2, tx := { l.tx with line := p.1, lastCell := none } })

/-- One slot of one uplink (R81, R141). -/
def Fe.upSlot (f : Fe) (side u : Nat) (r : Returns) : Fe :=
  let x := f.side side
  let l := x.up u
  if l.st = .prbs then f.upTest side u
  else if l.st ≠ .aligned then f
  else
    -- a NAK registered at least 2 base ticks ago starts its replay here (R137)
    let t := match l.tx.naked with
      | some n => if n + 2 ≤ f.tick then l.tx.startReplay f.tick else l.tx
      | none => l.tx
    let l := { l with tx := t, stats := if t.replay = some 0 ∧ l.tx.replay ≠ some 0
                 then { l.stats with replays := satAdd 32 l.stats.replays 1 } else l.stats }
    let f := f.setSide side (x.setUp u l)
    let ident := side * 2 + u
    match f.upChoice side u with
    | .control =>
      let due := (f.side side).echoes.filter fun p => p.1 ≤ f.tick
      let rest := (f.side side).echoes.filter fun p => f.tick < p.1
      let ws := due.map fun p => BitVec.ofNat 64 (0x11 * 2 ^ 56 + p.2 % 2 ^ 16)
      let f := f.setSide side { f.side side with echoes := rest }
      f.emit side u r { kind := 2, seq := t.next, payload := padWords 32 (linkWord 0 0 ident :: ws) } t
    | .replay =>
      let i := t.replay.getD 0
      match t.buf[i]? with
      | some c => f.emit side u r c { t with replay := if i + 1 < t.buf.length then some (i + 1) else none }
      | none => f.emit side u r { kind := 1, seq := t.next, payload := padWords 32 [linkWord 0 0 ident] }
                  { t with replay := none }
    | .data cls =>
      let d := f.upData side u cls
      d.2.2.emit side u r d.1 d.2.1
    | .idle =>
      let s := t.signal
      f.emit side u r { kind := 1, seq := t.next, payload := padWords 32 [linkWord s.1 s.2 ident] }
        (t.runSent f.tick 18)

/-- A slot of the side's uplinks begins at this tick and has not been sent (R79, R95, R159); on the monitor clock the drivers
are held idle (R335). -/
def Fe.slotDue (f : Fe) (side : Nat) : Bool :=
  let x := f.side side
  f.baseRuns && decide (f.get O.baseSource ≠ 0) && decide (x.grid ≤ f.tick) && decide ((f.tick - x.grid) % 18 = 0)
    && decide (x.up0.tx.slotAt ≠ some f.tick)

/-- An M-cell slot on both uplinks of a side, uplink 0 first, with identical returns (R79, R140): on the side's slot grid,
once a slot, with the pre-emphasis then set (R101). (DEDUCED, log entry 9) -/
def Fe.uplinkSlot (f : Fe) (side : Nat) : Fe :=
  if f.slotDue side then
    let x := f.side side
    let begin (u : Nat) (l : Lane) : Lane :=
      { l with tx := { l.tx.emphasis (f.get O.uplinkEmphasis (side * 2 + u)) with slotAt := some f.tick } }
    let x := { x with up0 := begin 0 x.up0, up1 := begin 1 x.up1 }
    let r := x.down.rx.returns .downlink
    let x := if x.down.st = .aligned then { x with down := { x.down with rx := r.2 } } else x
    ((f.setSide side x).upSlot side 0 r.1).upSlot side 1 r.1
  else f

/-- `StreamStatus` (R93): the uplinks that carry data, and one-uplink operation.  R93 does not say when an uplink carries data:
here, on the leased side while its merger does not discard, where the uplink is aligned and synchronised and its downlink
aligned, whether or not class-2 credit is held. (DESIGN CHOICE, log entry 50) -/
def Fe.streamStatus (f : Fe) : Nat :=
  let carries (side u : Nat) : Bool := f.streams side && decide (((f.side side).up u).st = .aligned)
    && ((f.side side).up u).tx.synced && decide ((f.side side).down.st = .aligned)
  let n := b1 (carries 0 0) + b1 (carries 0 1) + b1 (carries 1 0) + b1 (carries 1 1)
  b1 (carries 0 0) + b1 (carries 0 1) * 2 + b1 (carries 1 0) * 4 + b1 (carries 1 1) * 8 + b1 (n = 1) * 16

/-! ## Timeouts (R137, R142, R143, R146)

Each takes effect once its tick has passed: what arrives in the tick of the expiry counts as arrived (R145). -/

/-- T_replay without acknowledgement progress on an uplink. -/
def Fe.upReplayTimeout (f : Fe) (side u : Nat) : Fe :=
  let x := f.side side
  let l := x.up u
  if l.tx.buf ≠ [] ∧ l.tx.timer + LaneKind.ingress.replayTime < f.tick then
    f.setSide side (x.setUp u { l with tx := l.tx.startReplay f.tick,
                                       stats := { l.stats with replays := satAdd 32 l.stats.replays 1 } })
  else f

/-- 10 ms without acknowledgement progress (R143): the uplink alone resets while its downlink is delivering. -/
def Fe.upProgressTimeout (f : Fe) (side u : Nat) : Fe :=
  let x := f.side side
  let l := x.up u
  if l.tx.buf ≠ [] ∧ l.tx.progress + 937500 < f.tick then
    let scope := if x.down.st = .aligned then u + 1 else 0
    (f.setSide side (x.reset 1 scope)).faultEvent 0x12 (side * 2 + u) 0x04
  else f

/-- No answer within 256 slots: the initiate run is repeated; every eighth consecutive one is a fault event (R142, R146). -/
def Fe.upAnswerTimeout (f : Fe) (side u : Nat) : Fe :=
  let x := f.side side
  let l := x.up u
  match l.tx.awaiting with
  | some d =>
    if d < f.tick then
      let n := l.tx.ansFails + 1
      let run : Run := { signal := 1, scope := l.tx.waitScope, left := 16 }
      let l := { l with tx := { l.tx with awaiting := none, ansFails := n, runs := (l.tx.addRun run).runs },
                        stats := { l.stats with answerTimeouts := satAdd 32 l.stats.answerTimeouts 1 } }
      let f := f.setSide side (x.setUp u l)
      if n % 8 = 0 then f.faultEvent 0x12 (side * 2 + u) 0x04 else f
    else f
  | none => f

/-! ## Bring-up of a downlink (R104) -/

def Fe.downSignal (f : Fe) (side : Nat) : Fe :=
  let x := f.side side
  match x.down.st with
  | .noSignal =>
    -- signal detect is watched from step 5 of the boot ladder on (R472)
    if f.sys.bootStep < 5 then f.setSide side { x with down := { x.down with signal := true } }
    else f.setSide side { x with down := { x.down with st := .cdrLock, since := f.tick, signal := true } }
  | .parked =>
    -- a downlink parked in SLEEP unparks on signal detect, and the front-end wakes (R112, R346)
    let d := { x.down with st := .unparking, since := f.tick, signal := true, unparkDue := some (f.tick + 75000) }
    let f := f.setSide side { x with down := d }
    if f.sys.mode = 1 then
      { f with sys := { f.sys with wakeStart := some (f.sys.wakeStart.getD f.tick) } } else f
  | _ => f.setSide side { x with down := { x.down with signal := true } }

def Fe.downNoSignal (f : Fe) (side : Nat) : Fe :=
  let x := f.side side
  let f := f.setSide side { x with down := { x.down with signal := false } }
  match x.down.st with
  | .parked | .disabled | .retired | .prbs | .noSignal => f
  | _ => f.downLost side .noSignal

def Fe.downCdr (f : Fe) (side : Nat) : Fe :=
  let x := f.side side
  match x.down.st with
  | .cdrLock | .unparking => f.setSide side { x with down := { x.down.unframe with st := .hunt, since := f.tick } }
  | _ => f

/-- No clock lock within 200 us (R104). -/
def Fe.downCdrTimeout (f : Fe) (side : Nat) : Fe :=
  let x := f.side side
  if x.down.st = .cdrLock ∧ x.down.since + 18750 < f.tick then
    f.setSide side { x with down := { x.down with st := .noSignal, since := f.tick, retries := x.down.retries + 1 } }
  else f

/-- Test mode on a downlink receiver, or its end: the lane restarts from HUNT (R102, R103). -/
def Fe.downPrbs (f : Fe) (side code : Nat) : Fe :=
  let x := f.side side
  if code = 0 then
    if x.down.st = .prbs then
      f.setSide side { x with down := { x.down.unframe with st := .hunt, since := f.tick, prbs := {} } }
    else f
  else
    let f := f.downLost side .prbs
    let x := f.side side
    f.setSide side
      { x with down := { x.down with prbs := { mode := code, until? := some (f.tick + f.get O.prbsDuration * secTicks) } } }

/-- Test mode on an uplink transmitter, or its end. -/
def Fe.upPrbs (f : Fe) (side u code : Nat) : Fe :=
  let x := f.side side
  let l := x.up u
  if code = 0 then
    if l.st = .prbs then
      f.setSide side (x.setUp u
        { l with st := if x.down.st = .aligned ∧ x.pllLocked then .aligned else .parked, since := f.tick, prbs := {} })
    else f
  else
    f.setSide side (x.setUp u
      { l with st := .prbs, since := f.tick,
               prbs := { mode := code, until? := some (f.tick + f.get O.prbsDuration * secTicks) } })

/-- Remove a delivered item once a command has taken it up. -/
def consume (lane : Nat) (ws : List Word) : List Delivered → List Delivered
  | [] => []
  | d :: ds => if d.lane = lane ∧ d.words = ws then ds else d :: consume lane ws ds

def Fe.take (f : Fe) (side : Nat) (ws : List Word) : Fe :=
  { f with sys := { f.sys with inbox := consume side ws f.sys.inbox } }

end Sys2Proof.Machine
end

