-- ==== Sys2Proof/Machine/FeSys.lean ====
section
/-! DEFINITION. The front-end's modes (R346), lease (R377-R380), fault accounting and repair (R351-R374) and reset and
boot (R460-R472, R482, R490). -/

namespace Sys2Proof.Machine

def Fe.withSys (f : Fe) (h : FeSys → FeSys) : Fe := { f with sys := h f.sys }

/-! ## Modes (R346, R348) -/

/-- Set the mode and what `FeMode` reports. -/
def Fe.setMode (f : Fe) (m : Nat) : Fe := (f.withSys fun y => { y with mode := m }).put O.feMode m

def Fe.anyWaking (f : Fe) : Bool := (List.range 16).any fun g => decide ((f.group g).pwr = .waking)

/-- STANDBY is reached once no group is still waking; a pending SLEEP then parks the lanes 1 ms later at the latest. -/
def Fe.settleMode (f : Fe) : Fe :=
  if f.sys.standbyDue && !f.anyWaking then
    let f := (f.withSys fun y => { y with standbyDue := false }).setMode 2
    if f.sys.sleepAfter then
      f.withSys fun y => { y with sleepAfter := false, sleepPark := some (f.tick + msTicks) }
    else f
  else f

/-- OBSERVE to STANDBY: awake groups sleep at once, waking groups when their wake completes (R346, R348). -/
def Fe.toStandby (f : Fe) : Fe :=
  let f := (List.range 16).foldl (fun f g =>
    match (f.group g).pwr with
    | .asleep => f
    | .waking => f.setGroup g { f.group g with sleepReq := true }
    | .awake => f.sleepGroup g) f
  (f.withSys fun y => { y with standbyDue := true }).settleMode

/-- STANDBY to OBSERVE: ALWAYS and AUTO groups wake, or stay awake once their wake completes (R61). -/
def Fe.toObserve (f : Fe) : Fe :=
  let f := (f.withSys fun y => { y with sleepPark := none, sleepAfter := false, standbyDue := false }).setMode 3
  (List.range 16).foldl (fun f g => if f.get O.groupPowerMode g = 1 then f else (f.keepAwake g).wakeGroup g) f

/-- A write of `FeModeRequest` (R346): 1 SLEEP, 2 STANDBY, 3 OBSERVE.  A sleeping front-end leaves SLEEP on signal
detect alone. -/
def Fe.requestMode (f : Fe) (m : Nat) : Fe :=
  if f.sys.mode = 1 then f
  else match m with
    | 1 => (f.withSys fun y => { y with sleepAfter := true }).toStandby
    | 2 => (f.withSys fun y => { y with sleepAfter := false, sleepPark := none }).toStandby
    | _ => if f.sys.mode = 3 ∧ f.sys.standbyDue = false then f else f.toObserve

/-- The response has been acknowledged: nothing waits and nothing is unacknowledged on the leased side's uplinks. -/
def Fe.quiet (f : Fe) : Bool :=
  match f.holder with
  | 0 => true
  | h => [0, 1].all fun u =>
      let t := ((f.side (h - 1)).up u).tx
      t.buf.isEmpty && t.p1.isEmpty && (f.side (h - 1)).ans1.isEmpty

def Lane.park (l : Lane) (now : Nat) : Lane :=
  match l.st with
  | .retired | .disabled => l
  | _ => { l with st := .parked, since := now, signal := false, good := 0, bad := 0, prbs := {} }

/-- The lanes park and the front-end is in SLEEP: only F0 runs (R346). -/
def Fe.sleepPark (f : Fe) : Fe :=
  match f.sys.sleepPark with
  | none => f
  | some t =>
    if f.quiet ∨ t ≤ f.tick then
      let f := [0, 1].foldl (fun f i =>
        let x := f.side i
        f.setSide i { x with down := x.down.park f.tick, up0 := x.up0.park f.tick, up1 := x.up1.park f.tick }) f
      ((f.withSys fun y => { y with sleepPark := none, wakeStart := none }).setMode 1).put O.baseSource 0
    else f

/-- 4,000 AO ticks in base ticks (R346). -/
def feWakeLimit : Nat := 375000

/-- A front-end woken by signal detect is in STANDBY: a downlink is ALIGNED, or the bound of 4,000 AO ticks has passed.  Its fast
clocks are judged anew (R338). -/
def Fe.wakeDone (f : Fe) : Fe :=
  match f.sys.wakeStart with
  | none => f
  | some t =>
    if f.sys.mode = 1 ∧ ((f.side 0).down.st = .aligned ∨ (f.side 1).down.st = .aligned ∨ t + feWakeLimit ≤ f.tick) then
      (f.withSys fun y => { y with wakeStart := none, clocks := Bank.mapVals {} (fun _ d => d.rejudge) y.clocks }).setMode 2
    else f

/-! ## The lease (R377, R378, R380, R318) -/

/-- 50,000 AO ticks (R377). -/
def leaseTicks : Nat := 50000

/-- The AO ticks, of 1 us, left on the lease timer. -/
def Fe.leaseTicksLeft (f : Fe) : Nat :=
  match f.sys.leaseEnd with
  | none => 0
  | some e => e - f.ao

/-- The remaining milliseconds of LEASE_ACK, rounded up (R378). -/
def Fe.leaseRemaining (f : Fe) : Nat := (f.leaseTicksLeft + 999) / 1000

/-- LEASE_ACK (R378). -/
def Fe.leaseAck (f : Fe) (side result : Nat) : Fe :=
  f.answer0 side (BitVec.ofNat 64 (0x12 * 2 ^ 56 + f.get O.leaseNumber * 2 ^ 24 + f.leaseRemaining * 16 + side * 8 + result))

/-- Management messages received in part are discarded (R318). -/
def Fe.dropPartial (f : Fe) (side : Nat) : Fe :=
  let x := f.side side
  f.setSide side { x with down := { x.down with rx := { x.down.rx with asm1 := [], asm3 := [] } } }

/-- The lease timer has reached 0: the holder becomes none (R377), and the merger discards what it holds (R380). -/
def Fe.expire (f : Fe) : Fe :=
  let h := f.get O.leaseHolder
  let f := (f.put O.leaseHolder 0).count O.leaseExpiries
  let f := f.withSys fun y => { y with leaseEnd := none, discard := true, awaitMark := none }
  ((f.dropPartial (h - 1)).dropMerger).reclock

/-- LEASE_EXPIRY: the holder becomes none once the AO tick of expiry has passed: a renewal in that tick still counts, a claim
in it is refused (R377, R145). (DEDUCED, log entry 9) -/
def Fe.lapse (f : Fe) : Fe :=
  match f.sys.leaseEnd with
  | some e => if e < f.ao then f.expire else f
  | none => f

/-- A refused claim or renewal (R377). -/
def Fe.refuse (f : Fe) (side result : Nat) : Fe := (f.count O.leaseRefusals).leaseAck side result

/-- The refusal result when side `side` finds the holder `h` (R378). -/
def heldResult (h side : Nat) : Nat := if h = side + 1 then 5 else 3

/-- LEASE_CLAIM on a side (R377).  `both` says that the other side's claim is registered in the same AO tick: side A is
then granted. (DEDUCED, log entry 37) -/
def Fe.leaseClaim (f : Fe) (side : Nat) (both : Bool) : Fe :=
  let f := f.lapse
  match f.get O.leaseHolder with
  | 0 =>
    if side = 1 ∧ both then f.refuse side 3
    else
      let f := ((f.put O.leaseHolder (side + 1)).put O.leaseNumber ((f.get O.leaseNumber + 1) % 2 ^ 32)).count O.leaseGrants
      let f := f.withSys fun y =>
        { y with leaseEnd := some (f.ao + leaseTicks), discard := true, awaitMark := some f.epoch.idx }
      f.dropMerger.reclock.leaseAck side 1
  | h => f.refuse side (heldResult h side)

/-- LEASE_RENEW with a lease number on a side (R377). (DEDUCED, log entry 37) -/
def Fe.leaseRenew (f : Fe) (side number : Nat) : Fe :=
  let f := f.lapse
  match f.get O.leaseHolder with
  | 0 => f.refuse side 6
  | h =>
    if h ≠ side + 1 then f.refuse side 3
    else if number ≠ f.get O.leaseNumber then f.refuse side 4
    else (f.withSys fun y => { y with leaseEnd := some (f.ao + leaseTicks) }).leaseAck side 2

/-- ECHO_REQUEST (R130, R159): obeyed on the leased downlink; the reply leaves in the first uplink slot that begins at
least 64 base ticks after the request's marker, which began `age` base ticks ago. -/
def Fe.echoRequest (f : Fe) (side tag age : Nat) : Fe :=
  if f.holder = side + 1 ∧ f.baseRuns then
    let x := f.side side
    f.setSide side { x with echoes := x.echoes ++ [(f.tick - age + 64, tag % 2 ^ 16)] }
  else f

/-! ## Fault accounting and self-tests (R351, R352, R355, R356) -/

def Fe.setHealth (f : Fe) (kind num : Nat) (h : Health) : Fe :=
  f.withSys fun y => { y with faults := Bank.set {} y.faults (resKey kind num) h }

/-- A slot is retired (R36): its input moves to the group spare under a lock, and the assignment is logged (R369, R371); a
host assignment is overridden and that reported, but not the move of a self-test (R356).  A second retirement in the group, or
that of the spare while it serves, loses the channel, which is logged (R372).  R36 says that a lost channel gives no hits in any
mode, and R37 has no row for a hit that then waits for its trailing edge: it is still delivered at that edge.
(DESIGN CHOICE, log entry 50) -/
def Fe.retireSlot (f : Fe) (g s : Nat) : Fe :=
  let r := f.group g
  let f := f.setGroup g { r with retired := orBits r.retired (2 ^ s) }
  let lost := if s = 16 then decide (f.assigned g < 16) else r.assignLocked || bitAt r.retired 16
  if lost then f.post 0x10 (slotIx g s) 0x14
  else if s = 16 then f
  else
    let host := decide (f.assigned g < 16 ∧ f.assigned g ≠ s ∧ r.testing = none)
    let f := f.moveSpare g s
    let f := (f.setGroup g { f.group g with assignLocked := true, testing := none }).post 0x10 (slotIx g s) 0x13
    if host then f.post 0x10 (slotIx g s) 0x15 else f

/-- The retired slots of the front-end, one bit each (R374). -/
def Fe.retiredMask (f : Fe) : Nat := (List.range 16).foldl (fun v g => v + (f.group g).retired % 2 ^ 17 * 2 ^ (17 * g)) 0

/-- What a resource's retirement does (R355).  A group's 16 channels are lost with its PLL, in one log entry. -/
def Fe.retireEffect (f : Fe) (kind num : Nat) : Fe :=
  match kind with
  | 0x10 => f.retireSlot (num / 17) (num % 17)
  | 0x11 => f.post kind num 0x14
  | 0x12 =>
    let x := f.side (num / 2)
    f.setSide (num / 2) (x.setUp (num % 2) { x.up (num % 2) with st := .retired })
  | 0x13 =>
    let f := f.downLost num .retired
    f
  | 0x14 =>
    let x := f.side num
    f.setSide num { x with up0 := { x.up0 with st := .retired }, up1 := { x.up1 with st := .retired } }
  | _ => f

/-- A resource becomes RETIRED (R352), with its log entry. -/
def Fe.retire (f : Fe) (kind num : Nat) : Fe :=
  let h := f.health kind num
  ((f.setHealth kind num { h with st := .retired, pending := false, testing := none }).post kind num 0x12).retireEffect kind num

/-- The spares of a front-end macro: 2 rows and 1 column (R358). (DEDUCED, log entry 33) -/
def feMacroSpares : Nat := 3

/-- The slot or group that a macro belongs to: the group whose sorter it holds, else as fused (R355), as (kind, number).
(DEDUCED, log entry 33) -/
def feMacroOwner (num : Nat) : Nat × Nat :=
  match (List.range 16).find? fun g => (Config.sorterMacro g).val = num with
  | some g => (0x11, g)
  | none =>
    let n := (Config.feMacroOwner num).val
    if n < 272 then (0x10, n) else (0x11, n - 272)

/-- A macro whose march test fails takes a spare; with none left it is retired, and with it the slot or group that it belongs
to (R355, R358). (DEDUCED, log entry 33) -/
def Fe.macroFails (f : Fe) (num : Nat) : Fe :=
  let used := Bank.get 0 f.sys.macroSpares num
  if used < feMacroSpares then
    let f := f.withSys fun y => { y with macroSpares := Bank.set 0 y.macroSpares num (used + 1) }
    (f.setHealth 0x15 num ((f.health 0x15 num).heal f.tick)).post 0x15 num 0x13
  else
    let f := f.retire 0x15 num
    let u := feMacroOwner num
    if (f.health u.1 u.2).st = .retired then f else f.retire u.1 u.2

/-- A self-test passes: HEALTHY again with the counter halved (R352). -/
def Fe.testPassed (f : Fe) (kind num : Nat) : Fe :=
  (f.setHealth kind num ((f.health kind num).heal f.tick)).post kind num 0x11

/-- A self-test fails: RETIRED, or a spare for a macro (R352, R358). -/
def Fe.testFailed (f : Fe) (kind num : Nat) : Fe := if kind = 0x15 then f.macroFails num else f.retire kind num

/-- Whether a SUSPECT resource can be drained now (R355). -/
def Fe.drained (f : Fe) (kind num : Nat) : Bool :=
  match kind with
  | 0x10 =>
    let g := num / 17
    num % 17 < 16 && (f.assigned g == 255 || f.assigned g == num % 17) && !(f.group g).assignLocked
      && !bitAt (f.group g).retired 16
  | 0x12 => decide (((f.side (num / 2)).up (1 - num % 2)).st = .aligned)
  | 0x13 => decide (f.holder ≠ 0 ∧ f.holder ≠ num + 1)
  | _ => false

/-- The base ticks a self-test lasts (R355). -/
def feTestTicks (kind : Nat) : Nat :=
  match kind with
  | 0x10 => 187500000 | 0x11 => 468750 | 0x12 => 9375000 | 0x13 => 9375000 | 0x14 => 468750 | _ => 93750

/-- A drained SUSPECT resource starts its self-test: a slot's input moves to slot 16 (R356). -/
def Fe.selfTestStart (f : Fe) (kind num : Nat) : Fe :=
  let h := f.health kind num
  if h.st = .suspect ∧ h.testing = none ∧ f.drained kind num then
    let f := f.setHealth kind num { h with testing := some (f.tick + feTestTicks kind), pending := true }
    match kind with
    | 0x10 =>
      let g := num / 17
      if f.assigned g = num % 17 then f
      else
        let f := f.moveSpare g (num % 17)
        f.setGroup g { f.group g with testing := some (num % 17) }
    | 0x12 =>
      let x := f.side (num / 2)
      f.setSide (num / 2) (x.setUp (num % 2) ((x.up (num % 2)).park f.tick))
    | _ => f
  else f

/-- A self-test ends (R352, R356).  A slot's input returns when the move to slot 16 still is the test's own, and not one that
the host or a retirement has made meanwhile (R36).  An event counted during the test stays counted on the halved counter (R372). -/
def Fe.selfTestComplete (f : Fe) (kind num : Nat) (passed : Bool) : Fe :=
  let h := f.health kind num
  match h.testing with
  | none => f
  | some t =>
    if t ≤ f.tick then
      if passed then
        let f := f.testPassed kind num
        match kind with
        | 0x10 =>
          let g := num / 17
          if (f.group g).testing = some (num % 17) then
            (f.moveSpare g 255).setGroup g { (f.moveSpare g 255).group g with testing := none }
          else f
        | 0x12 =>
          let x := f.side (num / 2)
          f.setSide (num / 2) (x.setUp (num % 2)
            { x.up (num % 2) with st := if x.down.st = .aligned ∧ x.pllLocked then .aligned else .parked, since := f.tick })
        | _ => f
      else f.testFailed kind num
    else f

/-! ## The front-end pass (R364) -/

/-- The resources of the front-end, as (kind, number), in the order of `FeResourceHealth` (R374). -/
def feResources : List (Nat × Nat) :=
  ((List.range 272).map fun n => (0x10, n)) ++ ((List.range 16).map fun n => (0x11, n))
  ++ ((List.range 4).map fun n => (0x12, n)) ++ ((List.range 2).map fun n => (0x13, n))
  ++ ((List.range 2).map fun n => (0x14, n)) ++ ((List.range 64).map fun n => (0x15, n))

/-- `FeAnnealRun` (R364, R374): in STANDBY only. -/
def Fe.annealRun (f : Fe) : Res Fe :=
  if f.sys.mode = 2 then
    .ok ((f.withSys fun y => { y with annealing := some f.tick }).put O.feAnnealStatus 1)
  else .error (Abort.owned 0x02000006)

/-- Test one SUSPECT resource in a pass; `failing` names those that fail. -/
def Fe.passTest (failing : List (Nat × Nat)) (f : Fe) (r : Nat × Nat) : Fe :=
  if (f.health r.1 r.2).st = .suspect then
    if failing.contains r then f.testFailed r.1 r.2 else f.testPassed r.1 r.2
  else f

/-- Test one HEALTHY slot in a pass: a failed BIST retires it directly (R353). -/
def Fe.passSlot (failing : List (Nat × Nat)) (f : Fe) (n : Nat) : Fe :=
  if (f.health 0x10 n).st = .healthy ∧ failing.contains (0x10, n) then f.retire 0x10 n else f

/-- A front-end pass ends (R364): the SUSPECT resources and one eighth of the HEALTHY slots have been tested. -/
def Fe.annealComplete (f : Fe) (failing : List (Nat × Nat)) : Fe :=
  match f.sys.annealing with
  | none => f
  | some _ =>
    let before := f.sys.faults.countP fun p => p.2.st = .retired
    let f := feResources.foldl (fun f r => f.passTest failing r) f
    let c := f.sys.annealCursor
    let f := (List.range 34).foldl (fun f i => f.passSlot failing ((c + i) % 272)) f
    let after := f.sys.faults.countP fun p => p.2.st = .retired
    (f.withSys fun y => { y with annealing := none, annealCursor := (c + 34) % 272 }).put O.feAnnealStatus
      (if before < after then 3 else 2)

/-- A write of `FeRetiredRestore` (R354, R374): it only adds retirements, and locks their assignments. -/
def Fe.retiredRestore (f : Fe) (v : Nat) : Fe :=
  let f := (List.range 272).foldl (fun f n =>
    if bitAt v n ∧ f.slotRetired (n / 17) (n % 17) = false then
      (f.setHealth 0x10 n { f.health 0x10 n with st := .retired, pending := false }).retireSlot (n / 17) (n % 17)
    else f) f
  f.put O.feRetiredRestore (orBits (f.get O.feRetiredRestore) v % 2 ^ 272)

/-! ## Health and log objects (R373, R374) -/

/-- A health entry (R373). -/
def Health.entry (h : Health) : Nat :=
  h.counter % 256 + h.st.code * 2 ^ 8 + b1 h.pending * 2 ^ 10 + b1 h.failedTest * 2 ^ 11 + h.events % 2 ^ 16 * 2 ^ 16

/-- Entries of `w` bits, the first lowest. -/
def packEntries (w : Nat) (es : List Nat) : Nat := es.foldr (fun e v => e % 2 ^ w + v * 2 ^ w) 0

def Fe.resourceHealth (f : Fe) : Nat := packEntries 32 (feResources.map fun r => (f.health r.1 r.2).entry)

def FeLogEntry.val (e : FeLogEntry) : Nat :=
  e.number % 2 ^ 32 + e.second % 2 ^ 32 * 2 ^ 32 + e.cause % 256 * 2 ^ 64 + e.kind % 256 * 2 ^ 72 + e.res % 2 ^ 16 * 2 ^ 80
    + e.counter % 256 * 2 ^ 96 + e.state % 256 * 2 ^ 104

def Fe.faultLog (f : Fe) : Nat := packEntries 128 (f.sys.log.map FeLogEntry.val)

/-! ## Reset and boot (R460-R466, R472, R482, R490) -/

/-- The front-end as a reset leaves it: configuration, tables, epochs, lease and counters at their defaults (R463). -/
def Fe.fresh (f : Fe) (cause : Nat) (keep : FeSys → FeSys) : Fe :=
  let od : Od := []
  let od := od.put O.feResetCause cause
  { tick := f.tick, od := od, free := f.free, sys := keep { resetTick := f.tick } }

/-- A power-on reset: the always-on domain too (R463).  `held` says that it lasts; so does one that finds RST_N low. -/
def Fe.powerOn (f : Fe) (held : Bool) : Fe :=
  let low : Option Nat := f.sys.rstLowSince.map fun _ => f.tick
  f.fresh 1 fun y => { y with inReset := held || low.isSome, decDue := f.tick + decrementTicks, rstLowSince := low }

/-- A system reset: the always-on domain's control, its accounting grid and the state of the pin stay (R463). -/
def Fe.systemReset (f : Fe) (cause : Nat) (held : Bool) : Fe :=
  let off := !f.sys.supplyOk || f.sys.overTemp || f.sys.buckStopped.isSome
  let g := f.fresh cause fun y =>
    { y with mode := if off then 0 else 2, inReset := held || off, supplyOk := f.sys.supplyOk, overTemp := f.sys.overTemp, buckStopped := f.sys.buckStopped,
             decDue := f.sys.decDue, rstLowSince := f.sys.rstLowSince, rstStuck := f.sys.rstStuck,
             rstHighSince := f.sys.rstHighSince, warnedAt := none }
  g.put O.feRstStuckRelease (f.get O.feRstStuckRelease)

/-- Supply below 4.2 V for 2 us (R460): the part is held in a power-on reset, in mode OFF (R346). -/
def Fe.brownOut (f : Fe) : Fe :=
  (f.powerOn true).withSys fun y => { y with mode := 0, supplyOk := false, overTemp := f.sys.overTemp }

/-- Supply above 4.4 V (R460, R461): reset is released and the ladder of R472 begins. -/
def Fe.supplyRelease (f : Fe) : Fe :=
  if f.sys.supplyOk then f
  else if f.sys.overTemp then f.withSys fun y => { y with supplyOk := true }
  else f.powerOn false

/-- RST_N has been low for `us` microseconds (R464). -/
def Fe.rstAssert (f : Fe) (us : Nat) : Fe :=
  if us < 1 ∨ f.sys.rstStuck then
    if f.sys.rstStuck then f.withSys fun y => { y with rstHighSince := none } else f
  else if us < 10 then
    let d := f.drawBool
    if d.1 then d.2.systemReset 2 false else d.2
  else (f.systemReset 2 true).withSys fun y => { y with rstLowSince := some (f.tick - us * 3000 / 32) }

/-- RST_N is sampled high (R464, R465). (DEDUCED, log entry 39) -/
def Fe.rstRelease (f : Fe) : Fe :=
  if f.sys.rstStuck then f.withSys fun y => { y with rstHighSince := some (y.rstHighSince.getD f.tick) }
  else match f.sys.rstLowSince with
    | none => f
    | some _ => (f.systemReset 2 false).withSys fun y => { y with rstLowSince := none }

/-- RST_N has been low for 5 s (R465); a rise in the AO tick of the limit counts as arrived (R473). -/
def Fe.rstStuck (f : Fe) : Fe :=
  match f.sys.rstLowSince with
  | none => f
  | some t =>
    if f.get O.feRstStuckRelease = 1 ∧ (t + 5 * secTicks) * 32 / 3000 < f.ao then
      let f := (f.systemReset 3 false).withSys fun y => { y with rstLowSince := none, rstStuck := true, rstHighSince := none }
      f.post 0 0 0x2B
    else f

/-- RST_N sampled high without a break for 100 ms after a stuck release is watched again (R465). -/
def Fe.rstRearm (f : Fe) : Fe :=
  match f.sys.rstHighSince with
  | none => f
  | some t =>
    if f.sys.rstStuck ∧ t + 100 * msTicks ≤ f.tick then
      f.withSys fun y => { y with rstStuck := false, rstHighSince := none }
    else f

/-- The reset that `FeResetCommand` requested is due (R466). -/
def Fe.resetDue (f : Fe) : Fe :=
  match f.sys.resetDue with
  | none => f
  | some t => if t ≤ f.tick then f.systemReset 7 false else f

/-- The power-up repair of R472 step 4 finds `failing`: a PLL among them is RETIRED (R352); the front-end is in STANDBY on F1 and watches both downlinks.
(DEDUCED, log entry 39) -/
def Fe.bootLadder (f : Fe) (failing : List (Nat × Nat)) : Fe :=
  if f.sys.inReset ∨ 5 ≤ f.sys.bootStep then f
  else
    let f := failing.foldl (fun f r =>
      if r.1 = 0x15 then f.macroFails r.2
      else if r.1 = 0x11 ∨ r.1 = 0x14 then (f.post r.1 r.2 0x0D).retire r.1 r.2
      else f) f
    let f := (f.withSys fun y => { y with bootStep := 5 }).setMode 2
    [0, 1].foldl (fun f i =>
      let x := f.side i
      if x.down.signal ∧ x.down.st = .noSignal then
        f.setSide i { x with down := { x.down with st := .cdrLock, since := f.tick } }
      else f) f

/-- VBUCK below 1.0 V for 2 ms (R482): the converter stops and the core loses its supply. (DEDUCED, log entry 39) -/
def Fe.buckStop (f : Fe) : Fe :=
  (f.systemReset 1 true).withSys fun y => { y with mode := 0, buckStopped := some f.tick }

/-- 20 ms after a buck stop the converter restarts (R482). -/
def Fe.buckRestart (f : Fe) : Fe :=
  match f.sys.buckStopped with
  | none => f
  | some t =>
    if t + 20 * msTicks ≤ f.tick then
      let held := !f.sys.supplyOk || f.sys.overTemp || f.sys.rstLowSince.isSome
      let off := !f.sys.supplyOk || f.sys.overTemp
      f.withSys fun y => { y with mode := if off then 0 else 2, buckStopped := none, inReset := held, bootStep := 1 }
    else f

/-- The die is above 110 degrees (R490): FE_FAULT, again every 10 s. -/
def Fe.overTempWarning (f : Fe) (milliC : Int) : Fe :=
  if 110000 < milliC then
    match f.sys.warnedAt with
    | some t =>
      if t + 10 * secTicks ≤ f.tick then (f.withSys fun y => { y with warnedAt := some f.tick }).post 0 0 0x2C else f
    | none => (f.withSys fun y => { y with warnedAt := some f.tick }).post 0 0 0x2C
  else f.withSys fun y => { y with warnedAt := none }

/-- The die is above 125 degrees (R490): a brown-out that lasts until it has cooled below 115 degrees. -/
def Fe.overTempShutdown (f : Fe) (milliC : Int) : Fe :=
  if 125000 < milliC then
    (f.powerOn true).withSys fun y => { y with mode := 0, overTemp := true, supplyOk := f.sys.supplyOk } else f

def Fe.overTempRecovery (f : Fe) (milliC : Int) : Fe :=
  if f.sys.overTemp ∧ milliC < 115000 then
    if f.sys.supplyOk then f.powerOn false else f.withSys fun y => { y with overTemp := false }
  else f

/-- The front-end runs: powered, out of reset and past step 5 of its ladder (R472). -/
def Fe.up (f : Fe) : Bool := !f.sys.inReset && decide (5 ≤ f.sys.bootStep)

/-- The front-end runs and its base clock with it, so that it serves its dictionary (R346). -/
def Fe.runs (f : Fe) : Bool := f.up && f.baseRuns

end Sys2Proof.Machine
end

