-- ==== Sys2Proof/Machine/FeDict.lean ====
section
/-! DEFINITION. The front-end's object dictionary (R298-R300, R326, R329, R340, R341, R350, R495-R499): what each read
returns and each write does, and its management requests (R307, R308, R318). -/

namespace Sys2Proof.Machine

/-! ## Test modes (R102, R103, R118) -/

/-- A write of `UplinkPrbsMode`. (DEDUCED, log entry 17) -/
def Fe.writeUpPrbs (f : Fe) (v : Nat) : Res Fe :=
  if (List.range 4).any fun n => 3 < entryGet 4 v n then .error Abort.range
  else
    let old := f.get O.uplinkPrbsMode
    let f := (List.range 4).foldl (fun f n =>
      if entryGet 4 old n = entryGet 4 v n then f else f.upPrbs (n / 2) (n % 2) (entryGet 4 v n)) f
    .ok (f.put O.uplinkPrbsMode v)

/-- A write of `DownlinkPrbsMode`: never into test mode on the downlink on which the request arrived.
(DEDUCED, log entry 17) -/
def Fe.writeDownPrbs (f : Fe) (side v : Nat) : Res Fe :=
  if (List.range 2).any fun n => 3 < entryGet 4 v n then .error Abort.range
  else if entryGet 4 v side ≠ 0 then .error (Abort.owned (ownerCode 0x05 side))
  else
    let old := f.get O.downlinkPrbsMode
    let f := (List.range 2).foldl (fun f n =>
      if entryGet 4 old n = entryGet 4 v n then f else f.downPrbs n (entryGet 4 v n)) f
    .ok (f.put O.downlinkPrbsMode v)

/-- `PrbsDuration` has passed since the write that set a test mode: it ends by itself, and the object reads 0 there. -/
def Fe.prbsEndUp (f : Fe) (side u : Nat) : Fe :=
  match ((f.side side).up u).prbs.until? with
  | some t =>
    if t ≤ f.tick then
      (f.upPrbs side u 0).put O.uplinkPrbsMode (entrySet 4 (f.get O.uplinkPrbsMode) (side * 2 + u) 0)
    else f
  | none => f

def Fe.prbsEndDown (f : Fe) (side : Nat) : Fe :=
  match (f.side side).down.prbs.until? with
  | some t =>
    if t ≤ f.tick then (f.downPrbs side 0).put O.downlinkPrbsMode (entrySet 4 (f.get O.downlinkPrbsMode) side 0) else f
  | none => f

/-- A PRBS checker declares lock, or counts an error, on the word of the command (R102). (DEDUCED, log entry 17) -/
def Fe.prbsLock (f : Fe) (side : Nat) : Fe :=
  let x := f.side side
  if x.down.st = .prbs then f.setSide side { x with down := { x.down with prbs := x.down.prbs.lock } } else f

def Fe.prbsError (f : Fe) (side bits : Nat) : Fe :=
  let x := f.side side
  let r := x.down.prbs.bitError bits
  let f := f.setSide side { x with down := { x.down with prbs := r.2 } }
  if r.1 then f.count O.fePrbsErrors side else f

/-! ## Gating (R340, R341, R499) -/

/-- Probe entry `n` is enabled. -/
def Fe.probeOn (f : Fe) (n : Nat) : Bool := bitAt (f.get O.feProbe n) 16

/-- The gate of block `b` closes; `forced` after 64 busy cycles. (DEDUCED, log entry 35) -/
def Fe.closeGate (f : Fe) (b : Nat) (forced : Bool) : Fe :=
  f.withSys fun y => { y with
    gated := orBits y.gated (2 ^ b), gateForced := if forced then orBits y.gateForced (2 ^ b) else y.gateForced,
    gatesPending := if bitAt y.gatesPending b then y.gatesPending - 2 ^ b else y.gatesPending }

def Fe.openGate (f : Fe) (b : Nat) : Fe :=
  f.withSys fun y => { y with
    gated := if bitAt y.gated b then y.gated - 2 ^ b else y.gated,
    gatesPending := if bitAt y.gatesPending b then y.gatesPending - 2 ^ b else y.gatesPending }

/-- A write of `FeGateControl`; `busy` is the mask of blocks whose bus interface is busy at the write. -/
def Fe.writeGates (f : Fe) (busy v : Nat) : Res Fe :=
  match (List.range 2).find? fun n => bitAt v 0 && f.probeOn n with
  | some n => .error (Abort.owned (ownerCode 0x06 n))
  | none =>
    let f := f.put O.feGateControl v
    .ok ((List.range 2).foldl (fun f b =>
      if bitAt v b then
        if bitAt f.sys.gated b then f
        else if bitAt busy b then f.withSys fun y => { y with gatesPending := orBits y.gatesPending (2 ^ b) }
        else f.closeGate b false
      else f.openGate b) f)

/-- A gate that has waited for 64 busy cycles is forced. (DEDUCED, log entry 35) -/
def Fe.forceGate (f : Fe) (b : Nat) : Fe := if bitAt f.sys.gatesPending b then f.closeGate b true else f

/-- In each base tick the interface of a block whose gate waits may become idle, and the gate closes (R340); when it does, the
spec leaves to the traffic: a free choice. (DESIGN CHOICE, log entry 53) -/
def Fe.gatesIdle (f : Fe) : Fe :=
  (List.range 2).foldl (fun f b =>
    if bitAt f.sys.gatesPending b then
      let d := f.drawBool
      if d.1 then d.2.closeGate b false else d.2
    else f) f

/-- The gateable block that holds an object of the front-end, if any. -/
def feBlockOf (index : Nat) : Option Nat :=
  match index with | 0x2062 => some 0 | 0x2063 => some 1 | _ => none

/-! ## Probes (R495, R497) -/

/-- The frequency in kHz of a clock signal of the catalogue; `none` for a signal that is no clock. -/
def feProbeClock (s : Nat) : Option Nat :=
  if s < 9 then some ([1000, 50000, 25000, 93750, 93750, 93750, 375000, 375000, 12000000].getD s 0)
  else if 0x10 ≤ s ∧ s < 0x20 then some 375000
  else none

/-- Whether a number stands in the catalogue. -/
def feProbeListed (s : Nat) : Bool :=
  decide (s < 9) || decide (0x10 ≤ s ∧ s < 0x40) || decide (0x40 ≤ s ∧ s ≤ 0x4B) || s == 0x50
    || decide (0x100 ≤ s ∧ s < 0x200)

/-- Whether a probe entry is refused (R495). -/
def feProbeBad (v : Nat) : Bool :=
  let s := bits v 11 0
  let k := bits v 15 12
  !feProbeListed s || (match feProbeClock s with
    | none => decide (k ≠ 0)
    | some khz => decide (187500 * 2 ^ k < khz))

def Fe.writeProbe (f : Fe) (n v : Nat) : Res Fe :=
  if bitAt f.sys.gated 0 then .error (Abort.owned 0x02000005)
  else
    let v := v % 2 ^ 18
    if feProbeBad v then .error Abort.range else .ok (f.put O.feProbe v n)

/-! ## Reads -/

/-- The status bits of one clock domain (R349): running and stable are what the part finds now. -/
def ClockDom.entry (d : ClockDom) (running stable fallback : Bool) : Nat :=
  b1 running + b1 stable * 2 + b1 fallback * 4 + b1 d.forced * 8 + b1 d.dead * 16 + min d.deadCount 255 * 2 ^ 8

/-- An uplink of a side is unparked, in test mode too, so that the side's bit clock runs (R331). -/
def FeSide.clocked (x : FeSide) : Bool := [x.up0, x.up1].any fun l => decide (l.st = .aligned) || decide (l.st = .prbs)

/-- `FeClockStatus` (R350): entries F0-F8; its default until the boot ladder has left its first step (DESIGN CHOICE, log entry
1).  F8 has two sides and one entry: running while a side runs, stable while every running side is, the other bits and the count
of dead verdicts those of both sides together. (DESIGN CHOICE, log entry 53). (DESIGN CHOICE, log entry 1) -/
def Fe.clockStatus (f : Fe) : Nat :=
  let awake := decide (2 ≤ f.sys.mode)
  let src := f.get O.baseSource
  let dom (n : Nat) : ClockDom := Bank.get {} f.sys.clocks n
  let run (n : Nat) : Bool := !(dom n).dead && match n with
    | 0 => true
    | 1 => awake
    | 2 => awake && f.get O.crystalFitted == 1
    | 3 => decide ((f.side 0).down.st ≠ .parked)
    | 4 => decide ((f.side 1).down.st ≠ .parked)
    | 5 => f.baseRuns
    | 6 => f.baseRuns && src != 0
    | 7 => (List.range 16).any fun g => decide ((f.group g).pwr ≠ .asleep)
    | 8 => src != 0 && (f.side 0).clocked
    | _ => src != 0 && (f.side 1).clocked
  let stable (n : Nat) : Bool := run n && match n with
    | 3 => decide ((f.side 0).down.st = .aligned)
    | 4 => decide ((f.side 1).down.st = .aligned)
    | 5 => src == 1 || src == 2 || (src == 3 && (dom 5).stable)
    | 7 => (List.range 16).all fun g => (f.group g).pwr == .asleep || ((f.group g).pll && (f.group g).dll)
    | _ => (dom n).stable
  let f8 : ClockDom := { forced := (dom 8).forced || (dom 9).forced, dead := (dom 8).dead || (dom 9).dead,
                         deadCount := (dom 8).deadCount + (dom 9).deadCount }
  if f.sys.bootStep ≤ 1 then 0
  else packEntries 16 (((List.range 8).map fun n =>
      (dom n).entry (run n) (stable n) (n == 5 && f.baseRuns && (src == 3 || src == 0)))
    ++ [f8.entry (run 8 || run 9) ((run 8 || run 9) && [8, 9].all fun n => !run n || stable n) false])

/-- The value that a read of object `o`, sub-index offset `i`, returns. (DESIGN CHOICE, log entry 47) -/
def Fe.readVal (f : Fe) (o : Obj) (i : Nat) : Res Nat :=
  match o.index, o.sub with
  | 0x2000, 2 => .ok (Config.feRevision % 2 ^ 32)
  | 0x2000, 3 => .ok (Config.feSerial % 2 ^ 64)
  | 0x2003, _ => .ok f.clockStatus
  | 0x2005, 2 => .ok (f.sys.gated + f.sys.gateForced * 16)
  | 0x200B, _ => .ok f.groupAwake
  | 0x200C, 1 => .ok f.holder
  | 0x200C, 3 => .ok (if f.holder = 0 then 0 else nearest f.leaseTicksLeft 1000)
  | 0x2016, 1 => .ok (f.spareStatus i)
  | 0x2017, _ => .ok f.baselineStatus
  | 0x2018, _ => .ok f.channelLive
  | 0x2020, 1 => .ok (f.tdcStatus i)
  | 0x2027, _ => f.readTable
  | 0x2028, _ => .ok f.culletStatus
  | 0x202B, _ => .ok slotDelays
  | 0x2031, _ => .ok f.rateExponents
  | 0x2033, 1 => .ok (f.sorterStatus i)
  | 0x2037, 1 => .ok f.streamStatus
  | 0x2040, 1 => .ok (laneStCode (f.side i).down.st)
  | 0x2050, _ => .ok f.resourceHealth
  | 0x2051, _ => .ok f.faultLog
  | 0x2052, 3 => .ok f.retiredMask
  | 0x2060, 2 => .ok (min (nearest (f.tick - f.sys.resetTick) secTicks) (2 ^ 32 - 1))
  | 0x2063, 0 => .ok (o.dflt i)
  | 0x2063, s => .ok (if f.tick < f.sys.resetTick + msTicks then 0 else Config.freeNat f.free % 2 ^ (if s = 1 then 32 else 16))
  | _, _ => .ok (f.get o i)
where
  /-- The code of a lane state in `LaneState` (R117). -/
  laneStCode : LaneSt → Nat
    | .disabled => 0 | .noSignal => 1 | .cdrLock => 2 | .hunt => 3 | .aligned => 4 | .detect => 5 | .train => 6
    | .lock => 7 | .caps => 8 | .active => 9 | .parked => 10 | .unparking => 11 | .prbs => 12 | .retired => 13

/-- What a read does besides returning its value: read-to-clear bits and peaks. (DESIGN CHOICE, log entry 47) -/
def Fe.readEffect (f : Fe) (o : Obj) (i : Nat) : Fe :=
  match o.index, o.sub with
  | 0x2003, _ => f.withSys fun y => { y with clocks := Bank.mapVals {} (fun _ d => { d with forced := false }) y.clocks }
  | 0x2005, 2 => f.withSys fun y => { y with gateForced := 0 }
  | 0x2017, _ => f.clearBaseline
  | 0x2033, 1 => f.resetPeak i
  | 0x2063, s => if s = 0 then f else { f with free := f.free + 1 }
  | _, _ => f

/-- Read (index, sub-index): length, value, and the front-end after the read. -/
def Fe.readObj (f : Fe) (index sub : Nat) : Res (Nat × Nat × Fe) :=
  match lookupObj feObjs index sub with
  | .error a => .error a
  | .ok (o, i) =>
    match o.readable with
    | .error a => .error a
    | .ok _ =>
      match feBlockOf index with
      | some b =>
        if bitAt f.sys.gated b ∧ o.access ≠ .const then .ok (o.bytes, 0, f.count O.feGatedAccesses)
        else (f.readVal o i).map fun v => (o.bytes, v, f.readEffect o i)
      | none => (f.readVal o i).map fun v => (o.bytes, v, f.readEffect o i)

/-! ## Writes -/

/-- Apply a checked write (R300, R37): the object's own effect. -/
def Fe.applyObj (f : Fe) (side busy : Nat) (o : Obj) (i v : Nat) : Res Fe :=
  match o.index, o.sub with
  | 0x2002, _ => .ok (f.requestMode v)
  | 0x2005, 1 => f.writeGates busy v
  | 0x2008, _ => .ok (f.writePowerMode i v)
  | 0x200A, _ => f.writeGroupRequest v
  | 0x2013, _ => f.writeChannelMode v
  | 0x2015, _ => f.writeSpareAssign i v
  | 0x2024, 1 => .ok (f.writeExponent v)
  | 0x2024, 4 => .ok (f.writeFreeze v)
  | 0x2027, _ => f.loadTable v
  | 0x2041, _ => if 40 < v % 16 + v / 16 then .error Abort.range else .ok (f.put o v i)
  | 0x2043, 1 => f.writeUpPrbs v
  | 0x2043, 2 => f.writeDownPrbs side v
  | 0x2052, 1 => f.annealRun
  | 0x2052, 3 => .ok (f.retiredRestore v)
  | 0x2061, _ => .ok (f.withSys fun y => { y with resetDue := some (f.tick + msTicks) })
  | 0x2062, _ => f.writeProbe i v
  | _, _ => .ok (f.put o v i)

/-- A write to a block whose clock is gated is discarded without abort and counted (R340); a probe entry, which claims the
multiplexer, is refused instead (R341, R499). -/
def Fe.discardsWrite (f : Fe) (o : Obj) : Bool :=
  match feBlockOf o.index with
  | some b => bitAt f.sys.gated b && !(o.index == 0x2062 && o.sub != 0)
  | none => false

/-- Write (index, sub-index), `len` bytes of value `v` (R298-R300). -/
def Fe.writeObj (f : Fe) (side busy index sub len v : Nat) : Res Fe :=
  match lookupObj feObjs index sub with
  | .error a => .error a
  | .ok (o, i) =>
    if f.discardsWrite o then .ok (f.count O.feGatedAccesses)
    else match o.checkWrite false len v with
      | .error a => .error a
      | .ok w => f.applyObj side busy o i w

/-- A host write that reaches the front-end on a downlink: refused unless that downlink's lease is current (R318); a refused
one changes nothing but the record of the abort (R322).  The dictionary is served while the base clock runs (R346). -/
def Fe.hostWrite (f : Fe) (side busy index sub len v : Nat) : Fe :=
  if f.baseRuns = false then f
  else if f.holder = side + 1 then
    match f.writeObj side busy index sub len v with
    | .ok f' => f'
    | .error a => f.recordAbort side a index sub 0
  else (f.count O.feUnleasedRequests).recordAbort side Abort.unreachable index sub 0

/-- A host read on a downlink. -/
def Fe.hostRead (f : Fe) (side index sub : Nat) : Fe :=
  if f.baseRuns = false then f
  else if f.holder = side + 1 then
    match f.readObj index sub with
    | .ok r => r.2.2
    | .error a => f.recordAbort side a index sub 0
  else (f.count O.feUnleasedRequests).recordAbort side Abort.unreachable index sub 0

/-! ## Management requests (R134, R135, R307, R308, R318) -/

/-- Execute a request: its answer or abort, and the front-end after it. -/
def Fe.perform (f : Fe) (side : Nat) (r : Req) : Res Answer × Fe :=
  if r.poisoned then (.error Abort.hardware, f)
  else match r.op with
    | 1 =>
      match f.readObj r.index r.sub with
      | .ok (n, v, f') => (.ok { len := n, val := v }, f')
      | .error a => (.error a, f)
    | 2 =>
      let unstaged : Bool := match lookupObj feObjs r.index r.sub with
        | .ok (o, _) => o.unstaged f.sys.staging r.len
        | .error _ => false
      if unstaged then (.error Abort.noStaging, f)
      else match f.writeObj side 0 r.index r.sub r.len r.val with
        | .ok f' => (.ok {}, f')
        | .error a => (.error a, f)
    | 3 =>
      match f.readObj r.index r.sub with
      | .ok (n, v, f') =>
        match r.readAt n v with
        | .ok a => (.ok a, f')
        | .error a => (.error a, f)
      | .error a => (.error a, f)
    | 4 =>
      match lookupObj feObjs r.index r.sub with
      | .error a => (.error a, f)
      | .ok (o, _) =>
        match o.writable false with
        | .error a => (.error a, f)
        | .ok _ =>
          let s := stage f.sys.staging f.tick side true r
          let f := f.withSys fun y => { y with staging := s.2 }
          match s.1 with
          | .error a => (.error a, f)
          | .ok none => (.ok {}, f)
          | .ok (some (len, val)) =>
            match f.writeObj side 0 r.index r.sub len val with
            | .ok f' => (.ok {}, f')
            | .error a => (.error a, f)
    | _ => (.error Abort.badOpcode, f)

/-- Answer a request received at tick `at_` and keep its transaction (R308). -/
def Fe.answerReq (f : Fe) (side at_ : Nat) (r : Req) (a : Res Answer) : Fe :=
  let ws := r.response a
  let f := match a with | .ok _ => f | .error e => f.recordAbort side e r.index r.sub r.tid
  let t : Trans := { id := r.tid, opcode := r.op, index := r.index, sub := r.sub, resp := some ws,
                     rcvd := at_ }
  (f.keepTrans side t).respond side ws

/-- A management request on a downlink (R318, R308): unleased, duplicate, or executed once.  Requests wait while the base clock
does not run (R346). -/
def Fe.request (f : Fe) (side : Nat) (r : Req) : Fe :=
  if f.baseRuns = false then f
  else
  let at_ := receivedAt side r.words f.sys.inbox f.tick
  let f := f.take side r.words
  if f.holder ≠ side + 1 then
    let f := f.count O.feUnleasedRequests
    if f.knownId side r.tid then (f.recordAbort side Abort.unreachable r.index r.sub r.tid).respond side
      (r.response (.error Abort.unreachable))
    else f.answerReq side at_ r (.error Abort.unreachable)
  else match f.duplicate side r with
    | some g => g
    | none =>
      let p := f.perform side r
      p.2.answerReq side at_ r p.1

/-- The 1 s limit of a staging at the front-end (R305). -/
def Fe.stagingTimeout (f : Fe) (side index sub : Nat) : Fe :=
  f.withSys fun y => { y with staging := expireStaging y.staging f.tick side index sub }

/-! ## Configuration scrub (R368) -/

/-- A scrub of the configuration SRAM: `corrected` words, `majority` outvoted critical bits, and the objects (index,
sub-index) of uncorrectable words, which take their defaults at once. -/
def Fe.configScrub (f : Fe) (corrected majority : Nat) (lost : List (Nat × Nat)) : Fe :=
  let f := (f.count O.configCorrected 0 corrected).count O.majorityRepairs 0 majority
  lost.foldl (fun f p =>
    match lookupObj feObjs p.1 p.2 with
    | .error _ => f
    | .ok (o, i) =>
      if o.access = .rw ∧ o.persist then
        let f := match f.applyObj 2 0 o i (o.dflt i) with | .ok g => g | .error _ => f.put o (o.dflt i) i
        (f.count O.configUncorrected).post 0 p.1 0x23
      else f) f

/-! ## Clock monitors (R332, R334, R336, R338) -/

def Fe.dom (f : Fe) (n : Nat) : ClockDom := Bank.get {} f.sys.clocks n
def Fe.setDom (f : Fe) (n : Nat) (d : ClockDom) : Fe := f.withSys fun y => { y with clocks := Bank.set {} y.clocks n d }

/-- A monitor declares the source of domain `n` dead (R332): the base clock may lose its source (R334, R335). -/
def Fe.clockDead (f : Fe) (n : Nat) : Fe :=
  let d := f.dom n
  if d.dead then f
  else
    let f := f.setDom n { d with dead := true, deadCount := min (d.deadCount + 1) 255, stable := false, good := 0 }
    let src := f.get O.baseSource
    if (n = 3 ∧ src = 1) ∨ (n = 4 ∧ src = 2) then (f.setDom 5 { f.dom 5 with forced := true }).baseLoss
    else if n = 2 ∧ src = 3 then
      ((f.setDom 5 { f.dom 5 with forced := true }).put O.baseSource 0).sleepAll.setMode (if f.sys.mode = 1 then 1 else 2)
    else if n = 1 ∧ src = 0 ∧ f.sys.mode ≠ 1 ∧ f.crystalReady then (f.setDom 5 { f.dom 5 with forced := true }).onCrystal
    else f

/-- A dead source is declared alive again (R332): F5 returns to the active downlink when it is ALIGNED (R334).  With no live
source F5 has stopped, and restarts on the first that lives (R333): on the crystal here, on the monitor clock by itself. -/
def Fe.clockAlive (f : Fe) (n : Nat) : Fe :=
  let d := f.dom n
  if d.dead then
    let f := f.setDom n { d with dead := false, aliveSince := some f.tick }
    if n = 3 ∨ n = 4 then f.reclock
    else if n = 2 ∧ f.get O.baseSource = 0 ∧ f.sys.mode ≠ 1 ∧ (f.dom 1).dead ∧ f.crystalReady then f.onCrystal
    else f
  else f

/-- One 1 ms stability window (R338): three good ones in a row make the domain stable; 100 windows without it restart the
domain once, and after a second failure it is to be reported.  The domain, and whether it is reported now. -/
def ClockDom.window (d : ClockDom) (good : Bool) : ClockDom × Bool :=
  if d.dead ∨ d.stable then (d, false)
  else if good ∧ 2 ≤ d.good then
    ({ d with stable := true, good := 0, windows := 0, restarted := false, failed := false }, false)
  else
    let d := { d with good := if good then d.good + 1 else 0, windows := min (d.windows + 1) 100 }
    if 100 ≤ d.windows then
      if d.restarted then ({ d with failed := true }, !d.failed) else ({ d with good := 0, windows := 0, restarted := true }, false)
    else (d, false)

/-- A stability window of a front-end domain; 8 and 9 are F8 of side A and side B.  F7 has its lock detectors and is not judged.
R355 gives the other domains no PLL to count against: their failure is posted without a resource. (DEDUCED, log entry 34) -/
def Fe.stabilityWindow (f : Fe) (n : Nat) (good : Bool) : Fe :=
  if n = 7 then f
  else
    let r := (f.dom n).window good
    let f := f.setDom n r.1
    if r.2 then (if 8 ≤ n then f.faultEvent 0x14 (n - 8) 0x08 else f.post 0 0 0x08) else f

/-! ## Uplink PLLs and unpark deadlines (R113, R115) -/

/-- The uplink PLL of a side loses lock: its uplinks leave service, one fault event. -/
def Fe.pllLoss (f : Fe) (side : Nat) : Fe :=
  let x := f.side side
  if x.pllLocked then
    (f.setSide side { x with pllLocked := false, up0 := x.up0.parkUp, up1 := x.up1.parkUp }).faultEvent 0x14 side 0x08
  else f

/-- It relocks: the uplinks start again while the side's downlink is ALIGNED. -/
def Fe.pllRelock (f : Fe) (side : Nat) : Fe :=
  let x := f.side side
  if x.pllLocked then f
  else
    let x := { x with pllLocked := true }
    f.setSide side (if x.down.st = .aligned then x.startUps f.tick else x)

/-- 800 us after an unpark a downlink that is not ALIGNED stays in HUNT (R113). -/
def Fe.unparkDeadline (f : Fe) (side : Nat) : Fe :=
  let x := f.side side
  match x.down.unparkDue with
  | none => f
  | some t =>
    if t < f.tick then
      let d := if x.down.st = .unparking then { x.down.unframe with st := .hunt, since := f.tick } else x.down
      f.setSide side { x with down := { d with unparkDue := none } }
    else f

/-- What the front-end does of itself within this base tick, unless a command has done it: the marks that are due execute
(R42), a flywheel epoch starts at its beat (R44), the pulsers emit (R54), the uplink slots of the tick leave (R95), a waiting gate
closes (R340). (DESIGN CHOICE, log entry 2) -/
def Fe.dueNow (f : Fe) : Fe :=
  let f := (List.range 16).foldl (fun f g => f.injectFree g) f.epochsDue
  if f.up then ((f.uplinkSlot 0).uplinkSlot 1).gatesIdle else f

/-- The front-end's part of one base-tick period: what is due in the tick that ends, then the next tick, which begins with the
marks and the flywheel epoch due in it (R42-R44).  The base-tick counter stands still while the base clock does not run (R331,
R333, R346). (DESIGN CHOICE, log entry 2) -/
def Fe.tickOn (f : Fe) : Fe :=
  if f.baseRuns then
    let f := f.dueNow
    ({ f with tick := f.tick + 1, now := f.now + 1 } : Fe).epochsDue
  else { f with tick := f.tick + 1 }

end Sys2Proof.Machine
end

