-- ==== Sys2Proof/Machine/Marver.lean ====
section
/-! DEFINITION. The Marver coder (R268-R273): a dictionary coder on 16-bit symbols, as a pure function of the bytes. -/

namespace Sys2Proof.Machine

/-- The coder within a block (R270).  `dict` maps prefix times 65,536 plus symbol to the learned code, `n` is the next learned
code, `w` the pending code.  `dn` and `prev` are what the decoder of R274 holds; `acc` and `nbits` the code section so far;
`bytes` the block's input so far, newest first. -/
structure Coder where
  dict : Bank Nat := []
  n : Nat := 65538
  w : Option Nat := none
  dn : Nat := 65538
  prev : Bool := false
  acc : Nat := 0
  nbits : Nat := 0
  bytes : List Nat := []
  deriving DecidableEq, Repr

/-- The last learned code. -/
def lastCode : Nat := 262143

/-- The width of the next code, from the decoder's state (R269, R274). -/
def Coder.width (c : Coder) : Nat :=
  let add := if c.prev ∧ c.dn ≤ lastCode then 1 else 0
  if c.dn + add ≤ 131072 then 17 else 18

/-- Put a code into the code section. -/
def Coder.put (c : Coder) (code : Nat) : Coder :=
  { c with acc := c.acc + code * 2 ^ c.nbits, nbits := c.nbits + c.width }

/-- Emit a code of a string: the decoder learns an entry from all but the first. -/
def Coder.emit (c : Coder) (code : Nat) : Coder :=
  let d := c.put code
  { d with dn := if c.prev ∧ c.dn ≤ lastCode then c.dn + 1 else c.dn, prev := true }

/-- Emit RESET: both dictionaries are cleared. -/
def Coder.reset (c : Coder) : Coder :=
  { c.put 65536 with dict := [], n := 65538, dn := 65538, prev := false }

/-- One input symbol (R270). -/
def Coder.symbol (c : Coder) (k : Nat) : Coder :=
  match c.w with
  | none => { c with w := some k }
  | some w =>
    match Bank.find? c.dict (w * 65536 + k) with
    | some e => { c with w := some e }
    | none =>
      let d := c.emit w
      let d := if d.n ≤ lastCode then { d with dict := Bank.insert d.dict (w * 65536 + k) d.n, n := d.n + 1 } else d.reset
      { d with w := some k }

/-- The symbols of bytes; an odd last byte has a high byte of 0 (R268). -/
def symbolsOf : List Nat → List Nat
  | [] => []
  | [a] => [a]
  | a :: b :: rest => (a + b * 256) :: symbolsOf rest

/-- Take in bytes, in whole symbols. -/
def Coder.input (c : Coder) (bs : List Nat) : Coder :=
  let d := (symbolsOf bs).foldl Coder.symbol c
  { d with bytes := bs.reverse ++ d.bytes }

/-- End of block: the pending code and END (R270). -/
def Coder.flush (c : Coder) : Coder :=
  let c := match c.w with | some w => c.emit w | none => c
  { c.put 65537 with w := none }

/-- The code section, in whole words. -/
def Coder.codeWords (c : Coder) : List Word := dataWords ((c.nbits + 63) / 64) c.acc

/-- The words of a flushed block (R273). -/
def Coder.block (c : Coder) (stream number : Nat) (history poisoned : Bool) : List Word :=
  let bs := c.bytes.reverse
  let codes := c.codeWords
  BitVec.ofNat 64 (bs.length % 2 ^ 32 + number % 2 ^ 16 * 2 ^ 32 + stream % 64 * 2 ^ 48 + b1 history * 2 ^ 54
      + b1 poisoned * 2 ^ 55 + 2 ^ 56 + 0xA * 2 ^ 60)
    :: BitVec.ofNat 64 (crc32c bs + 8 * codes.length * 2 ^ 32) :: codes

/-- The coder at the start of the next block of the same history. -/
def Coder.nextBlock (c : Coder) : Coder := { dict := c.dict, n := c.n, dn := c.n }

/-- A whole block with a fresh dictionary. -/
def freshBlock (stream : Nat) (poisoned : Bool) (bs : List Nat) : List Word :=
  ((({} : Coder).input bs).flush).block stream 0 false poisoned

/-- The bytes of a word (R7). -/
def wordBytes (w : Word) : List Nat := toBytes 8 w.toNat

/-- A record's words cut into blocks of `n` words, each with a fresh dictionary (R278); a word's mark says whether it was read
from a poisoned sector, and marks every word of its block.  `fuel` bounds the blocks. -/
def compressWords (stream n : Nat) : Nat → List (Word × Bool) → List (Word × Bool)
  | 0, _ => []
  | _, [] => []
  | fuel + 1, ws =>
    let now := ws.take n
    (freshBlock stream (now.any Prod.snd) (now.flatMap fun w => wordBytes w.1)).map (fun w => (w, now.any Prod.snd))
      ++ compressWords stream n fuel (ws.drop n)

end Sys2Proof.Machine
end

