-- ==== Sys2Proof/Machine/TypesConc2.lean ====
section
/-! DEFINITION. The state of the concentrator, part 2: the Gather (chapter 08), the Carousel and triggering (chapter 09) and
egress (chapter 13).  A merge key is S times 2^40 plus f (R175). -/

namespace Sys2Proof.Machine

/-! ## The Gather -/

/-- A port's epoch (R174): the second its mark carried, its origin in fine ticks of the concentrator's timeline, and
whether the mark was commanded. -/
structure PortEpoch where
  second : Nat
  origin : Int
  commanded : Bool
  deriving DecidableEq, Repr

/-- An ingress lane as the Gather sees it (R176, R181): its progress key, the tick of its last good class-2 cell, whether it
is lane-stale. -/
structure GLane where
  progress : Option Nat := none
  lastCell : Option Nat := none
  stale : Bool := true
  deriving DecidableEq, Repr

/-- The states of R172. -/
inductive PortSt where
  | disabled | absent | unleased | starting | rejoining | live | stale | fault
  deriving DecidableEq, Repr

/-- A second mark sent to a port: its second, its origin and the tick at which it was sent (R174). -/
structure SentMark where
  second : Nat
  origin : Int
  tick : Nat
  deriving DecidableEq, Repr

/-- A port of the Gather.  `prev` is the epoch before the current one; `sent` are the marks sent, newest first; `disc` its discontinuities as key ranges, the
second end open until its next progress (R283). -/
structure GPort where
  st : PortSt := .absent
  epoch : Option PortEpoch := none
  prev : Option PortEpoch := none
  sent : List SentMark := []
  lane0 : GLane := {}
  lane1 : GLane := {}
  lagging : Bool := false
  staleEntries : Nat := 0
  rejoin : Nat := 0
  lastP : Nat := 0
  disc : List (Nat × Option Nat) := []
  withheld : Nat × Nat := (0, 0)
  deriving DecidableEq, Repr

/-- A word of the sort store (R179): `rank` 0 mark, 1 group status, 2 lost-hit report, 3 hit. -/
structure GItem where
  key : Nat
  rank : Nat
  port : Nat
  word : Word
  deriving DecidableEq, Repr

/-- A late run (R182, R183): its words with their keys. -/
structure LateRun where
  port : Nat
  unplaced : Bool
  second : Nat
  frame : Nat
  words : List (Nat × Word)
  deriving DecidableEq, Repr

/-- The Gather.  `secs` holds, per second, its true instant in fine ticks of the timeline and its increment; `nextMark`
is the next second-and-frame mark to emit; `counts` are running channel counts by second; `cfgOld` are `SortWindow`, `StaleTicks` and
`RejoinCells` before the writes of tick `cfgAt` (R190). -/
structure Gather where
  ports : Bank GPort := []
  h : Nat := 0
  holder : Nat := 0xFF
  store : List GItem := []
  full : Bool := false
  peak : Nat := 0
  secs : Bank (Int × Nat) := []
  nextMark : Option (Nat × Nat) := none
  counts : Bank (Bank Nat) := []
  rates : Bank Nat := []
  ratesFor : Option Nat := none
  sliceSecond : Option Nat := none
  sliceIndex : Nat := 0
  sliceNumber : Nat := 0
  sliceLen : Nat := 32
  sliceOver : Nat := 0
  cfgAt : Option Nat := none
  cfgOld : Nat × Nat × Nat := (375, 938, 64)
  deriving DecidableEq, Repr

/-! ## The Carousel -/

/-- A main-stream word in the ring: its key and rank, the offset (in words since the start) at which it stands, and the
start key of the bucket that was being written. -/
structure RWord where
  key : Nat
  rank : Nat
  port : Nat
  off : Nat
  bucket : Nat
  word : Word
  deriving DecidableEq, Repr

/-- A late run in the ring (R193). -/
structure RRun where
  run : LateRun
  off : Nat
  bucket : Nat
  deriving DecidableEq, Repr

/-- An entry of the bucket index (R192): the bucket's start key, the offsets of its first word and of the first word of each
sub-slot that a word has reached so far, its word count (late runs written in its region among them), the ring lap in which it
was begun, and its late-run and poison bits.  Every bucket that the head has reached has one, of zero length where no word falls
(R193). -/
structure BIndex where
  bucket : Nat
  off : Nat
  subs : List Nat := []
  words : Nat := 0
  lap : Nat := 0
  late : Bool := false
  poisoned : Bool := false
  deriving DecidableEq, Repr

/-- A straight stretch of the counter's merge time (R207): its first base tick, the keys at that tick and at the last one. -/
structure Stretch where
  start : Nat
  first : Nat
  last : Nat
  deriving DecidableEq, Repr

/-- An entry of the late directory (R194): port, lowest and highest key, offsets of its first tag and of its end. -/
structure LateEntry where
  port : Nat
  lo : Nat
  hi : Nat
  off : Nat
  stop : Nat
  deriving DecidableEq, Repr

/-- An entry of the trigger queue (R204-R207).  `chain` is the look-back tag, the position and whether it is the last;
`passed` is the tick at which H passed the end, `late` the tick at which the counter's time did, `merged?` the tick of the
last merge. -/
structure QEntry where
  id : Nat
  a : Nat
  b : Nat
  tier : Nat
  numbers : List Nat := []
  ready : Option Nat := none
  extracting : Bool := false
  sealed : Bool := false
  merged : Bool := false
  prescaled : Bool := false
  chain : Option (Nat × Nat × Bool) := none
  passed : Option Nat := none
  late : Option Nat := none
  cut : Option Nat := none
  merged? : Option Nat := none
  deriving DecidableEq, Repr

/-- An extraction on a Carousel mover channel (R208, R209): the entry, the tail at its start, the window it may keep, the start
of the sub-slot it reads next, the third parts of bytes that it may read at once, the words kept so far with their poison,
the start of what it kept, whether a sub-slot was found overwritten, whether it waits for a Marver unit, per bucket read the ring
offset reached at that time, behind which its late words are not added, and the tail after the last sub-slot read.  `blockSize`
is the block size of a record to be compressed, 0 else; `units` are the Marver units it holds, each with the tick in which its block
ends, and `blocks` the blocks given to units so far (R278). -/
structure Extraction where
  entry : Nat
  tail : Nat
  a : Nat := 0
  b : Nat := 0
  pos : Nat := 0
  credit : Nat := 0
  kept : List (Word × Bool) := []
  begun : Option Nat := none
  missed : Bool := false
  waits : Bool := false
  read : Bank Nat := []
  endTail : Nat := 0
  blockSize : Nat := 0
  units : List (Nat × Nat) := []
  blocks : Nat := 0
  deriving DecidableEq, Repr

/-- A word on its way to the back end, with its marks: bit 0 it is of a compressed body, bit 1 it was read from a poisoned
sector (R281). -/
abbrev EWord := Word × Nat

/-- A record in the record store that egress has not begun to send (R281, R287), the space it takes there, the bytes written
to the store before it, and whether egress has read it. -/
structure Record where
  number : Nat
  words : List EWord
  bytes : Nat
  off : Nat := 0
  read : Bool := false
  deriving DecidableEq, Repr

/-- A TRIGIN converter (R200). -/
structure Trigin where
  last : Option Nat := none
  lastAccepted : Option Nat := none
  hist : Bank Nat := []
  total : Nat := 0
  table : Option Nat := none
  shadow : Option Nat := none
  rejRun : Nat := 0
  deriving DecidableEq, Repr

/-- The Carousel and the trigger queue.  `wr` counts the words written since the start; `storeWr` counts the bytes written to the record store; `lost` are the buckets that an index error
has lost (R367); `index` is the bucket index, `course` the stretches of the counter's time, newest first, `hPast` the ticks at
which H took its values in the last millisecond, newest first (R207); `grid1` and `grid10` are the counter's values at the next grid
points (R210); `ringSize` and `storeSize` are the sizes in force, in GB and MiB, `leftOut` the retired frames that the last
start left out, rising (R359). -/
structure Carousel where
  running : Bool := false
  wr : Nat := 0
  main : List RWord := []
  runs : List RRun := []
  dir : List LateEntry := []
  lost : List Nat := []
  index : List BIndex := []
  course : List Stretch := []
  hPast : List (Nat × Nat) := []
  head : Nat := 0
  tail : Nat := 0
  lapped : Bool := false
  ringSize : Nat := 120
  storeSize : Nat := 2048
  leftOut : List Nat := []
  latch : Nat × Nat × Nat := (0, 0, 0)
  queue : List QEntry := []
  queuePeak : Nat := 0
  nextId : Nat := 0
  nextTrigger : Nat := 0
  kB : Nat := 0
  kC : Nat := 0
  countB : Nat := 0
  countC : Nat := 0
  grid1 : Nat := 0
  grid10 : Nat := 0
  extracting : Bank (Option Extraction) := []
  records : List Record := []
  nextRecord : Nat := 0
  storeWr : Nat := 0
  use : Nat := 0
  usePeak : Nat := 0
  trigin : Bank Trigin := []
  deriving DecidableEq, Repr

/-! ## Egress -/

/-- A back-end lane's sending state (R287-R289): its position in the sixteen slots, the words left of the record it sends
and that record, its management responses of class 3 with the words at their front that belong to a response already begun, the
bulk record it sends, and which records and bulk records the unacknowledged cells of class 2 and 3 carry. -/
structure ELane where
  pos : Nat := 0
  left : List EWord := []
  record : Option Nat := none
  size : Nat := 0
  segs : List EWord := []
  begun : Nat := 0
  bulk : Option Nat := none
  carried : List (Nat × List Nat × List Nat) := []
  deriving DecidableEq, Repr

/-- A bulk record (R289): the words that wait, whether more will come, whether a lane has begun it, and for a SEND the words of its
body that its header gives.  Mark bit 2 of a word says
that it takes space in the 64 KiB bulk queue (R290). -/
structure BulkRec where
  number : Nat
  words : List EWord
  open? : Bool := false
  taken : Bool := false
  len : Nat := 0
  deriving DecidableEq, Repr

/-- Egress.  `c0` is the class-0 egress queue: each word with the tick its residence is counted from; `held` are words whose
source waits for room; `forming` the kind-1 bulk records by port; `starts` when the words of
built class-0 cells arrived, by class-0 number. -/
structure Egress where
  c0 : List (Nat × Word) := []
  held : List (Nat × Word) := []
  peak : Nat := 0
  residence : Nat := 0
  lanes : Bank ELane := []
  bulk : List BulkRec := []
  bulkNumber : Nat := 0
  forming : Bank (List Word) := []
  formingSince : Bank Nat := []
  starts : Bank (List Nat) := []
  deriving DecidableEq, Repr

end Sys2Proof.Machine
end

