-- ==== Sys2Proof/Machine/TypesConc3.lean ====
section
/-! DEFINITION. The state of the concentrator, part 3: memory and movers (chapter 11), Marver (chapter 12), engines and task
classes (chapter 10). -/

namespace Sys2Proof.Machine

/-! ## Memory (R237, R246-R248, R250) -/

/-- Memory: address and byte pairs in canonical form.  An unlisted address reads as 0. (DESIGN CHOICE, log entry 31) -/
abbrev Memory := Bank (BitVec 8)

/-- The canonical form of a memory. -/
def Memory.wf (m : Memory) : Bool := Bank.wf 0#8 m

/-- A range of the task pool, of a scratchpad or of a cluster memory in use: what holds it (R226), its address and size.  The
holder is the context index, or 1,000 plus the task slot for a shared window, or 2,000 plus the slot for a cluster
region. -/
structure Region where
  holder : Nat
  start : Nat
  size : Nat
  deriving DecidableEq, Repr

/-- The concentrator's memories.  `errs` holds, by word number, the data and check bits in which a stored word differs from a
code word; `written` the 2 MiB blocks of the written map; `pool` the HBM ranges of tasks. -/
structure MemSt where
  bytes : Memory := []
  errs : Bank (Nat × Nat) := []
  written : Bank Bool := []
  pool : List Region := []
  scratch : List Region := []
  cluster : List Region := []
  lastError : Nat × Nat × Nat := (0, 0, 0)
  latch : Nat × Nat × Nat := (0, 0, 0)
  deriving DecidableEq, Repr

/-! ## Marver (R271) -/

/-- A stream context: its learned entries, the next learned code, the number of the stream's next block. -/
structure StreamCtx where
  valid : Bool := false
  dict : Bank Nat := []
  n : Nat := 65538
  next : Nat := 0
  deriving DecidableEq, Repr

/-- A COMPRESS job: its coder, its stream, the words of finished blocks already placed, the words of the block in progress
already placed, the input bytes consumed in all and of the block, the bytes read and not yet coded with their poison.
`flush` says that the block's input has ended; `chain` lists the output buffers; `yields` is `UnitYield` as the job found it when it
first had a unit (R280). -/
structure MarvJob where
  coder : Coder := {}
  stream : Nat := 0
  block : Nat := 0
  history : Bool := false
  poisoned : Bool := false
  anyPoison : Bool := false
  outWords : Nat := 0
  blockWords : Nat := 0
  pend : List (Nat × Bool) := []
  consumed : Nat := 0
  inBlock : Nat := 0
  flush : Bool := false
  unit : Option Nat := none
  yields : Option Bool := none
  waitSince : Nat := 0
  chain : List (Nat × Nat) := []
  deriving DecidableEq, Repr

/-! ## Movers (R251-R263) -/

/-- A descriptor as read from the ring (R254). -/
structure Desc where
  op : Nat
  fence : Bool
  stopPoison : Bool
  reserved : Bool
  length : Nat
  source : Nat
  dest : Nat
  argA : Nat
  argB : Nat
  deriving DecidableEq, Repr

/-- A mover channel (R252).  `state` is 0 IDLE, 1 RUNNING, 2 HALTED, 3 DRAINING, 4 PAUSED; `ended` the completion code and
result of a descriptor that has ended and whose completion is still to be written; `part` are the bytes of a SEND short of
a whole word with their poison, `bulk` the number of its bulk record, `sent` the bytes that have entered it. -/
structure Mover where
  owner : Nat := 0xFFFF
  base : Nat := 0
  entries : Nat := 1
  tail : Nat := 0
  head : Nat := 0
  state : Nat := 0
  code : Nat := 0
  tailRefused : Bool := false
  cfgRefused : Bool := false
  bytesDone : Nat := 0
  faultAddr : Nat := 0
  completed : Nat := 0
  cur : Option Desc := none
  ended : Option (Nat × Nat) := none
  poisonSeen : Bool := false
  crc : Nat := 0xFFFFFFFF
  part : List (Nat × Bool) := []
  bulk : Option Nat := none
  sent : Nat := 0
  job : Option MarvJob := none
  deriving DecidableEq, Repr

/-! ## Tasks and contexts (R222-R236) -/

/-- A segment of an image (R225). -/
structure SegHdr where
  va : Nat
  size : Nat
  offset : Nat
  fileSize : Nat
  r : Bool
  w : Bool
  x : Bool
  deriving DecidableEq, Repr

/-- The resource header of an image. -/
structure TaskHdr where
  entry : Nat
  classes : Nat
  channels : Nat
  stack : Nat
  scratch : Nat
  cluster : Nat
  priv : Nat
  shared : Nat
  segs : List SegHdr
  deriving DecidableEq, Repr

/-- An installed image (R224): its payload as one little-endian number. -/
structure TaskSlot where
  version : Nat
  measurement : Nat
  hdr : TaskHdr
  image : Nat
  deriving DecidableEq, Repr

/-- A leaf of an instance's Sv39 page table (R227, R242): the first virtual address it maps, its level (0 for 4 KiB, 1 for
2 MiB, 2 for 1 GiB) and its 64-bit entry.  The tables stand in the firmware region, where no command and no task reaches
them; the state holds their leaves. (DESIGN CHOICE, log entry 52) -/
structure Leaf where
  va : Nat
  level : Nat
  pte : Nat
  deriving DecidableEq, Repr

/-- A slice in a context's queue (R220, R230, R231): its subscription, number, start, nominal end and span end as keys, flags,
the words in the feed buffer, the sub-slot in which the feed stands and the ring offset from which it reads on. -/
structure FeedSlice where
  sub : Nat
  number : Nat
  start : Nat
  stop : Nat
  span : Nat
  overrun : Bool := false
  passedOn : Bool := false
  poisoned : Bool := false
  buffer : List Word := []
  readKey : Nat := 0
  readOff : Nat := 0
  ended : Bool := false
  deriving DecidableEq, Repr

/-- A result that is still to reach its register (R221): register, value and kind (0 load, LR, AMO; 1 qhist; 2 qtrig). -/
structure PendResult where
  rd : Nat
  value : Nat
  kind : Nat
  deriving DecidableEq, Repr

/-- A context.  `st` has the codes of R222, RUNNABLE standing for RUNNING as well; `before` is the state a suspend left;
`wait` the limit tick of a qwait and its rd; `logDue` the time of a LOG that waits for the next second; `parity` a parity
error in its register file that nothing has read yet (R235). -/
structure Ctx where
  st : Nat := 0
  before : Nat := 0
  regs : Bank Nat := []
  pc : Nat := 0
  restartPc : Nat := 0
  restartSp : Nat := 0
  resv : Option Nat := none
  slot : Nat := 0xFF
  sub : Nat := 0xFF
  arg : Nat := 0
  channels : List Nat := []
  table : List Leaf := []
  slices : List FeedSlice := []
  results : List PendResult := []
  wait : Option (Option Nat × Nat) := none
  logDue : Option Nat := none
  instret : Nat := 0
  logSecond : Nat := 0
  logs : Nat := 0
  cause : Nat := 0
  faults : Nat := 0
  faultPc : Nat := 0
  faultVal : Nat := 0
  parity : Bool := false
  deriving DecidableEq, Repr

/-- The power of a physical cluster (R215): `speed` is the code of `EngineClock` in force (R342), `clk` thirds of engine cycles
run while awake. -/
structure ClusterPw where
  asleep : Bool := false
  waking : Option Nat := none
  idleSince : Option Nat := none
  speed : Nat := 0
  clk : Nat := 0
  deriving DecidableEq, Repr

/-- The engines.  `map` and `clusterMap` list, one more than the value, what each logical engine and logical cluster is served by
where that is not its own number (256 for a lost engine); `running` one more than the class each engine runs; `subNext`
the next slice number of a subscription; `staged` the length and bytes of the staged image; `movePending` the logical
clusters whose move waits (R214); `servedBy`, one more than the number, the physical engine that served a lost logical
engine; `fills` the Ringmaster's fills that wait for a sleeping cluster (R215): the cluster and the range. -/
structure Eng where
  ctxs : Bank Ctx := []
  running : Bank Nat := []
  cycles : Bank Nat := []
  map : Bank Nat := []
  clusterMap : Bank Nat := []
  power : Bank ClusterPw := []
  slots : Bank (Option TaskSlot) := []
  staged : Nat × Nat := (0, 0)
  subNext : Bank Nat := []
  movePending : List Nat := []
  servedBy : Bank Nat := []
  fills : List (Nat × Nat × Nat) := []
  deriving DecidableEq, Repr

/-- Movers and Marver streams. -/
structure Movers where
  chans : Bank Mover := []
  streams : Bank StreamCtx := []
  deriving DecidableEq, Repr

end Sys2Proof.Machine
end

