-- ==== Sys2Proof/Machine/TypesConc4.lean ====
section
/-! DEFINITION. The state of the concentrator, part 4: security (chapter 18), the housekeeping converter (chapter 19),
the control loops (chapter 20), the calibration light and the Safety Net (chapter 21). -/

namespace Sys2Proof.Machine

/-! ## Security -/

/-- A firmware slot of the flash (R400): the envelope's version and measurement. -/
structure FwSlot where
  valid : Bool := false
  version : Nat := 0
  measurement : Nat := 0
  notAfter : Nat := 0
  deriving DecidableEq, Repr

/-- Security (R395-R408).  `owner` is 0 not enrolled, 1 sealed, 2 incomplete; `running` the slot that booted (0xFF RECOVERY);
`rootHash` and `serial` what the fuses hold; `challenge` the challenge in force, the `draws`-th drawn; `attest` the nonce of a report
being built. -/
structure Sec where
  rootHash : Nat := Config.rootKeyHash % 2 ^ 512
  serial : Nat := Config.serial
  ownerHash : Nat := 0
  owner : Nat := 0
  fwFloor : Nat := 0
  ownerFloor : Nat := 0
  preferred : Nat := 0
  trial : Bool := false
  tried : Bool := false
  slotA : FwSlot := {}
  slotB : FwSlot := {}
  running : Nat := 0
  fellBack : Bool := false
  update : Nat := 0
  attest : Option Nat := none
  attestReady : Bool := false
  report : Nat := 0
  draws : Nat := 0
  challenge : Nat := (Config.challenge 0).toNat
  unlocked : Nat := 0
  deriving DecidableEq, Repr

/-! ## The housekeeping converter -/

/-- What `SensorResults` holds of a setup (R426), with the unflagged results of a 3-wire pair by orientation (R415): code and
range.  `ranged` says that no result has used the range since it was written (R418), `swapAt` is the tick of the setup's last
swap. -/
structure SetupRes where
  code : Int := 0
  range : Nat := 0
  settling : Bool := false
  open? : Bool := false
  atEnd : Bool := false
  fromLoop : Bool := false
  orientB : Bool := false
  outOfRange : Bool := false
  milliOhm : Nat := 0
  milliC : Int := 0
  count : Nat := 0
  pairA : Option (Int × Nat) := none
  pairB : Option (Int × Nat) := none
  ranged : Bool := false
  swapAt : Option Nat := none
  deriving DecidableEq, Repr

/-- Who asked for a conversion: the host, a loop for its feedback or its input voltage, the calibration, a feedback run. -/
inductive Asker where
  | host
  | loop (l : Nat) (input : Bool)
  | calibration
  deriving DecidableEq, Repr

/-- A conversion in progress (R419): its setup, when it started, the range and orientation it uses, whether it settles; `outside`
holds the compliance flags of the sample instant once they have changed since (R423). -/
structure Conversion where
  asker : Asker
  setup : Nat
  start : Nat
  range : Nat
  orientB : Bool
  settling : Bool
  outside : Option Nat := none
  deriving DecidableEq, Repr

/-- A loop request that waits: loop, whether for its input voltage, setup, tick of the request. -/
structure LoopReq where
  loop : Nat
  input : Bool
  setup : Nat
  tick : Nat
  deriving DecidableEq, Repr

/-- The converter (R409-R427).  `calLeft` counts the conversions left of a calibration, due at `calDue`; `outside` has a bit for each excitation source out of
compliance; `swapped` says that the sources are swapped from the sample clock of the last 3-wire conversion on; `readAt` is the
tick of the last read of `AdcData`. -/
structure Adc where
  conv : Option Conversion := none
  host : Option Nat := none
  loops : List LoopReq := []
  calDue : Nat := 0
  calLeft : Nat := 0
  outside : Nat := 0
  overload : Bool := false
  swapped : Bool := false
  results : Bank SetupRes := []
  opens : Nat := 0
  maxDelay : Nat := 0
  readAt : Option Nat := none
  deriving DecidableEq, Repr

/-! ## Control loops -/

/-- A relay auto-tune in progress (R441): its start, the output at the start, the region, the cycles so far (period in ms and
swing), and the cycle in progress: the sample of its first crossing, the extremes of y. -/
structure Tune where
  start : Nat
  u0 : Int
  region : Nat
  n : Nat := 0
  last : Option Rat := none
  cycles : List (Nat × Rat) := []
  since : Option Nat := none
  top : Rat := 0
  bottom : Rat := 0
  deriving DecidableEq, Repr

/-- A measurement that has arrived in the present period: flagged, or a value; and whether the input was open. -/
structure Sample where
  value : Option Rat := none
  open? : Bool := false
  deriving DecidableEq, Repr

/-- A loop (R428-R443).  `st` has the codes of R436; `r`, `y`, `i`, `d` are the ramp output, the measurement, the integrator
and the derivative term, `u` the output code; `restart` says that r starts at the next measurement (R437), `bumpless` that the
integrator is to be set (R434); `askedF`, `askedV` and `sampled` name the periods, from 1, in which the loop last asked and
sampled. -/
structure Loop where
  st : Nat := 0
  region : Nat := 0
  r : Rat := 0
  y : Rat := 0
  u : Int := 0
  i : Rat := 0
  d : Rat := 0
  vin : Option Rat := none
  feedback : Option Sample := none
  input : Option Sample := none
  missF : Nat := 0
  missV : Nat := 0
  outOfBand : Nat := 0
  truncated : Bool := false
  atLimit : Bool := false
  frozen : Bool := false
  fault : Nat := 0
  restart : Bool := false
  bumpless : Bool := false
  askedF : Nat := 0
  askedV : Nat := 0
  sampled : Nat := 0
  tune : Option Tune := none
  deriving DecidableEq, Repr

/-- The result of a tune (R442): status, Tu in ms, a, Kp, Ki, Kd, and the region of its start. -/
structure TuneRes where
  status : Nat := 0
  tu : Nat := 0
  a : Int := 0
  kp : Int := 0
  ki : Int := 0
  kd : Int := 0
  region : Nat := 0
  deriving DecidableEq, Repr

structure Loops where
  loops : Bank Loop := []
  tunes : Bank TuneRes := []
  deriving DecidableEq, Repr

/-! ## Calibration light and Safety Net -/

/-- A feedback run (R449): output, setup, target, the fraction so far, the bit being tried, the last reading, when the step's
settling ends. -/
structure FeedbackRun where
  led : Nat
  setup : Nat
  target : Int
  frac : Nat := 0
  bit : Nat := 9
  ready : Nat := 0
  deriving DecidableEq, Repr

/-- What a PWM output still uses after a write: k', duty and full scale until the period that starts at tick `until?` of the base
clock (R447). -/
structure Drive where
  k : Nat := 0
  duty : Nat := 0
  full : Nat := 0
  until? : Nat := 0
  deriving DecidableEq, Repr

/-- The light drive (R445-R449).  `lit` are the outputs that a flash lights, until beat `flashEnd`; `lastBeat` is the start
beat of the last flash that fell due; `fire` the tick of a single flash; `lostNow`, `lostSince` the compliance bits and
`lossCount` their events. -/
structure Light where
  lit : Nat := 0
  flashEnd : Option Nat := none
  lastBeat : Nat := 0
  fire : Option Nat := none
  lostNow : Nat := 0
  lostSince : Nat := 0
  lossCount : Bank Nat := []
  run : Option FeedbackRun := none
  result : Nat := 0
  held : Bank Drive := []
  deriving DecidableEq, Repr

/-- The Safety Net configuration in force (R455): the payload as one number and its measurement. -/
structure SafetyBundle where
  payload : Nat
  measurement : Nat
  deriving DecidableEq, Repr

/-- An entry of the change log (R455, R459). -/
structure SafetyLog where
  seconds : Nat
  event : Nat
  source : Nat
  measurement : Nat
  deriving DecidableEq, Repr

/-- The Safety Net (R450-R456).  `light` is the level of SN_LIGHT in units of 0.1 uV; `since` the tick from which the four
conditions have held; `pulse` a test pulse: output and start; `tested` the last test period of an output; `changed` the tick
at which an output's commanded state last changed; `feedback` the levels last read back; `stimulus` the output a stimulus
flash takes and its end. -/
structure Safety where
  st : Nat := 0
  bundle : Option SafetyBundle := none
  inputs : Nat := 0
  light : Nat := 0
  dark : Bool := false
  passed : Bool := false
  since : Option Nat := none
  fault : Nat := 0
  request : Nat := 0
  outputs : Nat := 0
  pulse : Option (Nat × Nat) := none
  tested : Bank Nat := []
  changed : Bank Nat := []
  feedback : Nat := 0
  stimulusAt : Option Nat := none
  stimulus : Option (Nat × Nat) := none
  log : List SafetyLog := []
  deriving DecidableEq, Repr

end Sys2Proof.Machine
end

