-- ==== Sys2Proof/Machine/TypesConc.lean ====
section
/-! DEFINITION. The state of the concentrator, QDR-C96, as one structure. -/

namespace Sys2Proof.Machine

/-- The concentrator.  `tick` counts base-tick periods from power-up and never stops; `now` counts them from the last reset.
Lanes have their index of R117: downlinks 0-47, ingress lanes 48-143, physical back-end lanes 144-161, peer lanes 162-163. -/
structure Conc where
  tick : Nat := 0
  now : Nat := 0
  baseTicks : Nat := 0
  od : Od := []
  free : Nat := 0
  lanes : Bank Lane := []
  quads : Bank Quad := []
  links : Links := {}
  time : TimeBase := {}
  dict : Dict := {}
  pwr : Power := {}
  faults : Faults := {}
  leases : Bank PortLease := []
  pair : Partner := {}
  boot : Boot := {}
  tap : Tap := {}
  flash : Flash := {}
  gather : Gather := {}
  caro : Carousel := {}
  egr : Egress := {}
  mem : MemSt := {}
  mov : Movers := {}
  eng : Eng := {}
  sec : Sec := {}
  adc : Adc := {}
  ctl : Loops := {}
  light : Light := {}
  safety : Safety := {}
  deriving DecidableEq, Repr

end Sys2Proof.Machine
end

