-- ==== Sys2Proof/Machine/ConcOps.lean ====
section
/-! DEFINITION. The shared operations of the concentrator: its objects and counters, its clocks, its lanes and ports, the
fault log with its EMCY messages (R313, R369, R370), the class-0 egress queue (R292). -/

namespace Sys2Proof.Machine

/-! ## Objects, counters, free values -/

def Conc.get (c : Conc) (o : Obj) (i : Nat := 0) : Nat := c.od.val o i
def Conc.put (c : Conc) (o : Obj) (v : Nat) (i : Nat := 0) : Conc := { c with od := c.od.put o v i }

/-- Add to an event counter (R9). -/
def Conc.count (c : Conc) (o : Obj) (i : Nat := 0) (n : Nat := 1) : Conc := c.put o (satAdd (8 * o.bytes) (c.get o i) n) i

/-- Add to one entry, of `w` bits, of a table of event counters (R9). -/
def Conc.countEntry (c : Conc) (o : Obj) (w i : Nat) (n : Nat := 1) : Conc :=
  c.put o (entryUpd w (c.get o) i fun v => satAdd w v n)

def Conc.drawBool (c : Conc) : Bool × Conc := (Config.freeBool c.free, { c with free := c.free + 1 })
def Conc.drawNat (c : Conc) : Nat × Conc := (Config.freeNat c.free, { c with free := c.free + 1 })

/-- The concentrator's always-on ticks, 32.768 kHz (R2), of a count of base-tick periods. (DESIGN CHOICE, log entry 2) -/
def aoOf (tick : Nat) : Nat := tick * 2048 / 5859375
def Conc.ao (c : Conc) : Nat := aoOf c.tick

/-- A billion nanoseconds in units of 2^-32 ns (R148). -/
def giga : Nat := 1000000000 * 2 ^ 32

/-- The seconds field, with a rollover that is due counted in. -/
def Conc.seconds (c : Conc) : Nat := (if giga ≤ c.time.acc then c.time.seconds + 1 else c.time.seconds) % 2 ^ 48

/-! ## Lanes (R114, R117) -/

def laneDown (p : Nat) : Nat := p
def laneIn (l : Nat) : Nat := 48 + l
def laneBe (n : Nat) : Nat := 144 + n
def lanePeer (n : Nat) : Nat := 162 + n

def laneKind (i : Nat) : LaneKind :=
  if i < 48 then .downlink else if i < 144 then .ingress else if i < 162 then .backEnd else .peer

/-- The quad of a lane (R114). -/
def quadOf (i : Nat) : Nat :=
  if i < 48 then 24 + i / 4
  else if i < 144 then (if (i - 48) % 2 = 0 then (i - 48) / 8 else 12 + (i - 48) / 8)
  else if i < 160 then 36 + (i - 144) / 4
  else 40

def Conc.lane (c : Conc) (i : Nat) : Lane := Bank.get {} c.lanes i
def Conc.setLane (c : Conc) (i : Nat) (l : Lane) : Conc := { c with lanes := Bank.set {} c.lanes i l }
def Conc.updLane (c : Conc) (i : Nat) (f : Lane → Lane) : Conc := c.setLane i (f (c.lane i))
def Conc.quad (c : Conc) (q : Nat) : Quad := Bank.get {} c.quads q
def Conc.setQuad (c : Conc) (q : Nat) (x : Quad) : Conc := { c with quads := Bank.set {} c.quads q x }
def Conc.lease (c : Conc) (p : Nat) : PortLease := Bank.get {} c.leases p
def Conc.setLease (c : Conc) (p : Nat) (x : PortLease) : Conc := { c with leases := Bank.set {} c.leases p x }
def Conc.gport (c : Conc) (p : Nat) : GPort := Bank.get {} c.gather.ports p
def Conc.setGport (c : Conc) (p : Nat) (x : GPort) : Conc :=
  { c with gather := { c.gather with ports := Bank.set {} c.gather.ports p x } }
def Conc.ptime (c : Conc) (p : Nat) : PortTime := Bank.get {} c.time.ports p
def Conc.setPtime (c : Conc) (p : Nat) (x : PortTime) : Conc :=
  { c with time := { c.time with ports := Bank.set {} c.time.ports p x } }
def Conc.eLane (c : Conc) (i : Nat) : ELane := Bank.get {} c.egr.lanes i
def Conc.setELane (c : Conc) (i : Nat) (x : ELane) : Conc :=
  { c with egr := { c.egr with lanes := Bank.set {} c.egr.lanes i x } }

/-- The logical back-end lane that physical lane `n` (0-17) carries, 255 a spare (R111, R357): one more than the key
listed, 0 standing for what the lane carries from reset. -/
def Conc.logical (c : Conc) (n : Nat) : Nat :=
  match Bank.get 0 c.links.map n with
  | 0 => if n < 16 then n else 255
  | v => v - 1

def Conc.setLogical (c : Conc) (n l : Nat) : Conc :=
  { c with links := { c.links with map := Bank.set 0 c.links.map n (l + 1) } }

/-- The physical lane of a logical back-end lane, if any. -/
def Conc.physical (c : Conc) (l : Nat) : Option Nat := (List.range 18).find? fun n => c.logical n = l

/-- What a checkpoint holds has changed: the active partner pushes it within 100 ms (R385). -/
def Conc.touch (c : Conc) : Conc := { c with pair := { c.pair with dirtySince := some (c.pair.dirtySince.getD c.tick) } }

/-- The Ringmaster sends nothing any more: it has failed (R382), it has relinquished (R391) or its clock is lost (R337). -/
def Conc.mute (c : Conc) : Bool := c.pair.state == 5 || c.pair.relinquishAt.isSome || c.pwr.state == 6

/-- D5 or D9 is on its fallback D1, and D1 is dead: no source is alive, and the domain stops until one is (R333). -/
def Conc.noSource (c : Conc) (n : Nat) : Bool :=
  (Bank.get ({} : ClockDom) c.pwr.doms n).onFallback && (Bank.get ({} : ClockDom) c.pwr.doms 1).dead

/-- The Ringmaster's clock D9 does not run: in ASLEEP up to step 5 of the wake (R343, R345), or without a source. -/
def Conc.ringAsleep (c : Conc) : Bool := c.pwr.ringStopped || c.noSource 9

/-- A debugger halts the Ringmaster (R405, R502). (DEDUCED, log entry 32) -/
def Conc.ringHalted (c : Conc) : Bool := c.tap.halted.contains 384

/-- The concentrator acts on a port: it holds the lease and the last answered renewal is at most 45 ms old (R379). -/
def Conc.acts (c : Conc) (p : Nat) : Bool :=
  let l := c.lease p
  l.status == 2 && decide (c.tick ≤ l.base + 45 * msTicks) && !c.mute

/-- Leases held. -/
def Conc.held (c : Conc) : Nat := ((List.range 48).filter fun p => (c.lease p).status = 2).length

/-! ## The fault log (R369, R370, R506, R313) -/

/-- The class of a cause. -/
def causeClass : Nat → Nat
  | 0x02 => 3 | 0x03 => 3 | 0x04 => 4 | 0x05 => 4 | 0x06 => 4 | 0x07 => 4 | 0x08 => 5 | 0x0A => 3 | 0x0C => 3 | 0x0D => 2
  | 0x10 => 1 | 0x12 => 2 | 0x13 => 2 | 0x14 => 2 | 0x15 => 2 | 0x16 => 7 | 0x21 => 6 | 0x22 => 5 | 0x23 => 6
  | 0x24 => 7 | 0x25 => 4 | 0x26 => 2 | 0x27 => 6 | 0x28 => 3 | 0x2A => 7 | 0x2B => 6 | 0x2C => 5 | 0x2D => 7 | 0x2E => 5
  | _ => 0

/-- The EMCY error code of a class. -/
def emcyCode : Nat → Nat
  | 0 => 0xFF00 | 4 => 0x8100 | 6 => 0x6300 | _ => 0x5000

/-- The error-register bit of a class. -/
def errorBit : Nat → Option Nat
  | 1 => some 7 | 2 => some 0 | 3 => some 0 | 4 => some 4 | 5 => some 7 | 6 => some 7 | 7 => some 0 | _ => none

/-- `ErrorRegister`: a class's bit while an entry of it beyond the acknowledged point has been posted. -/
def Conc.errorRegister (c : Conc) : Nat :=
  (List.range 8).foldl (fun v k =>
    match errorBit k with
    | none => v
    | some b => if c.faults.acked < Bank.get 0 c.faults.lastOf k then orBits v (2 ^ b) else v) 0

/-- Queue an EMCY message, at most 16 (R313). -/
def Conc.queueEmcy (c : Conc) (code entry cause : Nat) : Conc :=
  let can := c.dict.can
  if 16 ≤ can.emcy.length then c.count O.emcyDropped
  else { c with dict := { c.dict with can := { can with emcy := can.emcy ++ [(code, c.errorRegister, entry, cause)] } } }

/-- Post one entry. (DEDUCED, log entry 34) -/
def Conc.postEntry (c : Conc) (cls cause resource counter state owner detail : Nat) : Conc :=
  let n := c.faults.next
  let e : LogEntry := { number := n, seconds := c.seconds, cls := cls, cause := cause, resource := resource,
                        counter := counter, state := state, owner := owner, detail := detail }
  let c := if 256 ≤ c.faults.log.length then c.count O.faultLogOverwritten else c
  let l := c.faults.log ++ [e]
  let c := { c with faults := { c.faults with log := l.drop (l.length - 256), next := (n + 1) % 2 ^ 32,
                                              lastOf := Bank.set 0 c.faults.lastOf cls (n + 1) } }
  if bitAt (c.get O.faultNotifyMask) cls then c.queueEmcy (emcyCode cls) n cause else c

/-- The account of a resource; HBM rows have a table of their own (R373). -/
def Conc.health (c : Conc) (kind num : Nat) : Health :=
  if kind = 6 then (Bank.get {} c.faults.rows num).health else Bank.get {} c.faults.health (resKey kind num)

/-- The HEALTHY row with the lowest counter, which a full row table reuses (R373). -/
def lowestRow (rows : Bank HbmRow) : Option Nat :=
  (rows.foldl (fun (best : Option (Nat × Nat)) p =>
    if p.2.health.st ≠ .healthy then best
    else match best with
      | some (_, n) => if p.2.health.counter < n then some (p.1, p.2.health.counter) else best
      | none => some (p.1, p.2.health.counter)) none).map fun p => p.1

def Conc.setHealth (c : Conc) (kind num : Nat) (h : Health) : Conc :=
  if kind = 6 then
    let rows := c.faults.rows
    let rows := if 1024 ≤ rows.length ∧ (Bank.find? rows num).isNone then
        match lowestRow rows with | some k => Bank.erase rows k | none => rows
      else rows
    { c with faults := { c.faults with rows := Bank.upd {} rows num fun r => { r with health := h } } }
  else { c with faults := { c.faults with health := Bank.set {} c.faults.health (resKey kind num) h } }

/-- A repair record is written over the older of the two copies (R354). -/
def Conc.writeRepair (c : Conc) (r : RepairRecord) : Conc :=
  { c with flash := { c.flash with repair := r, repairOld := c.flash.repair } }

/-- The repair record is written (R354): RETIRED resources, rows with repair pending, retired frames, counters that are
not 0. -/
def Conc.saveRepair (c : Conc) : Conc :=
  let keep (h : Health) : Health := { counter := h.counter, st := if h.st = .retired then .retired else .healthy }
  c.writeRepair { c.flash.repair with
    health := Bank.mapVals {} (fun _ h => keep h) c.faults.health,
    rows := Bank.mapVals {} (fun _ x => { frames := x.frames, health := keep x.health, scheduled := x.scheduled }) c.faults.rows,
    frames := c.faults.retiredFrames, spares := c.faults.macroSpares }

/-- Further macros of a structure retired beyond its `spares` spare macros (R358). -/
def Conc.macrosLost (c : Conc) (owner spares : Nat) : Nat :=
  (c.faults.health.countP fun p => p.1 / 2 ^ 24 = 7 && p.2.st = .retired && (Config.macroOwner (p.1 % 2 ^ 24)).val = owner) - spares

/-- What remains of the structures of R358. -/
def Conc.sortCapacity (c : Conc) : Nat := 131072 - 4096 * c.macrosLost 125 2
def Conc.bucketCapacity (c : Conc) : Nat := 524288 - 8192 * c.macrosLost 126 2
def Conc.lateCapacity (c : Conc) : Nat := 16384 - 4096 * c.macrosLost 127 1

/-- What remains of the Ringmaster's private SRAM, in bytes; the rest lies in the firmware region of HBM. -/
def Conc.ringCapacity (c : Conc) : Nat := 1048576 - 65536 * c.macrosLost 128 2

/-- The detail of a lane cause (R369): CRC failures, protocol errors and answer timeouts of the lane, saturating. -/
def Conc.laneDetail (c : Conc) (i : Nat) : Nat :=
  let x := (c.lane i).stats
  min x.crc (2 ^ 32 - 1) + min x.proto 65535 * 2 ^ 32 + min x.answerTimeouts 65535 * 2 ^ 48

/-- Post a cause about a resource with its account. (DEDUCED, log entry 34) -/
def Conc.post (c : Conc) (kind num cause : Nat) (owner : Nat := 0) (detail : Nat := 0) : Conc :=
  let h := c.health kind num
  let detail := if kind = 0x01 ∧ 4 ≤ cause ∧ cause ≤ 7 then c.laneDetail num else detail
  c.postEntry (causeClass cause) cause (if kind = 0 then 0 else ownerCode kind num) h.counter h.st.code owner detail

/-- FAULT_DECREMENT: a grid point of 19,660,800 AO ticks (R351). -/
def Conc.faultDecrement (c : Conc) : Conc :=
  let x := c.faults
  if x.decDue ≤ c.ao then
    { c with faults :=
      { x with decDue := x.decDue + 19660800, health := Bank.mapVals {} (fun _ h => h.decrement) x.health,
               rows := x.rows.map fun p => (p.1, { p.2 with health := p.2.health.decrement }) } }
  else c

/-- A fault event against a resource (R351, R353): counted and logged, and logged again as it becomes SUSPECT.  A decrement
that is due applies first (R372). -/
def Conc.faultEvent (c : Conc) (kind num cause : Nat) (immediate : Bool := false) (owner : Nat := 0) (detail : Nat := 0) : Conc :=
  let c := c.faultDecrement
  let h := c.health kind num
  match h.st with
  | .retired => c
  | st =>
    let h' := h.eventAt c.tick immediate
    let c := (c.setHealth kind num h').post kind num cause owner detail
    if st = .healthy ∧ h'.st = .suspect then (c.post kind num 0x10 owner detail).saveRepair else c

/-- The unit that owns an SRAM macro and has an account: an engine, a cluster, a Marver unit (R355). -/
def macroUnit (m : Nat) : Option (Nat × Nat) :=
  let u := (Config.macroOwner m).val
  if u < 104 then some (0x03, u) else if u < 117 then some (0x04, u - 104) else if u < 125 then some (0x05, u - 117) else none

/-- A fault event of an SRAM macro counts for the unit that owns it as well (R355). -/
def Conc.macroEvent (c : Conc) (m cause : Nat) (immediate : Bool) (owner : Nat := 0) (detail : Nat := 0) : Conc :=
  let c := c.faultEvent 0x07 m cause immediate owner detail
  match macroUnit m with
  | some r => c.faultEvent r.1 r.2 cause immediate owner detail
  | none => c

/-! ## Class-0 words to the back end (R291, R292, R295) -/

/-- Put a word, whose residence counts from tick `start`, into the class-0 egress queue of 512 words; a source that finds it
full waits. -/
def Conc.emitAt (c : Conc) (start : Nat) (w : Word) : Conc :=
  let e := c.egr
  if e.c0.length < 512 ∧ e.held = [] then
    let q := e.c0 ++ [(start, w)]
    { c with egr := { e with c0 := q, peak := max e.peak q.length } }
  else ({ c with egr := { e with held := e.held ++ [(start, w)] } }).count O.class0QueueFull

def Conc.emit0 (c : Conc) (w : Word) : Conc := c.emitAt c.tick w

/-- Words whose source waited enter as room comes. -/
def Egress.refill (e : Egress) : Egress :=
  let n := 512 - e.c0.length
  let q := e.c0 ++ e.held.take n
  { e with c0 := q, held := e.held.drop n, peak := max e.peak q.length }

/-- Queue words on a downlink for the front-end of port `p`: untimed class 0. -/
def Conc.toFe0 (c : Conc) (p : Nat) (w : Word) : Conc :=
  c.updLane (laneDown p) fun l => { l with tx := { l.tx with c0 := l.tx.c0 ++ [w] } }

/-- Queue a timed word on a downlink. -/
def Conc.toFeTimed (c : Conc) (p : Nat) (w : Word) : Conc :=
  c.updLane (laneDown p) fun l => { l with tx := { l.tx with timed := l.tx.timed ++ [w] } }

/-- Take up a delivered item. -/
def Conc.take (c : Conc) (lane : Nat) (ws : List Word) : Conc :=
  { c with links := { c.links with inbox := consume lane ws c.links.inbox } }

/-- The concentrator runs: powered, out of reset and its firmware started. -/
def Conc.up (c : Conc) : Bool := !c.boot.inReset

/-! ## Logical engines (R214) -/

/-- The physical engine that serves a logical engine; none when it is lost. -/
def Conc.engine (c : Conc) (e : Nat) : Option Nat :=
  match Bank.get 0 c.eng.map e with
  | 0 => some e
  | v => if v = 256 then none else some (v - 1)

/-- Logical engines that are served (R291, R373). -/
def Conc.liveEngines (c : Conc) : Nat := ((List.range 96).filter fun e => (c.engine e).isSome).length

end Sys2Proof.Machine
end

