-- ==== Sys2Proof/Machine/ConcTime.lean ====
section
/-! DEFINITION. The time base (chapter 07): the nanosecond counter, PPS, second marks and their origins, the time-interval
unit and the port latencies. -/

namespace Sys2Proof.Machine

def Conc.withTime (c : Conc) (f : TimeBase → TimeBase) : Conc := { c with time := f c.time }

/-! ## The counter (R148-R150) -/

/-- What a base-tick period adds to the counter: the base increment each base tick, or the AO increment at each AO edge; the
second value says that it is an AO increment. -/
def TimeBase.adds (t : TimeBase) (edge : Bool) : Nat × Bool :=
  match t.hand with
  | 0 => if t.onAo then (if edge then (t.incAo * 256, true) else (0, false)) else (t.incBase, false)
  | 1 => (if edge then 0 else t.incBase, false)
  | 2 => (0, false)
  | _ => if edge then (t.incAo * 256, true) else (0, false)

/-- The counter is driven by the AO clock (R150). -/
def TimeBase.aoDriven (t : TimeBase) : Bool :=
  match t.hand with | 1 => false | 3 => true | _ => t.onAo

/-- The base clock runs (R150): it does until the AO edge of a planned stop. -/
def TimeBase.baseRuns (t : TimeBase) : Bool := !t.onAo || decide (t.hand = 1)

/-- One base-tick period of the counter.  A handover waits for the next AO edge (R150): until it the base increments go on
(planned) or stop (base clock lost), and the first AO increment follows at the edge after it; on a return the AO increment is
added at the edge, and the base increments count the base ticks that begin after it.  Where the sum crosses 10^9 ns is kept
(R148). (DEDUCED, log entry 19) -/
def TimeBase.tick (t : TimeBase) (before : Nat) : TimeBase :=
  let edge := decide (aoOf before < aoOf (before + 1))
  let hand := if edge then 0 else t.hand
  match t.load with
  | some v => { t with acc := v, load := none, hand := hand }
  | none =>
    let d := t.adds edge
    let u := { t with acc := t.acc + d.1, hand := hand, aoThisSecond := t.aoThisSecond || t.aoDriven || d.2 }
    if t.acc < giga ∧ giga ≤ u.acc then { u with crossTick := before + 1, crossBeyond := u.acc - giga, crossAo := d.2 } else u

/-- The counter leaves the base clock, `planned` or because the base clock is lost (R150). -/
def TimeBase.toAo (t : TimeBase) (planned : Bool) : TimeBase :=
  { t with onAo := true,
           hand := if t.onAo then t.hand else if t.hand = 3 then 0 else if planned then 1 else 2 }

/-- The counter returns to the base clock (R150). -/
def TimeBase.toBase (t : TimeBase) : TimeBase :=
  { t with onAo := false, hand := if !t.onAo then t.hand else if t.hand = 1 then 0 else if t.hand = 2 then 2 else 3 }

/-- The counter at the next AO edge while it runs on the AO clock (R152). -/
def TimeBase.atEdge (t : TimeBase) : Nat := match t.hand with | 2 => t.acc | _ => t.acc + t.incAo * 256

/-- The counter normalised: seconds and the sub-second value. -/
def TimeBase.value (t : TimeBase) : Nat × Nat :=
  if giga ≤ t.acc then ((t.seconds + 1) % 2 ^ 48, t.acc - giga) else (t.seconds, t.acc)

/-- The number of seconds whose true instants and increments are kept. -/
def keptSeconds : Nat := 70

/-- Note the true instant of a second, in fine ticks of the timeline, and its increment (R175). -/
def Gather.noteSecond (g : Gather) (s : Nat) (t : Int) (inc : Nat) : Gather :=
  { g with secs := (Bank.set (0, 0) g.secs s (t, inc)).filter fun p => s ≤ p.1 + keptSeconds }

/-- The true instant of the rollover that is due, in fine ticks, by interpolation within the tick of the clock whose increment
crossed 10^9 ns: an AO edge lies at a whole multiple of 23,437,500 fine ticks (R148, R505). -/
def Conc.rolloverInstant (c : Conc) : Int :=
  let t := c.time
  if t.crossAo then
    let inc := t.incAo * 256
    roundDiv ((aoOf t.crossTick * 23437500 * inc : Nat) - (t.crossBeyond * 23437500 : Nat)) inc
  else roundDiv ((t.crossTick * 8192 * t.incBase : Nat) - (t.crossBeyond * 8192 : Nat)) t.incBase

/-- The tick in which the sum crossed 10^9 ns. -/
def Conc.rolloverTick (c : Conc) : Nat := c.time.crossTick

/-! ## Records (R160, R161, R291) -/

def Conc.recordOn (c : Conc) (b : Nat) : Bool := bitAt (c.get O.recordEnable) b

def Conc.emitIf (c : Conc) (on : Bool) (w : Nat) : Conc := if on then c.emit0 (BitVec.ofNat 64 w) else c

/-- TIME_RECORD. -/
def timeRecord (t : TimeBase) : Nat :=
  0x20 * 2 ^ 56 + t.seconds % 2 ^ 48 + t.state * 2 ^ 48 + b1 t.aoThisSecond * 2 ^ 50 + b1 t.displaced * 2 ^ 51
    + b1 t.armed.isSome * 2 ^ 52 + b1 t.gap * 2 ^ 53

/-- SCALE_RECORD. -/
def scaleRecord (t : TimeBase) : Nat :=
  0x21 * 2 ^ 56 + t.incBase % 2 ^ 40 + t.seconds % 256 * 2 ^ 40 + b1 t.changed * 2 ^ 48

/-- ORIGIN_RECORD of a port's last mark. -/
def originRecord (p : Nat) (x : PortTime) : Nat :=
  0x23 * 2 ^ 56 + x.delta % 2 ^ 32 + p * 2 ^ 32 + x.markSecond.getD 0 % 256 * 2 ^ 38
    + b1 (x.valid && !x.restored) * 2 ^ 46

/-- ACTIVE back-end lanes. -/
def Conc.activeLanes (c : Conc) : Nat := ((List.range 18).filter fun n => (c.lane (laneBe n)).st = .active).length

def Conc.livePorts (c : Conc) : Nat := ((List.range 48).filter fun p => (c.gport p).st = .live).length

/-- STATUS_RECORD (R291). -/
def Conc.statusRecord (c : Conc) : Nat :=
  0x26 * 2 ^ 56 + (roundDiv (c.caro.use * 100 : Nat) (c.caro.storeSize * 2 ^ 20)).toNat % 256 + c.caro.kB % 32 * 2 ^ 8 + c.caro.kC % 32 * 2 ^ 13
    + c.activeLanes % 32 * 2 ^ 18 + c.livePorts * 2 ^ 23 + c.liveEngines % 128 * 2 ^ 29
    + c.time.seconds % 256 * 2 ^ 40

/-- delta_p in 2^-12 ns, saturating (R158, R160). -/
def deltaField (o : Int × Nat) (inc : Nat) : Nat := min (roundDiv (o.1 * inc) (o.2 * 2 ^ 20)).toNat (2 ^ 32 - 1)

/-- The ORIGIN_RECORDs of the ports whose mark for the second that starts has been sent, with the offset converted at the
increment of that second (R157). -/
def Conc.originRecords (c : Conc) : Conc :=
  (List.range 48).foldl (fun c p =>
    let x := c.ptime p
    if x.originDue ∧ x.markSecond = some c.time.seconds then
      let y := { x with originDue := false, delta := deltaField (x.offNum, x.offDen) c.time.incBase }
      (c.setPtime p y).emitIf (c.recordOn 3) (originRecord p y)
    else c) c

/-- The records of a second that starts (R161, R291). -/
def Conc.secondRecords (c : Conc) : Conc :=
  let c := c.emitIf (c.recordOn 0) (timeRecord c.time)
  let c := c.emitIf (c.recordOn 1) (scaleRecord c.time)
  let c := c.originRecords
  c.emit0 (BitVec.ofNat 64 c.statusRecord)

/-- A write of an increment: what was pending before the tick of the write is kept for a rollover in that tick (R170). -/
def Conc.writeIncrement (c : Conc) (o : Obj) (v : Nat) : Conc :=
  let c := if c.time.wroteAt = some c.tick then c
    else c.withTime fun t => { t with wroteAt := some c.tick, before := (c.get O.incrementBase, c.get O.incrementAo) }
  c.put o v

/-- The increments pending at a rollover in tick `at?` take effect; one written in that tick waits for the next
(R151, R170). (DEDUCED, log entry 19) -/
def Conc.takeIncrements (c : Conc) (at? : Nat) : Conc :=
  let late : Bool := match c.time.wroteAt with | some w => decide (at? ≤ w) | none => false
  let b := if late then c.time.before.1 else c.get O.incrementBase
  let a := if late then c.time.before.2 else c.get O.incrementAo
  let c := if b = c.time.incBase ∧ a = c.time.incAo then c else c.touch
  let c := c.withTime fun t => { t with changed := decide (b ≠ t.incBase), incBase := b, incAo := a }
  c.put O.incrementInUse b

/-- Second marks may be sent to a port: enabled, on the base clock, on a downlink of its lease (R157). -/
def Conc.marks (c : Conc) (p : Nat) : Bool :=
  decide (c.get O.markEnable ≠ 0) && !c.time.onAo && c.acts p && decide ((c.lane (laneDown p)).st = .aligned)

/-- The ports that could have been sent the mark of the second that starts and were not: they are sent it late (R158).
(DEDUCED, log entry 19) -/
def Conc.oweMarks (c : Conc) : Conc :=
  let s := c.time.seconds
  (List.range 48).foldl (fun c p =>
    let x := c.ptime p
    if c.marks p ∧ x.markSecond ≠ some s then c.setPtime p { x with owed := some s } else c) c

/-- ROLLOVER (R148, R151, R161): once the nanoseconds have reached 10^9. (DEDUCED, log entry 19) -/
def Conc.rollover (c : Conc) : Conc :=
  if c.time.acc < giga then c
  else
    let t := c.rolloverInstant
    let at? := c.rolloverTick
    let c := c.withTime fun x => { x with acc := x.acc - giga, seconds := (x.seconds + 1) % 2 ^ 48, windowDone := false }
    let c := c.takeIncrements at?
    let c := { c with gather := c.gather.noteSecond c.time.seconds t c.time.incBase }
    let c := c.secondRecords.oweMarks
    c.withTime fun x => { x with aoThisSecond := x.crossAo || x.aoDriven }

/-! ## PPS (R152-R155) -/

/-- 50,000 ns in units of 2^-32 ns. -/
def ppsHalf : Nat := 50000 * 2 ^ 32

/-- PPS_RECORD. -/
def ppsRecord (offset : Int) (second verdict : Nat) (ao : Bool) : Nat :=
  0x22 * 2 ^ 56 + ofSigned 40 (roundDiv offset (2 ^ 24)) + second % 256 * 2 ^ 40 + verdict * 2 ^ 48 + b1 ao * 2 ^ 51

/-- What is captured of an edge `delay` fine ticks after the last base tick (R152, R505). -/
def TimeBase.captureOf (t : TimeBase) (delay : Nat) : Nat × Nat :=
  let v := if t.aoDriven then t.atEdge else t.acc + (roundDiv (delay * t.incBase : Nat) 8192).toNat
  if giga ≤ v then (t.seconds + 1, v - giga) else (t.seconds, v)

/-- The judgement of an edge in ALIGNED or HOLDOVER (R154).  An edge in the tick in which the window closes counts as arrived
(R170). -/
def TimeBase.judge (t : TimeBase) (offset : Int) : Bool × TimeBase :=
  let inside := decide (offset.natAbs ≤ ppsHalf) || decide (t.value.2 ≤ ppsHalf) && decide (0 < offset)
  if inside && !t.windowTaken && !t.displaced then
    (true, { t with windowTaken := true, rejections := 0, state := 1 })
  else
    let n := t.rejections + 1
    (false, { t with rejections := n, displaced := t.displaced || decide (8 ≤ n) })

/-- The marks sent for the old scale keep their own records, with their own second; the new scale's are still to be sent
(R158). -/
def Conc.oldMarks (c : Conc) : Conc :=
  (List.range 48).foldl (fun c p =>
    let x := c.ptime p
    let c := c.setPtime p { x with originDue := false, markSecond := none, owed := none }
    if x.originDue then c.emitIf (c.recordOn 3) (originRecord p x) else c) c

/-- 1 ms of counter time, in units of 2^-32 ns. -/
def msCount : Nat := 1000000 * 2 ^ 32

/-- The counter's value since second 0, in units of 2^-32 ns. -/
def Conc.counterNow (c : Conc) : Nat := c.time.seconds * giga + c.time.acc

/-- The first point after `now` of a grid of step `d` through `p`. -/
def nextPoint (d p now : Nat) : Nat := now + d - (now + d - p % d) % d

/-- The counter has moved: the prescaling grids go on from their next points (R210). (DEDUCED, log entry 22) -/
def Conc.regrid (c : Conc) : Conc :=
  let n := c.counterNow
  { c with caro := { c.caro with grid1 := nextPoint msCount c.caro.grid1 n, grid10 := nextPoint (10 * msCount) c.caro.grid10 n } }

/-- The alignment (R155): the counter reads zero at the edge; the instant counts as a rollover; a counter that has not yet come
back from the AO clock counts base ticks from the edge on.  The window of that instant counts as taken, and the count of
rejections in a row starts anew. (DEDUCED, log entry 19; DESIGN CHOICE, log entry 53) -/
def Conc.align (c : Conc) (delay : Nat) : Conc :=
  let s := c.get O.alignSeconds
  let c := c.withTime fun t =>
    { t with seconds := s, acc := 0, state := 1, armed := none, displaced := false, gap := false, rejections := 0,
             windowTaken := true, windowDone := false, owed := some s,
             hand := if t.hand = 1 then 1 else 0, aoThisSecond := false }
  let c := c.takeIncrements c.tick
  let c := c.withTime fun t => { t with load := some (roundDiv ((8192 - delay) * t.incBase : Nat) 8192).toNat }
  let c := { c with gather := c.gather.noteSecond s (c.tick * 8192 + delay : Nat) c.time.incBase }
  let c := (c.put O.timeStateCode 1).put O.alignArm 0
  c.secondRecords.oldMarks.regrid

/-- A PPS edge (R152-R155): `falling` is its polarity. (DEDUCED, log entry 19) -/
def Conc.ppsEdge (c : Conc) (falling : Bool) (delay : Nat) : Conc :=
  if b1 falling ≠ c.get O.ppsPolarity then c
  else
    let t := c.time
    let cap := t.captureOf delay
    let offset : Int := if cap.2 < giga / 2 then cap.2 else (cap.2 : Int) - giga
    let second := if cap.2 < giga / 2 then cap.1 else cap.1 + 1
    let ao := t.aoDriven
    let armed : Bool := match t.armed with | some w => decide (w < c.tick) && t.baseRuns | none => false
    let note (c : Conc) (v : Nat) : Conc :=
      (c.withTime fun x => { x with lastPps := some c.tick, capture := (cap.1, cap.2, v + b1 ao * 128) }).emitIf
        (c.recordOn 2) (ppsRecord offset second v ao)
    if armed then note (c.align delay) 4
    else if t.state = 0 then note c 3
    else
      let r := t.judge offset
      let c := { c with time := r.2 }
      if r.1 then note (c.put O.timeStateCode 1) 1 else note (c.count O.ppsRejected) 2

/-- PPS_WINDOW_CLOSE (R154): 50,000 ns of counter time after the rollover; an accepted edge or a missed window. -/
def Conc.ppsWindowClose (c : Conc) : Conc :=
  let t := c.time
  if t.state = 0 ∨ t.windowDone ∨ t.acc ≤ ppsHalf ∨ giga ≤ t.acc + ppsHalf then c
  else if t.windowTaken then c.withTime fun x => { x with windowTaken := false, windowDone := true }
  else
    let c := c.withTime fun x => { x with windowDone := true, state := 2 }
    (c.put O.timeStateCode 2).count O.ppsMissed

/-- A write of `AlignArm` (R155). -/
def Conc.writeAlignArm (c : Conc) (v : Nat) : Res Conc :=
  if 1 < v then .error Abort.range
  else .ok ((c.withTime fun t => { t with armed := if v = 1 then some c.tick else none }).put O.alignArm v)

/-- A planned stop of the base clock (R150). -/
def Conc.counterToAo (c : Conc) : Conc := c.withTime fun t => t.toAo true

/-- The base clock is lost: the time up to the next AO edge is not counted (R150). -/
def Conc.counterLost (c : Conc) : Conc := c.withTime fun t => { t.toAo false with gap := true }

def Conc.withLight (c : Conc) (f : Light → Light) : Conc := { c with light := f c.light }

/-- The flashes due before this tick will not start: the drive was gated, the base clock did not run, or the schedule was
another (R448). (DEDUCED, log entry 45) -/
def Conc.flashFrom (c : Conc) : Conc :=
  c.withLight fun l => { l with lastBeat := max l.lastBeat (32 * c.tick - 1), fire := l.fire.filter fun t => decide (c.tick ≤ t) }

/-- A restart of the base clock (R150). -/
def Conc.counterToBase (c : Conc) : Conc := (c.withTime fun t => t.toBase).flashFrom

/-- `TimeFlags` (R171).  Before step 2 of a power-on boot D0 does not run (R469). -/
def Conc.timeFlags (c : Conc) : Nat :=
  let t := c.time
  let recent : Bool := match t.lastPps with | some x => decide (c.tick ≤ x + 2 * secTicks) | none => false
  let started := !(decide (c.boot.step = 1) && decide (c.get O.resetCause = 1))
  b1 (started && (t.onAo || t.aoDriven)) + b1 t.displaced * 2 + b1 t.armed.isSome * 4 + b1 t.gap * 8 + b1 recent * 16

/-! ## Second marks (R156-R158) -/

/-- K_mark + L_p in 1/65,536 beat. -/
def markDelay (x : PortTime) : Nat := 135266304 + (if x.valid ∨ x.restored then x.lat else 0)

/-- The offset of a mark sent at this tick for the next second, as a fraction of base ticks: numerator and denominator. -/
def Conc.nextOffset (c : Conc) (x : PortTime) : Int × Nat :=
  ((markDelay x * c.time.incBase : Nat) - ((giga - c.time.acc) * 2 ^ 21 : Nat), 2 ^ 21 * c.time.incBase)

/-- The same for the second that has begun. -/
def Conc.lateOffset (c : Conc) (x : PortTime) : Int × Nat :=
  ((markDelay x * c.time.incBase + c.time.acc * 2 ^ 21 : Nat), 2 ^ 21 * c.time.incBase)

/-- A downlink slot begins at this tick and its cell has not left (R95). -/
def Conc.slotOpen (c : Conc) (p : Nat) : Bool :=
  decide (c.tick % 20 = 0) && decide ((c.lane (laneDown p)).tx.slotAt ≠ some c.tick)

/-- The word goes out on the port's downlink, and the concentrator records second, origin and offset.
(DEDUCED, log entry 19) -/
def Conc.sendMark (c : Conc) (p s : Nat) (o : Int × Nat) (inc : Nat) (late : Bool) : Conc :=
  let x := c.ptime p
  let origin : Int := (c.tick * 8192 : Nat) + roundDiv (markDelay x) 256
  let g := c.gport p
  let m : SentMark := { second := s, origin := origin, tick := c.tick }
  let c := c.setGport p { g with sent := m :: g.sent.filter (fun m => decide (c.tick ≤ m.tick + 64 * secTicks)) }
  let y := { x with markSecond := some s, delta := deltaField o inc, offNum := o.1, offDen := o.2,
                    owed := none, originDue := !late }
  let c := (c.setPtime p y).toFeTimed p (BitVec.ofNat 64 (2 ^ 56 + s % 2 ^ 32))
  if late then c.emitIf (c.recordOn 3) (originRecord p y) else c

/-- SECOND_MARK_SEND in the downlink slot that begins at this tick (R157, R158): a mark owed for the second that has begun, or
the mark of the next second once its offset is not negative; 20 base ticks or more make it late. -/
def Conc.secondMarkSend (c : Conc) (p : Nat) : Conc :=
  let x := c.ptime p
  let t := c.time
  if c.marks p = false ∨ c.slotOpen p = false then c
  else if (t.owed = some t.seconds ∨ x.owed = some t.seconds) ∧ x.markSecond ≠ some t.seconds ∧ x.markSecond ≠ some (t.seconds + 1) then
    (c.sendMark p t.seconds (c.lateOffset x) t.incBase true).count O.lateMarks
  else
    let o := c.nextOffset x
    if o.1 < 0 ∨ x.markSecond = some (t.seconds + 1) then c
    else
      let late := decide ((20 * o.2 : Nat) ≤ o.1)
      let c := c.sendMark p (t.seconds + 1) o (c.get O.incrementBase) false
      if late then c.count O.lateMarks else c

/-- A mark that waits for its slot is dropped with the lease: no record of it (R170). -/
def Conc.unmark (c : Conc) (p : Nat) : Conc :=
  if (c.lane (laneDown p)).tx.timed.any fun w => w.toNat / 2 ^ 56 == 1 then
    c.setPtime p { c.ptime p with originDue := false, markSecond := none }
  else c

/-! ## The time-interval unit (R163-R166) -/

def Conc.withTiu (c : Conc) (f : Tiu → Tiu) : Conc := c.withTime fun t => { t with tiu := f t.tiu }

/-- Integer square root, rounded down, of a number below 2^128. -/
def isqrt (n : Nat) : Nat :=
  (List.range 64).foldl (fun r i => if (r + 2 ^ (63 - i)) * (r + 2 ^ (63 - i)) ≤ n then r + 2 ^ (63 - i) else r) 0

/-- The population standard deviation of samples in 1/65,536 beat, rounded to nearest (R166). -/
def stdDev (xs : List Nat) : Nat :=
  let n := xs.length
  let s := xs.foldl (· + ·) 0
  let q := xs.foldl (fun v x => v + x * x) 0
  let v := (n * q - s * s) * 2 ^ 32
  let r := isqrt (v / (n * n))
  if (2 * r + 1) * (2 * r + 1) * (n * n) ≤ 4 * v then r + 1 else r

def listMin (xs : List Nat) : Nat := xs.foldl min (xs.headD 0)
def listMax (xs : List Nat) : Nat := xs.foldl max 0

/-- The mean of samples in 1/65,536 beat. -/
def meanOf (xs : List Nat) : Nat := (roundDiv (xs.foldl (· + ·) 0 * 65536 : Nat) xs.length).toNat

/-- The results of a run over its valid samples.  Of no sample at all the count is 0 and the spec states no mean, deviation,
minimum or maximum: free values. (DESIGN CHOICE, log entry 52) -/
def Conc.tiuReport (c : Conc) (xs : List Nat) : Conc :=
  if xs = [] then
    let a := c.drawNat
    let b := a.2.drawNat
    let d := b.2.drawNat
    let e := d.2.drawNat
    ((((e.2.put O.tiuMean (a.1 % 2 ^ 64)).put O.tiuStdDev (b.1 % 2 ^ 32)).put O.tiuMin (d.1 % 2 ^ 32)).put
      O.tiuMax (e.1 % 2 ^ 32)).put O.tiuValid 0
  else
    ((((c.put O.tiuMean (meanOf xs)).put O.tiuStdDev (min (stdDev xs) (2 ^ 32 - 1))).put O.tiuMin (listMin xs)).put
      O.tiuMax (listMax xs)).put O.tiuValid xs.length

/-- The samples a run takes. -/
def Conc.tiuTarget (c : Conc) : Nat :=
  match c.time.tiu.own with
  | some _ => c.get O.latencySamples
  | none => c.get O.tiuSamples

/-- L_p from the mean (R167), in 1/65,536 beat: `a` is the asymmetry in ps. -/
def latencyOf (mean : Nat) (a : Int) : Nat :=
  (roundDiv (1000 * ((mean : Int) - (393216 + 1409024 + 135987200)) - a * 3 * 65536) 2000).toNat

/-- A run has ended: `status` 2 done, 3 aborted, 4 done with no valid sample.  A run of the latency measurement gives the
port its latency. (DEDUCED, log entry 18) -/
def Conc.tiuEnd (c : Conc) (status : Nat) : Conc :=
  let u := c.time.tiu
  let c := c.withTiu fun x => { x with running := false, pending := [], samples := [], rejected := 0, own := none,
                                       discover := false, found := [] }
  let c := c.put O.tiuStatus status
  if status = 3 then c
  else
    let c := c.tiuReport u.samples
    match u.own with
    | none => c
    | some p =>
      if u.samples = [] then c
      else
        let x := c.ptime p
        let a := toSigned 32 (entryGet 32 (c.get O.asymmetry) (2 * p + b1 x.onOdd))
        let m := meanOf u.samples
        (c.setPtime p { x with trip := m, lat := latencyOf m a, valid := true, restored := false, measured := some c.tick,
                                redo := false }).touch

/-- Whether the run in progress has reached its end (R164); what is rejected while echo slots are found counts too. -/
def Conc.tiuCheck (c : Conc) : Conc :=
  let u := c.time.tiu
  if u.running = false then c
  else if u.discover = false ∧ c.tiuTarget ≤ u.samples.length then c.tiuEnd 2
  else if c.tiuTarget ≤ u.rejected then c.tiuEnd (if u.samples = [] then 4 else 3)
  else c

/-- The echo slots are found and the run goes on with its samples (R167). -/
def Conc.tiuFound (c : Conc) : Conc :=
  c.withTiu fun x => { x with pending := [], discover := false, found := [], lastEcho := none }

/-- Start a run (R164), or the discovery of a port's echo slots before it: they are then not found (R167). -/
def Conc.tiuStart (c : Conc) (own : Option Nat) (discover : Option Nat) : Conc :=
  let c := match discover with
    | some p => c.setPtime p { c.ptime p with residue := 0xFF, found := false }
    | none => c
  (c.withTiu fun x => { x with running := true, pending := [], samples := [], rejected := 0, own := own,
                               discover := discover.isSome, found := [], lastEcho := none }).put O.tiuStatus 1

/-- A write of `TiuRun` (R164, R171): a port-echo run on a port whose echo slots are not found first finds them.
(DEDUCED, log entry 18) -/
def Conc.writeTiuRun (c : Conc) (v : Nat) : Res Conc :=
  if 1 < v then .error Abort.range
  else if v = 0 then .ok (if c.time.tiu.running then c.tiuEnd 3 else c)
  else if c.get O.tiuMode = 0 then .ok c
  else if c.get O.tiuMode = 1 ∧ (c.lane (laneDown (c.get O.tiuPort))).st ≠ .aligned then .error Abort.range
  else
    let p := c.get O.tiuPort
    .ok (c.tiuStart none (if c.get O.tiuMode = 1 ∧ (c.ptime p).found = false then some p else none))

/-- A write of any `TiuConfig` sub-index is refused while the Ringmaster owns the TIU; sub-indices 01 to 04 also during a
run (R167, R171). -/
def Conc.tiuWriteOk (c : Conc) (sub : Nat) : Res Unit :=
  if c.get O.autoLatency = 1 then .error (Abort.owned 0x02000001)
  else if sub < 5 ∧ c.time.tiu.running then .error Abort.range
  else .ok ()

/-- A write of `TiuMode` or `TiuPort` that makes mode 1 of a port without an aligned downlink is refused (R171). -/
def Conc.tiuPortOk (c : Conc) (sub v : Nat) : Bool :=
  let m := if sub = 1 then v else c.get O.tiuMode
  let p := if sub = 2 then v else c.get O.tiuPort
  decide (2 < sub) || decide (m ≠ 1) || decide ((c.lane (laneDown p)).st = .aligned)

/-- The port that a mode-1 run echoes on. -/
def Conc.tiuPortNow (c : Conc) : Option Nat :=
  let u := c.time.tiu
  if u.running = false then none
  else match u.own with
    | some p => some p
    | none => if c.get O.tiuMode = 1 then some (c.get O.tiuPort) else none

/-- TIU_ECHO_SEND in the downlink slot that begins at this tick (R164, R167): in the port's echo slots; in discovery one echo
in each of nine consecutive slots. -/
def Conc.tiuEchoSend (c : Conc) : Conc :=
  let u := c.time.tiu
  match c.tiuPortNow with
  | none => c
  | some p =>
    let k := c.tick / 20 % 9
    let x := c.ptime p
    let spaced : Bool := match u.lastEcho with
      | none => true
      | some t => decide (t + (if u.discover then 20 else 180) ≤ c.tick)
    let slotOk := u.discover || x.found && x.residue == k
    let fresh := !u.discover ||
      (Bank.find? u.found k).isNone && u.pending.all fun (y : TiuStart) => decide (y.tick / 20 % 9 ≠ k)
    if c.slotOpen p && spaced && slotOk && fresh && decide (u.pending.length < (if u.discover then 9 else 4)) then
      let tag := u.nextTag % 2 ^ 16
      let st : TiuStart := { tag := tag, beat := c.tick * 32, tick := c.tick }
      (c.withTiu fun x => { x with pending := x.pending ++ [st], nextTag := (tag + 1) % 2 ^ 16, lastEcho := some c.tick }).toFeTimed
        p (BitVec.ofNat 64 (0x02 * 2 ^ 56 + tag))
    else c

/-- The slot with the shortest round trip. -/
def shortest (b : Bank Nat) : Nat :=
  (b.foldl (fun (best : Option (Nat × Nat)) p => match best with
    | some (k, v) => if p.2 < v then some p else some (k, v)
    | none => some p) none).elim 0xFF fun p => p.1

/-- A stop registers `beat` beats and `sub`/256 beat into this base tick, later by a random u/256 beat (R163): a sample.
(DEDUCED, log entry 18) -/
def Conc.tiuSample (c : Conc) (st : TiuStart) (beat sub : Nat) : Conc :=
  let d := c.drawNat
  let c := d.2
  let stop := ((c.tick * 32 + beat) * 256 + sub + d.1 % 256) / 256
  let c := c.withTiu fun x => { x with pending := x.pending.filter fun y => y.tag ≠ st.tag }
  let u := c.time.tiu
  if u.discover then
    let found := Bank.insert u.found (st.tick / 20 % 9) (stop - st.beat)
    if found.length = 9 then
      match c.tiuPortNow with
      | some p => (c.setPtime p { c.ptime p with residue := shortest found, found := true }).touch.tiuFound
      | none => c.withTiu fun x => { x with found := found }
    else c.withTiu fun x => { x with found := found }
  else (c.withTiu fun x => { x with samples := x.samples ++ [stop - st.beat] }).tiuCheck

/-- A stop that no start waits for (R165). -/
def Conc.tiuWrong (c : Conc) : Conc :=
  ((c.count O.tiuWrongOrder).withTiu fun x => { x with rejected := x.rejected + 1 }).tiuCheck

/-- 2^24 beats (R165). -/
def tiuLimit : Nat := 16777216

/-- Starts whose limit of 2^24 beats lies before beat `now` are discarded; a stop in the beat of the limit still counts
(R165, R170). -/
def Conc.tiuExpire (c : Conc) (now : Nat) : Conc :=
  let u := c.time.tiu
  let old := (u.pending.filter fun y => y.beat + tiuLimit < now).length
  if old = 0 then c
  else
    let c := c.count O.tiuTimeouts 0 old
    (c.withTiu fun x => { x with pending := x.pending.filter (fun y => now ≤ y.beat + tiuLimit),
                                 rejected := x.rejected + old }).tiuCheck

/-- TIU_SAMPLE_TIMEOUT: the beats up to this tick have passed. (DEDUCED, log entry 18) -/
def Conc.tiuTimeout (c : Conc) : Conc := c.tiuExpire (c.tick * 32)

/-- ECHO_REPLY on ingress lane `l` (R164). -/
def Conc.echoReply (c : Conc) (l tag beat sub : Nat) : Conc :=
  match c.tiuPortNow with
  | none => c
  | some p =>
    if l / 2 ≠ p then c
    else
      let x := c.ptime p
      let c := (c.setPtime p { x with onOdd := decide (l % 2 = 1) }).tiuExpire (c.tick * 32 + beat)
      match c.time.tiu.pending.find? fun y => y.tag = tag with
      | some st => c.tiuSample st beat sub
      | none => c.tiuWrong

/-- The pins' gate is open (R164). -/
def Conc.tiuGate (c : Conc) : Bool := c.get O.tiuGateSource == 0 || c.time.tiu.gateHigh

/-- A TI_START edge in pin mode: a newer start replaces the pending one (R164, R165).  `gate` is the level of TI_GATE; a start
while the gate is closed is ignored, and the one that is pending stays. (DESIGN CHOICE, log entry 53) -/
def Conc.tiuStartEdge (c : Conc) (beat : Nat) (gate : Bool) : Conc :=
  let c := c.withTiu fun x => { x with gateHigh := gate }
  if c.time.tiu.running ∧ c.get O.tiuMode = 2 ∧ c.time.tiu.own = none ∧ c.tiuGate then
    c.withTiu fun x => { x with pending := [{ tag := 0, beat := c.tick * 32 + beat, tick := c.tick }] }
  else c

/-- A TI_STOP edge in pin mode. -/
def Conc.tiuStopEdge (c : Conc) (beat sub : Nat) : Conc :=
  if c.time.tiu.running ∧ c.get O.tiuMode = 2 ∧ c.time.tiu.own = none then
    let c := c.tiuExpire (c.tick * 32 + beat)
    match c.time.tiu.pending with
    | st :: _ => c.tiuSample st beat sub
    | [] => c.tiuWrong
  else c

/-- The downlink or the reply lane of a port realigned: a mode-1 run on it aborts, and the port is measured anew, echo slots
included (R165, R167).  The latency measured before stays valid until then. (DESIGN CHOICE, log entry 53) -/
def Conc.remeasure (c : Conc) (p : Nat) : Conc :=
  let c := (c.setPtime p { c.ptime p with residue := 0xFF, found := false, redo := true }).touch
  if c.tiuPortNow = some p then c.tiuEnd 3 else c

/-- Ingress lane `l` of port `p` realigned: it matters on the lane that carries the replies. -/
def Conc.portRealigned (c : Conc) (p l : Nat) : Conc :=
  if l % 2 = b1 (c.ptime p).onOdd then c.remeasure p else c

/-- The Ringmaster starts to measure a port whose measurement is due (R167). -/
def Conc.latencyDue (c : Conc) (p : Nat) : Conc :=
  let x := c.ptime p
  let period := c.get O.latencyPeriod
  let due : Bool := match x.measured with
    | none => true
    | some t => decide (0 < period ∧ t + period * secTicks ≤ c.tick)
  if c.get O.autoLatency = 1 ∧ (due ∨ x.redo) ∧ c.acts p ∧ c.time.tiu.running = false ∧ (c.lane (laneDown p)).st = .aligned then
    c.tiuStart (some p) (if x.found then none else some p)
  else c

/-- `PortLatency` (R171): 12 bytes a port. -/
def Conc.portLatencies (c : Conc) : Nat :=
  packEntries 96 ((List.range 48).map fun p =>
    let x := c.ptime p
    let age := match x.measured with | some t => min (nearest (c.tick - t) secTicks) 65535 | none => 0
    x.trip % 2 ^ 32 + x.lat % 2 ^ 32 * 2 ^ 32
      + x.residue % 256 * 2 ^ 64
      + (b1 x.valid + 2 * b1 x.onOdd + 4 * b1 x.restored) * 2 ^ 72 + age * 2 ^ 80)

/-! ## Back-end echo (R169) -/

/-- BE_ECHO_REQUEST on physical back-end lane `n`, whose marker began `age` beats before this base tick:
answered in the first L slot that begins at least 8 base ticks from now. -/
def Conc.beEchoRequest (c : Conc) (n tag age : Nat) : Conc :=
  { c with links := { c.links with
      beEchoes := c.links.beEchoes ++ [(n, c.tick * 32 - age, tag % 2 ^ 16 + (c.tick + 8) * 2 ^ 16)] } }

/-- BE_ECHO_REPLY at tick `now` to a request whose marker began in beat `asked` (R169). (DEDUCED, log entry 18) -/
def beEchoReply (now asked tag : Nat) : Word :=
  BitVec.ofNat 64 (0x24 * 2 ^ 56 + tag % 2 ^ 16 + (now * 32 - asked + Config.beEchoPins) % 2 ^ 24 * 2 ^ 16)

end Sys2Proof.Machine
end

