-- ==== Sys2Proof/Machine/ConcLanes.lean ====
section
/-! DEFINITION. The concentrator's lanes (chapter 05): blind bring-up with Tightrope, full training, parking, test mode, PLL
quads, and the start and reset of links (R142-R144). -/

namespace Sys2Proof.Machine

/-- The lane's entry of `LaneControl`. -/
def Conc.laneCtl (c : Conc) (i : Nat) : Nat := entryGet 8 (c.get O.laneControl) i

/-- The port of a side-link lane. -/
def portOfLane (i : Nat) : Nat := if i < 48 then i else (i - 48) / 2

/-- The usable receiver states: a blind lane delivers in ALIGNED, a trained one in ACTIVE. -/
def Lane.delivering (l : Lane) : Bool := decide (l.st = .aligned ∨ l.st = .active)

/-! ## The power of a quad's PLL (R112, R113) -/

/-- The PLL of a quad goes off once all its lanes are PARKED and have sent their PARK cells (R112).
(DEDUCED, log entry 16) -/
def Conc.parkQuad (c : Conc) (q : Nat) : Conc :=
  let off := (List.range 164).all fun i =>
    decide (quadOf i ≠ q) || (decide ((c.lane i).st = .parked) && decide ((c.lane i).train.parkLeft = 0))
  if off ∧ (c.quad q).retired = false then c.setQuad q { c.quad q with locked := false, powered := false } else c

/-- The PLL of a quad starts when one of its lanes unparks; it transmits from its lock on (R113). -/
def Conc.powerQuad (c : Conc) (q : Nat) : Conc :=
  if (c.quad q).retired then c else c.setQuad q { c.quad q with powered := true }

/-- The PLL of a quad is locked, as after the clocks' start in a ladder (R345 step 3, R469 step 4).
(DEDUCED, log entry 16) -/
def Conc.lockQuad (c : Conc) (q : Nat) : Conc :=
  if (c.quad q).retired then c else c.setQuad q { c.quad q with locked := true, powered := true }

/-! ## Ports and their lanes (R172, R181, R283) -/

/-- An ingress lane of the port is ALIGNED. -/
def Conc.portAligned (c : Conc) (p : Nat) : Bool :=
  decide ((c.lane (laneIn (2 * p))).st = .aligned) || decide ((c.lane (laneIn (2 * p + 1))).st = .aligned)

/-- Open a discontinuity of a port from its last progress (R283). -/
def GPort.discontinuity (g : GPort) : GPort := { g with disc := (g.lastP, none) :: g.disc }

/-- The identities a port's lanes may carry (R127). -/
def identityOk (even odd : Option Nat) : Bool :=
  (match even with | some v => v == 0 || v == 2 | none => true)
  && (match odd with | some v => v == 1 || v == 3 | none => true)
  && (match even, odd with | some a, some b => a / 2 == b / 2 | _, _ => true)

/-- The lanes of a port fit (R127). -/
def Conc.cabled (c : Conc) (p : Nat) : Bool :=
  identityOk (c.lane (laneIn (2 * p))).identity (c.lane (laneIn (2 * p + 1))).identity

/-- Bring a port's state to what R172 says of its enable, its lanes and its lease.  A leased port without an ALIGNED lane is
ABSENT, but a LIVE or STALE one keeps its state: it goes STALE by its own timer (R181); one that returns from ABSENT with a
placed epoch is REJOINING. (DEDUCED, log entry 20) -/
def Conc.portRefresh (c : Conc) (p : Nat) : Conc :=
  let g := c.gport p
  let leased := decide ((c.lease p).status = 2)
  let st : PortSt :=
    if bitAt (c.get O.portEnable) p = false then .disabled
    else if c.cabled p = false then .fault
    else if leased then
      (match g.st with
        | .live | .stale => g.st
        | .starting | .rejoining => if c.portAligned p then g.st else .absent
        | _ =>
          if c.portAligned p = false then .absent
          else if g.epoch.isSome then .rejoining else .starting)
    else if c.portAligned p then .unleased else .absent
  if st = g.st then c
  else if leased then c.setGport p { g with st := st, rejoin := 0 }
  else c.setGport p { g with st := st, epoch := none, prev := none, lagging := false, rejoin := 0,
                             lane0 := { g.lane0 with progress := none }, lane1 := { g.lane1 with progress := none } }

/-! ## Link start and reset (R142-R144) -/

/-- The ingress lanes of port `p` that a scope covers. -/
def scopeLanes (p scope : Nat) : List Nat :=
  match scope with | 0 => [2 * p, 2 * p + 1] | 1 => [2 * p] | 2 => [2 * p + 1] | _ => []

/-- Reset a receiver of a side link: the credit withheld on it starts from 0 like every counter (R142, R173), the port rejoins
(R181, R189), and discarded class-2 cells open a discontinuity (R283). -/
def Conc.resetIngress (c : Conc) (l : Nat) : Conc :=
  let x := c.lane (laneIn l)
  let c := c.setLane (laneIn l) x.resetRx
  let g := c.gport (l / 2)
  let g := if l % 2 = 0 then { g with withheld := (0, g.withheld.2) } else { g with withheld := (g.withheld.1, 0) }
  let g := if x.rx.buf2 = [] then g else g.discontinuity
  c.setGport (l / 2) (if g.st = .live ∨ g.st = .rejoining then { g with st := .rejoining, lagging := false, rejoin := 0 } else g)

/-- Add a run of cells to a transmitter that the scope does not cover: its own synchronisation stays as it is (R142). -/
def Lane.run (l : Lane) (signal scope : Nat) : Lane :=
  { l with tx := l.tx.addRun { signal := signal, scope := scope, left := 16, sync := false } }

/-- Reset the side link of a port in a scope and send a run on its downlink (R142).  Renewals and their answers in flight are
lost with it: no answer that comes is theirs (R379). -/
def Conc.resetSide (c : Conc) (p signal scope : Nat) : Conc :=
  let c := c.setLease p { c.lease p with unanswered := [] }
  let c := (scopeLanes p scope).foldl (fun c l => c.resetIngress l) c
  if scope = 0 then c.updLane (laneDown p) fun l => l.resetTx signal scope
  else c.updLane (laneDown p) fun l => l.run signal scope

/-- What a reset of a back-end lane loses: the records and bulk records in its unacknowledged cells and the rest of one it was
sending, which are reported one by one, and the rest of a response begun; whole responses that wait stay (R144, R287, R296).  The
space of a record whose trailer has not entered the replay buffer is not released. (DEDUCED, log entry 14) -/
def Conc.recordLosses (c : Conc) (i : Nat) : Conc :=
  let x := c.eLane i
  let seqs := (c.lane i).tx.bulkSeqs
  let hit := x.carried.filter fun y => seqs.contains y.1
  let recs := (hit.flatMap (fun y => y.2.1) ++ x.record.toList).eraseDups
  let bulks := (hit.flatMap (fun y => y.2.2) ++ x.bulk.toList).eraseDups
  let c := recs.foldl (fun c r => (c.emit0 (BitVec.ofNat 64 (0x28 * 2 ^ 56 + r % 2 ^ 48))).count O.recordsLost) c
  let c := bulks.foldl (fun c r => c.emit0 (BitVec.ofNat 64 (0x28 * 2 ^ 56 + r % 2 ^ 48 + 2 ^ 48))) c
  let c := { c with egr := { c.egr with bulk := c.egr.bulk.filter fun y => !bulks.contains y.number } }
  c.setELane i { x with left := [], record := none, size := 0, segs := x.segs.drop x.begun, begun := 0, bulk := none, carried := [] }

/-- The configuration session ends (R319). -/
def Conc.endSession (c : Conc) : Conc := { c with dict := { c.dict with session := none } }

/-- A link reset of the path on which the session was opened ends it (R319). -/
def Conc.pathReset (c : Conc) (i : Nat) : Conc :=
  if (c.dict.session = some 1 ∨ c.dict.session = some 2) ∧ c.dict.sessionLane = i then c.endSession else c

/-- Reset a trained lane's link (R142). -/
def Conc.resetTrained (c : Conc) (i signal : Nat) : Conc :=
  let c := if laneKind i = .backEnd then c.recordLosses i else c
  (c.updLane i fun l => (l.resetTx signal 0).resetRx).pathReset i

/-- The source of R306 that sends on a trained lane: 1 back end, 2 partner. -/
def sourceOfLane (i : Nat) : Nat := if i < 162 then 1 else 2

/-! ## Blind lanes (R104-R107) -/

/-- Tightrope starts as an ingress lane enters HUNT: the first judgement is due in two slots. (DEDUCED, log entry 16) -/
def Lane.tightrope (l : Lane) (now : Nat) : Lane :=
  { l with tight := some { phase := 0, count := 0, due := now + 36 }, failHold := none }

/-- Enter HUNT (R104). -/
def Lane.hunt (l : Lane) (k : LaneKind) (now : Nat) : Lane :=
  let l := { l.unframe with st := .hunt, since := now }
  if k = .ingress then l.tightrope now else l

/-- A lane leaves service or restarts: the port of a blind one follows. -/
def Conc.laneLost (c : Conc) (i : Nat) (st : LaneSt) : Conc :=
  let c := c.setLane i { (c.lane i).unframe with st := st, since := c.tick, tight := none, failHold := none, unparkDue := none }
  if 48 ≤ i ∧ i < 144 then c.portRefresh (portOfLane i) else c

/-- An ingress lane reaches ALIGNED: the side link starts once after the concentrator's reset (R143), the port is measured
anew (R167).  Tightrope ends where it waits for ALIGNED; before that it judges on, and may slip an ALIGNED lane (R106,
R116). -/
def Conc.ingressAligned (c : Conc) (i : Nat) : Conc :=
  let p := portOfLane i
  let c := c.updLane i fun l =>
    { l with st := .aligned, since := c.tick, bad := 0, fails := 0, unparkDue := none,
             tight := match l.tight with | some t => if t.phase < 2 then some t else none | none => none }
  let d := c.lane (laneDown p)
  let c := if d.train.everActive then c
    else (c.setLane (laneDown p) { d with train := { d.train with everActive := true } }).resetSide p 1 0
  (c.portRealigned p (i - 48)).portRefresh p

/-- One alignment failure of Tightrope (R107): 1 ms later it starts again; every eighth in a row is a fault event. -/
def Conc.tightFail (c : Conc) (i : Nat) : Conc :=
  let l := c.lane i
  let n := l.fails + 1
  let c := c.setLane i { l with tight := none, fails := n, failHold := some (c.tick + msTicks) }
  let c := c.countEntry O.laneErrors 32 (2 * i + 1)
  if n % 8 = 0 then c.faultEvent 0x01 i 0x05 else c

/-- Issue a slip of so many bits: it takes effect at the receiver's next slot boundary (R106). -/
def Lane.slipBy (l : Lane) (bits : Nat) : Lane := { l with slip := l.slip + bits }

/-- TIGHTROPE_JUDGE: two slots have passed and the flags of the last full slot are judged; the verifying wait ends once its
last tick has passed (R106, R145). (DEDUCED, log entry 16) -/
def Conc.tightJudge (c : Conc) (i : Nat) : Conc :=
  let l := c.lane i
  match l.tight with
  | none => c
  | some t =>
    if c.tick < t.due then c
    else match t.phase with
      | 0 =>
        if l.markerInWord then c.setLane i { l with tight := some { phase := 1, count := 0, due := c.tick + 36 } }
        else
          let l := { l.slipBy 128 with wordSlips := l.wordSlips + 1 }
          let c := c.setLane i { l with tight := some { t with count := t.count + 1, due := c.tick + 36 } }
          if 18 ≤ t.count + 1 then c.tightFail i else c
      | 1 =>
        if l.markerSeen then
          c.setLane i { l with tight := if l.st = .aligned then none
                                        else some { phase := 2, count := 0, due := c.tick + 2304 } }
        else
          let l := { l.slipBy 1 with bitSlips := l.bitSlips + 1 }
          let c := c.setLane i { l with tight := some { t with count := t.count + 1, due := c.tick + 36 } }
          if 128 ≤ t.count + 1 then c.tightFail i else c
      | _ => if l.st = .aligned ∨ c.tick = t.due then c else c.tightFail i

/-- TIGHTROPE_RETRY: the 1 ms wait has ended (R107). -/
def Conc.tightRetry (c : Conc) (i : Nat) : Conc :=
  let l := c.lane i
  match l.failHold with
  | some t => if t ≤ c.tick ∧ l.st = .hunt then c.setLane i (l.tightrope c.tick) else c
  | none => c

/-! ## Training (R109-R111) -/

/-- Enter DETECT: the link state of the lane is no longer synchronised.  Its transmitter starts from P0, as its preset in use
says: R110 names no preset before the first request.  Signal already detected is timed from here (R109).
(DESIGN CHOICE, log entry 51) -/
def Lane.detect (l : Lane) (now : Nat) : Lane :=
  { l.unframe with
    st := .detect, since := now, unparkDue := none, parkReq := none, prbs := {}
    train := { retrains := l.train.retrains, everActive := l.train.everActive, gen := l.train.gen,
               dwellStart := if l.signal then some now else none }
    tx := { l.tx with synced := false, pre := 0, post := 0 }
    rx := { l.rx with synced := false } }

/-- A phase timed out, or the far capability word is invalid: the lane stays where it is for a hold-off of 1 ms and then returns to
DETECT (R109). -/
def Conc.trainFail (c : Conc) (i : Nat) : Conc :=
  let c := c.updLane i fun l =>
    { l with train := { l.train with holdoff := some (c.tick + msTicks), retrains := min (l.train.retrains + 1) 65535 } }
  c.faultEvent 0x01 i 0x06

/-- A training phase is in progress and no hold-off runs. -/
def Lane.training (l : Lane) : Bool :=
  (l.st == .train || l.st == .lock || l.st == .caps) && l.train.holdoff.isNone

/-- Enter TRAIN: the clock and the markers are sought first (R109). -/
def Lane.enterTrain (l : Lane) (now : Nat) : Lane :=
  { l.unframe with
    st := .train, since := now
    train := { l.train with clocked := false, found := false, sweep := 0, request := 0, errs := [], chosen := none, done := false,
                            farDoneSeen := false, skip := 0, dwellStart := none, okCells := 0, senses := 0 } }

/-- Enter LOCK with the presets chosen (R109). -/
def Lane.enterLock (l : Lane) (now : Nat) : Lane :=
  { l with st := .lock, since := now, good := 0, bad := 0, prbs := {},
           train := { l.train with okCells := 0, done := false, farDoneSeen := false } }

def Lane.enterCaps (l : Lane) (now : Nat) : Lane :=
  { l with st := .caps, since := now, train := { l.train with done := false, farDoneSeen := false,
                                                              farCaps := none } }

/-- A termination sense, or the signal held for 1 ms in mode 1, in DETECT (R109). -/
def Conc.detectSense (c : Conc) (i : Nat) (positive : Bool) : Conc :=
  let l := c.lane i
  if l.st ≠ .detect ∨ l.train.holdoff.isSome then c
  else if bitAt (c.laneCtl i) 4 then
    match l.train.dwellStart with
    | some t => if l.signal ∧ t + msTicks ≤ c.tick then c.setLane i (l.enterTrain c.tick) else c
    | none => c
  else if positive then
    if 1 ≤ l.train.senses then c.setLane i (l.enterTrain c.tick)
    else c.setLane i { l with train := { l.train with senses := l.train.senses + 1 } }
  else c.setLane i { l with train := { l.train with senses := 0 } }

/-- The preset with the fewest errors, ties to the lower number (R110). -/
def bestPreset (errs : Bank Nat) : Nat :=
  (List.range 10).foldl (fun b i => if Bank.get 0 errs i < Bank.get 0 errs b then i else b) 0

/-- TRAIN_DWELL_END: the error counting of one preset ends (R110). (DEDUCED, log entry 16) -/
def Conc.dwellEnd (c : Conc) (i : Nat) : Conc :=
  let l := c.lane i
  match l.st, l.train.dwellStart with
  | .train, some t =>
    if t + c.get O.trainDwell * msTicks ≤ c.tick then
      let n := l.train.sweep + 1
      let tr := { l.train with dwellStart := none, skip := 0 }
      if n < 10 then c.setLane i { l with train := { tr with sweep := n, request := n } }
      else
        let b := bestPreset l.train.errs
        c.setLane i { l with train := { tr with sweep := n, request := b, chosen := some b } }
    else c
  | _, _ => c

/-- The timeout of a training state in base ticks (R109). -/
def trainLimit : LaneSt → Option Nat
  | .train => some 3000000 | .lock => some 187500 | .caps => some 93750 | _ => none

/-- A training phase has not ended when the tick of its limit has passed (R109, R145). -/
def Conc.trainTimeout (c : Conc) (i : Nat) : Conc :=
  let l := c.lane i
  match trainLimit l.st with
  | some n => if l.training ∧ l.since + n < c.tick then c.trainFail i else c
  | none => c

/-- TRAIN_HOLDOFF_END: the lane returns to DETECT (R109), unless it has left its phase otherwise. -/
def Conc.holdoffEnd (c : Conc) (i : Nat) : Conc :=
  let l := c.lane i
  match l.train.holdoff with
  | some t =>
    if t ≤ c.tick then
      c.setLane i (match l.st with
        | .train | .lock | .caps => l.detect c.tick
        | _ => { l with train := { l.train with holdoff := none } })
    else c
  | none => c

/-- A trained lane becomes ACTIVE: a lane that comes from DETECT, or takes over a logical number, resets its link (R143);
any other replays from U, which is counted (R146). -/
def Conc.becomeActive (c : Conc) (i : Nat) : Conc :=
  let l := c.lane i
  let l := { l with st := .active, since := c.tick, bad := 0, unparkDue := none, train := { l.train with everActive := true } }
  let take := l.announced
  let c := c.setLane i { l with announced := none }
  let c := c.setELane i { c.eLane i with pos := 0 }
  match take with
  | some n => (c.setLogical (i - 144) n).resetTrained i 1
  | none =>
    if l.tx.synced then c.updLane i fun l => l.replayed c.tick else c.resetTrained i 1

/-- A capability word as R108 and R109 want it. -/
def capsValid (k : LaneKind) (w : Nat) : Bool :=
  decide (w % 2 ^ 16 ≠ 0) && decide (bits w 19 16 = 1) && decide (bits w 23 20 = if k = .peer then 1 else 0)

/-- The presets of R101: pre and post. -/
def presetOf (n : Nat) : Nat × Nat :=
  ([(0, 0), (0, 4), (0, 8), (0, 12), (2, 8), (4, 8), (2, 16), (4, 16), (4, 24), (8, 24)].getD n (0, 0))

/-- A trained lane parks: its clock recovery goes off, its driver after 16 cells of phase PARK; signal detect stays powered
(R112). -/
def Lane.parkTrained (l : Lane) (now : Nat) : Lane :=
  { l.unframe with st := .parked, since := now, parkReq := none, unparkDue := none, prbs := {},
                   train := { l.train with parkCells := 0, parkLeft := 16 } }

/-- The latest valid preset request is applied at a slot boundary (R101, R110). -/
def Lane.applyPreset (l : Lane) : Lane :=
  match l.train.asked with
  | some n => { l with tx := { l.tx with pre := (presetOf n).1, post := (presetOf n).2 }, train := { l.train with own := n, asked := none } }
  | none => l

/-- Training payload in TRAIN: of a preset the cell that first shows it and 4 more are not counted, then the errors against the
checker are (R110).  `shown` is the far preset in use; a cell that fails its CRC shows none and counts like any other.
(DEDUCED, log entry 16) -/
def Train.count (tr : Train) (shown : Option Nat) (ws : List Word) (now : Nat) : Train :=
  let e := prbsErrors tr.chk (ws.flatMap fun x => bitsOf 64 x.toNat)
  let tr : Train := { tr with chk := e.2 }
  if (match shown with | some n => decide (n ≠ tr.request) | none => decide (tr.skip = 0 ∧ tr.dwellStart = none)) then tr
  else if tr.chosen.isSome then (if shown.isSome then { tr with done := true } else tr)
  else if tr.dwellStart.isSome then { tr with errs := Bank.upd 0 tr.errs tr.sweep (· + e.1) }
  else if tr.skip < 5 then { tr with skip := tr.skip + 1 }
  else { tr with dwellStart := some now, errs := Bank.upd 0 tr.errs tr.sweep (· + e.1) }

/-- A cell in TRAIN that fails its CRC, or whose marker is bad: the bits of its training payload are counted (R110). -/
def Conc.trainingBad (c : Conc) (i : Nat) (ws : List Word) : Conc :=
  let l := c.lane i
  if l.train.holdoff.isSome then c
  else c.setLane i { l with train := { l.train.count none (ws.drop 1) c.tick with okCells := 0 } }

/-- The number of a training phase in the order in which a lane passes them (R108, R109). -/
def LaneSt.phase : LaneSt → Nat
  | .train => 0 | .lock => 1 | .caps => 2 | _ => 3

/-- A training cell with a good CRC (R108-R112).  The far end is done when it says so in the phase; a cell of a later phase says
that it has finished this one. (DEDUCED, log entry 16) -/
def Conc.trainingCell (c : Conc) (i : Nat) (payload : List Word) : Conc :=
  let l := c.lane i
  let k := laneKind i
  let w := (payload.headD 0#64).toNat
  let phase := bits w 15 14
  let tr := l.train
  -- the latest valid request waits for the transmitter's next slot boundary
  let l := if bitAt w 4 ∧ w % 16 < 10 then { l with train := { tr with asked := some (w % 16) } } else l
  let later := decide (phase ≠ 3 ∧ l.st.phase < phase)
  let l := { l with train := { l.train with farDoneSeen := tr.farDoneSeen || bitAt w 12 || later,
                                            parkCells := if phase = 3 then tr.parkCells + 1 else 0 } }
  if tr.holdoff.isSome then c
  else if 4 ≤ l.train.parkCells then (c.setLane i (l.parkTrained c.tick)).parkQuad (quadOf i)
  else match l.st with
    | .train =>
      let tr := l.train.count (some (bits w 11 8)) (payload.drop 1) c.tick
      let l := { l with train := tr }
      c.setLane i (if tr.done ∧ tr.farDoneSeen then l.enterLock c.tick else l)
    | .lock =>
      let n := l.train.okCells + 1
      let l := { l with train := { l.train with okCells := n } }
      c.setLane i (if 64 ≤ n ∧ 64 ≤ l.good then l.enterCaps c.tick else l)
    | .caps =>
      if phase = 2 then
        let cap := (payload.getD 1 0#64).toNat
        if capsValid k cap then
          let l := { l with train := { l.train with farCaps := some cap, done := true } }
          let c := c.setLane i l
          if l.train.farDoneSeen then c.becomeActive i else c
        else (c.setLane i l).trainFail i
      else c.setLane i l
    | .active =>
      if phase = 2 ∧ capsValid k (payload.getD 1 0#64).toNat then
        c.setLane i { l with train := { l.train with farCaps := some (payload.getD 1 0#64).toNat } }
      else c.setLane i l
    | _ => c.setLane i l

/-! ## Signal and clock (R104, R113) -/

/-- A downlink transmits again: it replays from U (R143), and the port is measured anew (R165, R167). -/
def Conc.downUp (c : Conc) (i : Nat) : Conc :=
  (c.updLane i fun l => { l with st := .aligned, since := c.tick, prbs := {} }.replayed c.tick).remeasure i

/-- Bring a lane up afresh: what it does when enabled, at boot and after test mode. -/
def Conc.bringUp (c : Conc) (i : Nat) : Conc :=
  let l := c.lane i
  match laneKind i with
  | .downlink => c.downUp i
  | .ingress =>
    c.setLane i { l with st := if l.signal then .cdrLock else .noSignal, since := c.tick, good := 0, bad := 0 }
  | _ => c.setLane i (l.detect c.tick)

/-- Signal detect on a lane (R104, R109, R112): a parked trained end unparks. -/
def Conc.signalDetect (c : Conc) (i : Nat) : Conc :=
  let l := { c.lane i with signal := true }
  match laneKind i, l.st with
  | .downlink, _ => c
  | .ingress, .noSignal => c.setLane i { l with st := .cdrLock, since := c.tick }
  | .backEnd, .parked =>
    (c.setLane i { l with st := .unparking, since := c.tick, unparkDue := some (c.tick + 75000) }).powerQuad (quadOf i)
  | .peer, .parked =>
    (c.setLane i { l with st := .unparking, since := c.tick, unparkDue := some (c.tick + 75000) }).powerQuad (quadOf i)
  | .ingress, _ => c.setLane i l
  | _, .detect => c.setLane i { l with train := { l.train with dwellStart := some (l.train.dwellStart.getD c.tick) } }
  | _, _ => c.setLane i l

/-- Loss of signal detect (R104): a blind lane returns to NO_SIGNAL from any state of its bring-up. -/
def Conc.signalLoss (c : Conc) (i : Nat) : Conc :=
  let c := c.updLane i fun l => { l with signal := false }
  match laneKind i, (c.lane i).st with
  | .ingress, .cdrLock => c.laneLost i .noSignal
  | .ingress, .hunt => c.laneLost i .noSignal
  | .ingress, .aligned => c.laneLost i .noSignal
  | .ingress, .unparking => c.laneLost i .noSignal
  | .backEnd, .detect => c.updLane i fun l => { l with train := { l.train with dwellStart := none } }
  | .peer, .detect => c.updLane i fun l => { l with train := { l.train with dwellStart := none } }
  | _, _ => c

/-- Clock recovery locks: a blind lane hunts; a trained lane in TRAIN looks for markers, one that unparks goes to LOCK, or to
DETECT when no presets were chosen (R104, R109, R112, R116). -/
def Conc.cdrLocked (c : Conc) (i : Nat) : Conc :=
  let l := c.lane i
  match laneKind i, l.st with
  | .ingress, .cdrLock => c.setLane i (l.hunt .ingress c.tick)
  | .ingress, .unparking => c.setLane i (l.hunt .ingress c.tick)
  | .backEnd, .unparking => c.setLane i (if l.train.chosen.isSome then l.unframe.enterLock c.tick else l.detect c.tick)
  | .peer, .unparking => c.setLane i (if l.train.chosen.isSome then l.unframe.enterLock c.tick else l.detect c.tick)
  | .backEnd, .train => c.setLane i { l with train := { l.train with clocked := true } }
  | .peer, .train => c.setLane i { l with train := { l.train with clocked := true } }
  | _, _ => c

/-- No clock lock within 200 us (R104). -/
def Conc.cdrTimeout (c : Conc) (i : Nat) : Conc :=
  let l := c.lane i
  if laneKind i = .ingress ∧ l.st = .cdrLock ∧ l.since + 18750 < c.tick then
    c.setLane i { l with st := .noSignal, since := c.tick, retries := l.retries + 1 }
  else c

/-! ## Parking (R112, R113, R116) -/

/-- A park request.  A blind lane, or a trained one that is not ACTIVE, parks at once; an ACTIVE one first sends what is
unacknowledged, for at most 1 ms. -/
def Conc.parkRequest (c : Conc) (i : Nat) : Conc :=
  let l := c.lane i
  match l.st with
  | .disabled | .retired | .prbs | .parked => c
  | .active => c.setLane i { l with parkReq := some (c.tick + msTicks) }
  | _ =>
    (if (laneKind i).trained then c.setLane i (l.parkTrained c.tick) else c.laneLost i .parked).parkQuad (quadOf i)

/-- PARK_ENTRY: the replay buffer is empty, or 1 ms has passed; the end sends 16 PARK cells and switches off. -/
def Conc.parkEntry (c : Conc) (i : Nat) : Conc :=
  let l := c.lane i
  match l.parkReq with
  | some t =>
    if l.tx.buf = [] ∨ t ≤ c.tick then
      c.setLane i (l.parkTrained c.tick)
    else c
  | none => c

/-- Unpark by object (R113), also of an end that parked because the far end did: a downlink transmits from the lock of its quad's PLL on. (DEDUCED, log entry 16) -/
def Conc.unpark (c : Conc) (i : Nat) : Conc :=
  let l := c.lane i
  if l.st = .parked then
    let c := c.powerQuad (quadOf i)
    match laneKind i with
    | .downlink =>
      if (c.quad (quadOf i)).locked then c.downUp i else c.setLane i { l with st := .unparking, since := c.tick }
    | .ingress =>
      c.setLane i { l with st := if l.signal then .unparking else .noSignal, since := c.tick, unparkDue := some (c.tick + 75000) }
    | _ => c.setLane i { l with st := .unparking, since := c.tick, unparkDue := some (c.tick + 75000),
                                train := { l.train with parkLeft := 0 } }
  else c.setLane i { l with parkReq := none }

/-- 800 us after an unpark: a blind lane that is not ALIGNED stays in HUNT, a trained one that is not ACTIVE goes to DETECT; a lane
that has left the ladder otherwise, as by retirement, stays as it is. (DEDUCED, log entry 16) -/
def Conc.unparkDeadline (c : Conc) (i : Nat) : Conc :=
  let l := c.lane i
  match l.unparkDue with
  | some t =>
    if t < c.tick then
      let l := { l with unparkDue := none }
      if l.delivering then c.setLane i l
      else if (laneKind i).trained then
        c.setLane i (match l.st with | .unparking | .train | .lock | .caps => l.detect c.tick | _ => l)
      else c.setLane i (if l.st = .unparking then l.hunt .ingress c.tick else l)
    else c
  | none => c

/-! ## Test mode (R102, R116) -/

/-- A lane enters test mode: its alignment or training is lost. -/
def Conc.prbsEnter (c : Conc) (i code : Nat) : Conc :=
  let c := if (c.lane i).st = .prbs then c else c.laneLost i .prbs
  c.updLane i fun l => { l with prbs := { mode := code } }

/-- Test mode ends: bring-up restarts, blind lanes from HUNT and trained lanes from DETECT (R102). -/
def Conc.prbsLeave (c : Conc) (i : Nat) : Conc :=
  let l := { c.lane i with prbs := {} }
  match laneKind i with
  | .downlink => c.downUp i
  | .ingress => c.setLane i (l.hunt .ingress c.tick)
  | _ => c.setLane i (l.detect c.tick)

/-- A PRBS code in `LaneControl`.  An ACTIVE lane enters test mode at its next slot boundary (R116); a lane that leaves test
mode with its park bit set parks. (DEDUCED, log entry 17) -/
def Conc.prbs (c : Conc) (i code : Nat) : Conc :=
  let l := c.lane i
  match l.st with
  | .disabled | .retired => c
  | .active => c.setLane i { l with prbs := { l.prbs with pend := if code = 0 then none else some code } }
  | .prbs =>
    if code ≠ 0 then c.prbsEnter i code
    else if bitAt (c.laneCtl i) 1 then (c.prbsLeave i).parkRequest i else c.prbsLeave i
  | _ => if code ≠ 0 then c.prbsEnter i code else c

/-- A lane comes up with what its entry of `LaneControl` says: its test mode and its park bit (R117). -/
def Conc.laneUp (c : Conc) (i : Nat) : Conc :=
  let e := c.laneCtl i
  let c := c.bringUp i
  if bits e 3 2 ≠ 0 then c.prbsEnter i (bits e 3 2) else if bitAt e 1 then c.parkRequest i else c

/-- Received bits of a lane in test mode (R102). -/
def Conc.prbsLine (c : Conc) (i line : Nat) : Conc :=
  let l := c.lane i
  let r := l.prbs.check (bitsOf (laneKind i).slotBits line)
  (c.setLane i { l with prbs := r.2 }).countEntry O.prbsErrors 32 i r.1

/-- A checker locks, or counts an error, on the word of the command; a downlink has no receiver at the concentrator.
(DEDUCED, log entry 17) -/
def Conc.prbsLock (c : Conc) (i : Nat) : Conc :=
  if (c.lane i).st = .prbs ∧ 48 ≤ i then c.updLane i fun l => { l with prbs := l.prbs.lock } else c

def Conc.prbsError (c : Conc) (i bits : Nat) : Conc :=
  let l := c.lane i
  let r := l.prbs.bitError bits
  let c := c.setLane i { l with prbs := r.2 }
  if r.1 then c.countEntry O.prbsErrors 32 i else c

/-! ## Enable and `LaneControl` (R117) -/

/-- The enable bit takes a lane into or out of DISABLED. -/
def Conc.laneEnable (c : Conc) (i : Nat) (on : Bool) : Conc :=
  match (c.lane i).st with
  | .retired => c
  | .disabled => if on ∧ 10 ≤ c.boot.step then c.laneUp i else c
  | _ => if on then c else c.laneLost i .disabled

/-- What the write of one lane's entry does: a changed bit acts, and a park bit written 0 unparks a lane that is PARKED, also
one that the far end parked (R112). (DEDUCED, log entry 16) -/
def Conc.laneCtlChange (c : Conc) (old new i : Nat) : Conc :=
  let a := entryGet 8 old i
  let b := entryGet 8 new i
  let c := if bitAt a 0 = bitAt b 0 then c else c.laneEnable i (bitAt b 0)
  let c := if bits a 3 2 = bits b 3 2 then c else c.prbs i (bits b 3 2)
  if bitAt b 1 = false ∧ (bitAt a 1 ∨ (c.lane i).st = .parked) then c.unpark i
  else if bitAt b 1 ∧ bitAt a 1 = false then c.parkRequest i
  else c

/-- A write of `LaneControl`: detect mode on a blind lane is refused. -/
def Conc.writeLaneControl (c : Conc) (v : Nat) : Res Conc :=
  if (List.range 144).any fun i => bitAt (entryGet 8 v i) 4 then .error Abort.range
  else
    let old := c.get O.laneControl
    .ok ((List.range 164).foldl (fun c i => c.laneCtlChange old v i) (c.put O.laneControl v))

/-! ## PLL quads (R114, R115) -/

/-- A quad PLL loses lock: every lane of the quad leaves service, one in test mode too; one fault event.  A Tightrope run that
it stops counts as one alignment failure (R115, R116). -/
def Conc.quadLoss (c : Conc) (q : Nat) : Conc :=
  let x := c.quad q
  if x.retired then c
  else
    let c := c.setQuad q { x with locked := false, losses := min (x.losses + 1) 8191 }
    let c := (List.range 164).foldl (fun c i =>
      if quadOf i ≠ q then c
      else match (c.lane i).st with
        | .disabled | .retired | .parked => c
        | _ =>
          if (laneKind i).trained then c.updLane i fun l => l.detect c.tick
          else
            let c := if (c.lane i).tight.isSome then c.countEntry O.laneErrors 32 (2 * i + 1) else c
            (c.laneLost i .noSignal).updLane i fun l => { l with prbs := {} }) c
    c.faultEvent 0x02 q 0x08

/-- It relocks, and its lanes restart their bring-up with what `LaneControl` says: a downlink transmits again, an ingress lane
with signal recovers its clock, a lane whose entry holds a PRBS code is in test mode again. -/
def Conc.quadRelock (c : Conc) (q : Nat) : Conc :=
  let x := c.quad q
  if x.retired then c
  else
    let c := c.setQuad q { x with locked := true, powered := true }
    (List.range 164).foldl (fun c i =>
      if quadOf i ≠ q then c
      else match (c.lane i).st with
        | .noSignal => if i < 144 then c.laneUp i else c
        | .unparking => if i < 48 then c.laneUp i else c
        | .detect => if bits (c.laneCtl i) 3 2 ≠ 0 then c.laneUp i else c
        | _ => c) c

/-! ## Status objects (R117) -/

/-- The code of a lane state in `LaneState`. -/
def LaneSt.code : LaneSt → Nat := Fe.readVal.laneStCode

def Conc.laneStates (c : Conc) : Nat := packEntries 8 ((List.range 164).map fun i => (c.lane i).st.code)

def Conc.prbsLockedBits (c : Conc) : Nat :=
  packEntries 1 ((List.range 164).map fun i => b1 (c.lane i).prbs.locked)

def Conc.trainResults (c : Conc) : Nat :=
  packEntries 32 ((List.range 20).map fun j =>
    let t := (c.lane (144 + j)).train
    t.request % 16 + t.own % 16 * 16 + (match t.farCaps with | some w => bits w 31 24 | none => 0) * 2 ^ 8
      + t.retrains * 2 ^ 16)

def Conc.quadStates (c : Conc) : Nat :=
  packEntries 16 ((List.range 41).map fun q =>
    let x := c.quad q
    b1 x.locked + b1 x.retired * 2 + b1 x.powered * 4 + x.losses * 8)

def Conc.backEndMapVal (c : Conc) : Nat :=
  packEntries 8 ((List.range 16).map fun l =>
    match c.physical l with
    | some n => if (c.lane (laneBe n)).st = .retired then 0xFF else n
    | none => 0xFF)

end Sys2Proof.Machine
end

