-- ==== Sys2Proof/Machine/ConcMem.lean ====
section
/-! DEFINITION. Memory: the physical address map (R237-R239), reads and writes through SEC-DED, poison (R247, R248), the
flip mask (R250), the written map (R246). -/

namespace Sys2Proof.Machine

/-! ## The address map (R237, R239) -/

/-- What a physical address belongs to. -/
inductive MemKind where
  | hbm
  | cluster (k : Nat)
  | scratch (e : Nat)
  | page (ch : Nat)
  | flash
  | reserved
  deriving DecidableEq, Repr

def clusterBase : Nat := 0x2000000000
def scratchBase : Nat := 0x2100000000
def pageBase : Nat := 0x3000000000
def flashBase : Nat := 0x3800000000

def memKind (pa : Nat) : MemKind :=
  if pa < 2 ^ 37 then .hbm
  else if clusterBase ≤ pa ∧ pa < clusterBase + 13 * 0x400000 then .cluster ((pa - clusterBase) / 0x400000)
  else if scratchBase ≤ pa ∧ pa < scratchBase + 104 * 0x40000 then .scratch ((pa - scratchBase) / 0x40000)
  else if pageBase ≤ pa ∧ pa < pageBase + 32 * 0x1000 then .page ((pa - pageBase) / 0x1000)
  else if flashBase ≤ pa ∧ pa < flashBase + 0x4000000 then .flash
  else .reserved

/-- HBM, cluster memory and scratchpads: the memories with SEC-DED (R247). -/
def isRam (pa : Nat) : Bool :=
  match memKind pa with
  | .hbm | .cluster _ | .scratch _ => true
  | _ => false

/-- The pseudo-channel of an HBM address over both stacks (R238): bit 5 is the stack. -/
def pseudoChannel (pa : Nat) : Nat := bits pa 13 8 ^^^ bits pa 19 14

/-- The resource that holds an address (R355): an HBM row or an SRAM macro, kind and number. -/
def memResource (pa : Nat) : Nat × Nat :=
  match memKind pa with
  | .hbm => (0x06, pseudoChannel pa * 2 ^ 18 + (Config.hbmRow (pa / 65536)).val)
  | _ => (0x07, (Config.sramMacro (pa / 8)).val)

/-- The four 4 KiB frames of an HBM row (R359), from an address in it. -/
def rowFrames (pa : Nat) : List Nat :=
  (List.range 4).map fun i =>
    let b := pa / 65536
    let x := pseudoChannel pa ^^^ (b % 16 * 4 + i)
    b * 16 + i * 4 + x / 16

/-- Words of the ring. -/
def Carousel.ringWords (x : Carousel) : Nat := x.ringSize * 125000000

/-- The address that stands `a` when the frames `fs`, rising, are left out (R359). -/
def leaveOut (fs : List Nat) (a : Nat) : Nat := fs.foldl (fun a f => if f * 4096 ≤ a then a + 4096 else a) a

/-- The physical address of a ring word, from its offset since the start. -/
def Carousel.ringAddr (x : Carousel) (off : Nat) : Nat := leaveOut x.leftOut (2 ^ 32 + 8 * (off % x.ringWords))

/-- The record store (R239): its first address, on the 2 MiB boundary behind the ring, its bytes, the address of byte `off`
written to it, and its end. -/
def Carousel.storeBase (x : Carousel) : Nat :=
  (leaveOut x.leftOut (2 ^ 32 + 8 * x.ringWords - 8) + 8 + 2097151) / 2097152 * 2097152
def Carousel.storeBytes (x : Carousel) : Nat := x.storeSize * 2 ^ 20
def Carousel.storeLeftOut (x : Carousel) : List Nat := x.leftOut.filter fun f => decide (x.storeBase ≤ f * 4096)
def Carousel.storeAddr (x : Carousel) (off : Nat) : Nat := leaveOut x.storeLeftOut (x.storeBase + off % x.storeBytes)
def Carousel.storeEnd (x : Carousel) : Nat := leaveOut x.storeLeftOut (x.storeBase + x.storeBytes - 8) + 8

/-- The Carousel region in GiB, longer by the frames left out of it (R239, R359). -/
def Carousel.regionGiB (x : Carousel) : Nat := (x.storeEnd - 2 ^ 32 + 2 ^ 30 - 1) / 2 ^ 30

/-- The first address of the task pool. -/
def Conc.poolStart (c : Conc) : Nat := (4 + c.caro.regionGiB) * 2 ^ 30

/-- The Carousel with the sizes that a start would take, and the frames retired by now left out (R239, R359). -/
def Conc.nextSizes (c : Conc) : Carousel :=
  { c.caro with ringSize := c.get O.ringSize, storeSize := c.get O.recordStoreSize,
                leftOut := (c.faults.retiredFrames.filter fun f => decide (2 ^ 32 ≤ f * 4096)).foldl
                  (fun l f => l.filter (fun y => decide (y < f)) ++ [f] ++ l.filter fun y => decide (f < y)) [] }

/-- The region of tasks that holds an address. -/
def Conc.regionAt (c : Conc) (pa : Nat) : Option Region :=
  (c.mem.pool ++ c.mem.scratch ++ c.mem.cluster).find? fun r => r.start ≤ pa && pa < r.start + r.size

/-- The lowest instance, not IDLE, of a task slot. -/
def Conc.lowestInstance (c : Conc) (slot : Nat) : Option Nat :=
  (List.find? (fun x => x.2.st ≠ 0 && x.2.slot = slot) c.eng.ctxs).map Prod.fst

/-- The owner of the data at an address (R324, R367). -/
def Conc.ownerAt (c : Conc) (pa : Nat) : Nat :=
  match c.regionAt pa with
  | some r =>
    if r.holder < 1000 then ownerCode 0x03 r.holder
    else match c.lowestInstance ((r.holder - 1000) % 1000 % 64) with
      | some i => ownerCode 0x03 i
      | none => 0
  | none => if pa < 2 ^ 32 then 0 else if pa < c.poolStart then ownerCode 0x02 2 else 0

/-! ## ECC (R247, R248) -/

def Conc.withMem (c : Conc) (f : MemSt → MemSt) : Conc := { c with mem := f c.mem }

/-- The stored error of word `n`: data and check bits that differ from a code word. -/
def MemSt.err (m : MemSt) (n : Nat) : Nat × Nat := Bank.get (0, 0) m.errs n
def MemSt.setErr (m : MemSt) (n : Nat) (e : Nat × Nat) : MemSt := { m with errs := Bank.set (0, 0) m.errs n e }
def MemSt.byte (m : MemSt) (a : Nat) : Nat := (Bank.get 0#8 m.bytes a).toNat
def MemSt.setByte (m : MemSt) (a v : Nat) : MemSt := { m with bytes := Bank.set 0#8 m.bytes a (BitVec.ofNat 8 v) }

/-- The `n` bytes from an address, as a little-endian number. -/
def MemSt.get (m : MemSt) (a n : Nat) : Nat := ofBytes ((List.range n).map fun i => m.byte (a + i))

/-- Store the bytes of a list from an address on. -/
def MemSt.putBytes (m : MemSt) (a : Nat) : List Nat → MemSt
  | [] => m
  | b :: bs => MemSt.putBytes (m.setByte a b) (a + 1) bs

/-- A sector (32 bytes, R248) is poisoned when all four words carry syndrome 0xFF. -/
def MemSt.poisoned (m : MemSt) (s : Nat) : Bool := (List.range 4).all fun i => m.err (4 * s + i) == (0, 0xFF)

/-- Poison a sector: every word is written as it is stored, with its check bits inverted. -/
def MemSt.poison (m : MemSt) (s : Nat) : MemSt :=
  (List.range 4).foldl (fun m i =>
    let n := 4 * s + i
    let d := (m.err n).1
    let m := if d = 0 then m else m.putBytes (8 * n) (toBytes 8 (m.get (8 * n) 8 ^^^ d))
    m.setErr n (0, 0xFF)) m

/-- Flip bits of the ring word, or of the word of a waiting record, that stands at an address. -/
def Carousel.xorAt (x : Carousel) (pa mask : Nat) : Carousel :=
  let flip (hit : Bool) (w : Word) : Word := if hit then w ^^^ BitVec.ofNat 64 mask else w
  let ring (off : Nat) : Bool := decide (x.ringAddr off = pa)
  let late (r : RRun) : List (Nat × Word) := r.run.words.zipIdx.map fun w => (w.1.1, flip (ring (r.off + 1 + w.2)) w.1.2)
  let stored (r : Record) : List EWord :=
    r.words.zipIdx.map fun w => (flip (decide (x.storeAddr (r.off + 8 * w.2) = pa)) w.1.1, w.1.2)
  { x with main := x.main.map fun w => { w with word := flip (ring w.off) w.word },
           runs := x.runs.map fun r => { r with run := { r.run with words := late r } },
           records := x.records.map fun r => { r with words := stored r } }

/-- Flip bits of word `n` as it is stored: what stands in the Carousel's region is held with the Carousel. -/
def Conc.xorWord (c : Conc) (n mask : Nat) : Conc :=
  if mask = 0 then c
  else if 2 ^ 32 ≤ 8 * n ∧ 8 * n < c.caro.storeEnd then { c with caro := c.caro.xorAt (8 * n) mask }
  else c.withMem fun m => m.putBytes (8 * n) (toBytes 8 (m.get (8 * n) 8 ^^^ mask))

/-- Poison sector `s` (R248): every word is written as it is stored, with its check bits inverted. -/
def Conc.poisonSector (c : Conc) (s : Nat) : Conc :=
  (List.range 4).foldl (fun c i =>
    let n := 4 * s + i
    (c.xorWord n (c.mem.err n).1).withMem fun m => m.setErr n (0, 0xFF)) c

def Conc.isHbm (pa : Nat) : Bool := decide (pa < 2 ^ 37)

/-- A fault event against the memory resource of an address; a row of the HBM row table learns its frames (R359). -/
def Conc.memFault (c : Conc) (pa cause : Nat) (immediate : Bool) : Conc :=
  let r := memResource pa
  if r.1 = 0x07 then c.macroEvent r.2 cause immediate (c.ownerAt pa) pa
  else
    let c := c.faultEvent r.1 r.2 cause immediate (c.ownerAt pa) pa
    { c with faults := { c.faults with rows := Bank.upd {} c.faults.rows r.2 fun x =>
        { x with frames := rowFrames pa, uncorrectable := x.uncorrectable || immediate } } }

/-- Note the last error (R265): 1 corrected, 2 uncorrectable, 3 poisoned read. (DESIGN CHOICE, log entry 27) -/
def Conc.noteError (c : Conc) (pa syndrome kind : Nat) : Conc :=
  c.withMem fun m => { m with lastError := (pa, syndrome, kind) }

/-- The verdict of reading word `n`: 0 no error, 1 corrected, 2 uncorrectable, with the syndrome.  Of three flipped bits or
more the spec states no verdict. (DESIGN CHOICE, log entry 27) -/
def Conc.verdict (c : Conc) (n : Nat) : Nat × Nat × Conc :=
  let e := c.mem.err n
  let w := popcount 64 e.1 + popcount 8 e.2
  if w = 0 then (0, 0, c)
  else if w = 1 then
    if e.1 = 0 then (1, e.2, c) else let d := c.drawNat; (1, d.1 % 256, d.2)
  else if e = (0, 0xFF) then (2, 0xFF, c)
  else
    let d := c.drawNat
    if w = 2 then (2, d.1 % 256, d.2)
    else let k := d.2.drawNat; (k.1 % 3, d.1 % 256, k.2)

/-- Read word `n` through its code: the bad verdict is for the caller.  A corrected word is written back at once, counted and
reported as one fault event (R247).  A wrong correction of three bits or more stores what the free value says. -/
def Conc.readWord (c : Conc) (n : Nat) : Bool × Conc :=
  let v := c.verdict n
  let c := v.2.2
  let pa := 8 * n
  match v.1 with
  | 0 =>
    let d := (c.mem.err n).1
    (false, if c.mem.err n = (0, 0) then c else (c.xorWord n d).withMem fun m => m.setErr n (0, 0))
  | 1 =>
    let e := c.mem.err n
    let wrong := decide (popcount 64 e.1 + popcount 8 e.2 ≠ 1)
    let c :=
      if wrong then
        let x := c.drawNat
        x.2.xorWord n (e.1 ^^^ 2 ^ (x.1 % 72) % 2 ^ 64)
      else c
    let c := c.withMem fun m => m.setErr n (0, 0)
    let c := (c.count (if Conc.isHbm pa then O.hbmCorrected else O.sramCorrected)).noteError pa v.2.1 1
    (false, c.memFault pa 0x01 false)
  | _ => (true, c.noteError pa v.2.1 2)

/-- An uncorrectable word poisons its sector and is reported (R248, R353). -/
def Conc.poisonWord (c : Conc) (n : Nat) : Conc :=
  let pa := 8 * n
  let c := (c.poisonSector (n / 4)).count (if Conc.isHbm pa then O.hbmUncorrected else O.sramUncorrected)
  c.memFault pa 0x02 true

/-- Read the words `n`, `n + 1`, … `k` of them, of one sector: whether the data are poisoned. -/
def Conc.readSector (c : Conc) (n : Nat) : Nat → Bool × Conc
  | 0 => (false, c)
  | k + 1 =>
    let r := c.readWord n
    if r.1 then (true, r.2.poisonWord n) else Conc.readSector r.2 (n + 1) k

/-- A requester reads `len` bytes of one sector at an address. -/
def Conc.touchSector (c : Conc) (pa len : Nat) : Bool × Conc :=
  if c.mem.poisoned (pa / 32) then (true, (c.count O.poisonedReads).noteError (pa / 8 * 8) 0xFF 3)
  else c.readSector (pa / 8) ((pa + len - 1) / 8 + 1 - pa / 8)

/-- Read `len` bytes: each byte with its poison.  `fuel` bounds the sectors. -/
def Conc.readBytes (c : Conc) : Nat → Nat → Nat → List (Nat × Bool) × Conc
  | 0, _, _ => ([], c)
  | fuel + 1, pa, len =>
    if len = 0 then ([], c)
    else
      let n := min len (32 - pa % 32)
      let t := c.touchSector pa n
      let now := (List.range n).map fun i => (t.2.mem.byte (pa + i), t.1)
      let r := t.2.readBytes fuel (pa + n) (len - n)
      (now ++ r.1, r.2)

/-! ## Writes (R248, R250) -/

/-- The memory that `FlipTarget` names holds an address. (DEDUCED, log entry 28) -/
def flipHits (target pa : Nat) : Bool :=
  match memKind pa with
  | .hbm => target == 0
  | .cluster k => target == 0x100 + k
  | .scratch e => target == 0x200 + e
  | _ => false

/-- A requester's write of a whole word passes the flip mask (R250): the error stored with it. (DEDUCED, log entry 28) -/
def Conc.flipWord (c : Conc) (pa : Nat) : (Nat × Nat) × Conc :=
  let m := c.get O.flipMatch
  if c.get O.flipArm = 1 ∧ flipHits (c.get O.flipTarget) pa ∧ (m = 2 ^ 64 - 1 ∨ m = pa) then
    ((c.get O.flipData, c.get O.flipCheck), (c.put O.flipArm 0).put O.flipAddress pa)
  else ((0, 0), c)

/-- The reservations of contexts on a word end when something else writes it. (DEDUCED, log entry 30) -/
def Eng.dropReservations (e : Eng) (lo hi : Nat) (but : Option Nat) : Eng :=
  if e.ctxs.any fun x => x.2.resv.isSome then
    { e with ctxs := e.ctxs.map fun x =>
        match x.2.resv with
        | some a => if some x.1 ≠ but ∧ a / 8 * 8 < hi ∧ lo < a / 8 * 8 + 8 then (x.1, { x.2 with resv := none }) else x
        | none => x }
  else e

/-- Write `bs` into one word `n` at byte `k`: a word written in part is read first. -/
def Conc.writeWord (c : Conc) (n k : Nat) (bs : List Nat) (whole : Bool) : Conc :=
  let pa := 8 * n
  let keep := c.mem.poisoned (n / 4) && !whole
  let c :=
    if bs.length = 8 ∨ c.mem.poisoned (n / 4) then c
    else let r := c.readWord n; if r.1 then r.2.poisonWord n else r.2
  let keep := keep || (c.mem.poisoned (n / 4) && !whole)
  let f := if bs.length = 8 then c.flipWord pa else ((0, 0), c)
  let base : Nat × Nat := if keep then (0, 0xFF) else (0, 0)
  f.2.withMem fun m => (m.putBytes (pa + k) bs).setErr n (base.1 ^^^ f.1.1, base.2 ^^^ f.1.2)

/-- Write bytes of one sector, word by word. -/
def Conc.writeSector (c : Conc) (whole : Bool) : Nat → Nat → List Nat → Conc
  | 0, _, _ => c
  | fuel + 1, pa, bs =>
    if bs = [] then c
    else
      let n := min bs.length (8 - pa % 8)
      Conc.writeSector (c.writeWord (pa / 8) (pa % 8) (bs.take n) whole) whole fuel (pa + n) (bs.drop n)

/-- A requester writes bytes, each with its poison: a sector that receives a poisoned byte is written poisoned (R249); a write
that covers a whole sector clears its poison, any other leaves it (R248).  `fuel` bounds the sectors; `but` is the
context whose own write it is. (DEDUCED, log entry 28) -/
def Conc.writeBytes (c : Conc) (but : Option Nat) : Nat → Nat → List (Nat × Bool) → Conc
  | 0, _, _ => c
  | fuel + 1, pa, bs =>
    if bs = [] then c
    else
      let n := min bs.length (32 - pa % 32)
      let now := bs.take n
      let c := c.writeSector (decide (n = 32)) 8 pa (now.map Prod.fst)
      let c := if now.any Prod.snd then c.withMem fun m => m.poison (pa / 32) else c
      let c := { c with eng := c.eng.dropReservations pa (pa + n) but }
      Conc.writeBytes c but fuel (pa + n) (bs.drop n)

/-! ## Fills and the written map (R245, R246) -/

/-- Fill a range with zeros and valid check bits. -/
def MemSt.zero (m : MemSt) (lo hi : Nat) : MemSt :=
  { m with bytes := m.bytes.filter fun x => decide (x.1 < lo ∨ hi ≤ x.1),
           errs := m.errs.filter fun x => decide (8 * x.1 < lo ∨ hi ≤ 8 * x.1) }

def writtenBlock : Nat := 2097152

/-- Set the bits of the blocks that lie wholly in a range. -/
def MemSt.markWritten (m : MemSt) (lo hi : Nat) : MemSt :=
  let a := (lo + writtenBlock - 1) / writtenBlock
  let b := max a (hi / writtenBlock)
  { m with written := (m.written.filter fun p => decide (p.1 < a)) ++ (List.range (b - a)).map (fun i => (a + i, true))
                        ++ m.written.filter fun p => decide (b ≤ p.1) }

/-- A requester writes every word of a range, from its first one on: the flip mask may take one of them (R250). -/
def Conc.flipRange (c : Conc) (lo hi : Nat) : Conc :=
  let w := if c.get O.flipMatch = 2 ^ 64 - 1 then lo else c.get O.flipMatch
  if c.get O.flipArm = 1 ∧ lo ≤ w ∧ w + 8 ≤ hi then
    let f := c.flipWord w
    if f.1 = (0, 0) then f.2 else f.2.withMem fun m => m.setErr (w / 8) f.1
  else c

/-- The Ringmaster fills a range with zeros. -/
def Conc.fill (c : Conc) (lo hi : Nat) : Conc :=
  (c.withMem fun m => let m := m.zero lo hi; if Conc.isHbm lo then m.markWritten lo hi else m).flipRange lo hi

/-- The firmware region: 4 GiB, filled with zeros at boot (R239, R245). -/
def firmwareBytes : Nat := 2 ^ 32

/-- The Ringmaster loads the bytes of an image (R224, R246): the words it writes whole lose their errors. -/
def Conc.loadImage (c : Conc) (pa : Nat) (bs : List Nat) : Conc :=
  let lo := (pa + 7) / 8 * 8
  let hi := (pa + bs.length) / 8 * 8
  (c.withMem fun m =>
    { m.putBytes pa bs with errs := m.errs.filter fun x => decide (8 * x.1 < lo ∨ hi ≤ 8 * x.1) }).flipRange lo hi

/-- The frames that are not given to a new owner: retired, or held out for a SUSPECT row (R359). -/
def Conc.heldFrames (c : Conc) : List Nat :=
  c.faults.retiredFrames ++ c.faults.rows.flatMap fun r => if r.2.health.st = .healthy then [] else r.2.frames

/-- `MemoryMap` (R265): region sizes; the free pool in MiB, the frames that no owner may get taken off; written blocks. -/
def Conc.taskPoolGiB (c : Conc) : Nat := 128 - c.poolStart / 2 ^ 30
def Conc.taskPoolFree (c : Conc) : Nat :=
  let held := c.heldFrames.eraseDups.countP fun f =>
    decide (c.poolStart ≤ 4096 * f) && c.mem.pool.all fun r => decide (4096 * f + 4096 ≤ r.start) || decide (r.start + r.size ≤ 4096 * f)
  nearest (c.taskPoolGiB * 2 ^ 30 - c.mem.pool.foldl (fun n r => n + r.size) 0 - 4096 * held) (2 ^ 20)
def Conc.writtenBlocks (c : Conc) : Nat := c.mem.written.length

/-- ECC_LAST_ERROR_READ: a read of `LastErrorAddress` latches the three fields (R265). -/
def Conc.latchEcc (c : Conc) : Conc := c.withMem fun m => { m with latch := m.lastError }

/-! ## The flip mask's objects (R250, R265) -/

/-- A target of `FlipTarget`. -/
def flipTargetOk (t : Nat) : Bool := t == 0 || (decide (0x100 ≤ t) && decide (t ≤ 0x10C)) || (decide (0x200 ≤ t) && decide (t ≤ 0x267))

/-- The checks of a write to sub-index `sub` of `FlipMask`. -/
def Conc.flipWriteOk (c : Conc) (sub v : Nat) : Res Unit :=
  if sub ≤ 4 ∧ c.get O.flipArm = 1 then .error Abort.range
  else if sub = 3 ∧ flipTargetOk v = false then .error Abort.range
  else if sub = 4 ∧ v ≠ 2 ^ 64 - 1 ∧ flipHits (c.get O.flipTarget) v = false then .error Abort.range
  else .ok ()

/-! ## Ring words in memory (R192, R193, R250) -/

/-- The Carousel writes the word at an address, in rising order: the sector's later words lose what they held, and the flip
mask applies; a poisoned sector that is written from its middle on stays poisoned. (DEDUCED, log entry 23; DEDUCED, log entry 28) -/
def Conc.streamStore (c : Conc) (pa : Nat) : Conc :=
  if c.mem.errs = [] ∧ c.get O.flipArm ≠ 1 then c
  else if pa % 32 ≠ 0 ∧ c.mem.poisoned (pa / 32) then c
  else
    let c := c.withMem fun m => (List.range (4 - pa / 8 % 4)).foldl (fun m i => m.setErr (pa / 8 + i) (0, 0)) m
    let f := c.flipWord pa
    if f.1 = (0, 0) then f.2 else f.2.withMem fun m => m.setErr (pa / 8) f.1

/-- A ring word is written at offset `off`. -/
def Conc.ringStore (c : Conc) (off : Nat) : Conc :=
  let pa := c.caro.ringAddr off
  let c := c.streamStore pa
  let next := c.caro.ringAddr (off + 1)
  if (pa + 8) % writtenBlock = 0 ∨ (pa < next ∧ next / writtenBlock ≠ pa / writtenBlock) then
    c.withMem fun m => m.markWritten (pa / writtenBlock * writtenBlock) ((pa / writtenBlock + 1) * writtenBlock)
  else c

/-- The bucket in whose region a ring word stands gets its poison bit (R192). -/
def Conc.poisonBucket (c : Conc) (off : Nat) : Conc :=
  { c with caro := { c.caro with index := c.caro.index.map fun e =>
      if e.off ≤ off ∧ off < e.off + e.words then { e with poisoned := true } else e } }

/-- A reader of a stream of words reads word `w` through its code; the reads of a poisoned sector count once (R248). -/
def Conc.readCoded (c : Conc) (w : Nat) (first : Bool) : Bool × Conc :=
  if c.mem.poisoned (w / 4) then
    (true, if first ∨ w % 4 = 0 then (c.count O.poisonedReads).noteError (8 * w) 0xFF 3 else c)
  else
    let r := c.readWord w
    (r.1, if r.1 then r.2.poisonWord w else r.2)

/-- A reader reads the ring words from offset `off` on, `n` of them, through their codes. -/
def Conc.ringRead (c : Conc) (off n : Nat) : Conc :=
  if c.mem.errs = [] then c
  else (List.range n).foldl (fun c i =>
    let w := c.caro.ringAddr (off + i) / 8
    let d := c.readCoded w (decide (i = 0))
    if d.1 then d.2.poisonBucket (off + i) else d.2) c

/-- The Carousel writes a record's words into the record store (R287). -/
def Conc.storeWords (c : Conc) (off n : Nat) : Conc :=
  if c.mem.errs = [] ∧ c.get O.flipArm ≠ 1 then c
  else (List.range n).foldl (fun c i => c.streamStore (c.caro.storeAddr (off + 8 * i))) c

/-- Egress reads the record with a number from the record store, each word through its code (R247, R248): words read from a
poisoned sector carry the poison mark, and the header of a record with one the poisoned flag (R367). -/
def Conc.readRecord (c : Conc) (number : Nat) : Conc :=
  match c.caro.records.find? fun r => r.number = number with
  | none => c
  | some r =>
    let q : List Bool × Conc := if c.mem.errs = [] then ([], c)
      else (List.range r.words.length).foldl (fun q i =>
        let d := q.2.readCoded (q.2.caro.storeAddr (r.off + 8 * i) / 8) (decide (i = 0))
        (q.1 ++ [d.1], d.2)) ([], c)
    let bad := q.1.any id
    let mark (w : EWord × Nat) : EWord :=
      (if bad ∧ w.2 = 0 then w.1.1 ||| BitVec.ofNat 64 (2 ^ 51) else w.1.1, if q.1.getD w.2 false then orBits w.1.2 2 else w.1.2)
    let c := q.2
    { c with caro := { c.caro with records := c.caro.records.map fun y =>
        if y.number = number then { y with words := y.words.zipIdx.map mark, read := true } else y } }

/-- Egress reads the records that its next cell could hold. -/
def Conc.readRecords (c : Conc) : Conc :=
  (c.caro.records.take 16).foldl (fun c r => if r.read then c else c.readRecord r.number) c

/-- A ring word stands in a poisoned sector (R192). -/
def Conc.ringPoisoned (c : Conc) (off : Nat) : Bool := c.mem.poisoned (c.caro.ringAddr off / 32)

end Sys2Proof.Machine
end

