-- ==== Sys2Proof/Machine/ConcCells.lean ====
section
/-! DEFINITION. Cells at the concentrator (chapter 06): what arrives on ingress, back-end and peer lanes, what leaves on
downlinks, back-end and peer lanes, and their timeouts.  The bulk records of front-end words (R289). -/

namespace Sys2Proof.Machine

/-! ## Answers and aborts -/

/-- Record an abort in `LastAbort` (R322). (DEDUCED, log entry 15) -/
def Conc.recordAbort (c : Conc) (src : Nat) (a : Abort) (index sub tid : Nat) : Conc :=
  c.put O.lastAbort (entrySet 192 (c.get O.lastAbort) src
    (a.code + index % 2 ^ 16 * 2 ^ 32 + sub % 256 * 2 ^ 48 + tid % 2 ^ 16 * 2 ^ 64 + c.seconds % 2 ^ 48 * 2 ^ 80
      + a.owner % 2 ^ 32 * 2 ^ 128))

/-- The lane that carries an answer to a request of lane `i` (R315): else the lowest logical lane that is ACTIVE (R10). -/
def Conc.answerLane (c : Conc) (i : Nat) : Nat :=
  if (c.lane i).st = .active then i
  else
    let same := if i < 162 then ((List.range 16).filterMap c.physical).map laneBe else [162, 163]
    (same.find? fun j => (c.lane j).st = .active).getD i

/-- Words without marks. -/
def plainWords (ws : List Word) : List EWord := ws.map fun w => (w, 0)

/-- Queue a management message in class `cls` on the lane that answers lane `i`; class 3 toward the back end shares its cells
with bulk records (R289). -/
def Conc.respond (c : Conc) (i cls : Nat) (ws : List Word) : Conc :=
  let j := c.answerLane i
  if cls = 3 ∧ laneKind j = .backEnd then
    let x := c.eLane j
    c.setELane j { x with segs := x.segs ++ plainWords ws }
  else if cls = 3 then c.updLane j fun l => { l with tx := { l.tx with c3 := l.tx.c3 ++ [ws] } }
  else c.updLane j fun l => { l with tx := { l.tx with c1 := l.tx.c1 ++ [ws] } }

/-! ## What a cell delivers (R123, R124, R128) -/

/-- Count a protocol error on a lane (R123). -/
def Conc.protoErr (c : Conc) (i : Nat) (n : Nat := 1) : Conc :=
  c.updLane i fun l => { l with stats := l.stats.protoErr n }

/-- The class-0 opcodes a lane may bring, timed and untimed (R130, R128). -/
def concKnownOp (k : LaneKind) (op : Nat) : Bool :=
  match k with
  | .ingress => op == 0x11 || op == 0x12 || op == 0x13
  | .backEnd => op == 0x40 || op == 0x41 || op == 0x42
  | .peer => op == 0x50 || op == 0x51 || op == 0x52 || op == 0x53
  | .downlink => false

def Conc.deliver (c : Conc) (d : Delivered) : Conc := { c with links := { c.links with inbox := c.links.inbox ++ [d] } }

/-- One class-0 word, timed or untimed. -/
def Conc.deliverWord (c : Conc) (i : Nat) (timed : Bool) (w : Word) : Conc :=
  if concKnownOp (laneKind i) (c0op w) && (isTimed (c0op w) == timed) then c.deliver { lane := i, tick := c.tick, words := [w] }
  else c.protoErr i

/-- The class-0 words of a back-end cell: a LOOKBACK_START counts only with the LOOKBACK_SPAN that follows it (R202). -/
def Conc.deliverBackEnd (c : Conc) (i : Nat) : List Word → Conc
  | [] => c
  | a :: rest =>
    if c0op a = 0x41 then
      match rest with
      | b :: rest' =>
        if c0op b = 0x42 then (c.deliver { lane := i, tick := c.tick, words := [a, b] }).deliverBackEnd i rest'
        else (c.protoErr i).deliverBackEnd i (b :: rest')
      | [] => c.protoErr i
    else if c0op a = 0x42 then (c.protoErr i).deliverBackEnd i rest
    else (c.deliverWord i false a).deliverBackEnd i rest

/-- The verdict of R133 on a number: 0 accepted, 1 duplicate, 2 protocol error. -/
def DupFilter.judge (x : DupFilter) (tag d : Nat) : Nat × DupFilter :=
  if x.tag ≠ some tag then (0, { tag := some tag, dmax := d, seen := [d] })
  else
    let ahead := (d + 2 ^ 32 - x.dmax) % 2 ^ 32
    let behind := (x.dmax + 2 ^ 32 - d) % 2 ^ 32
    if 1 ≤ ahead ∧ ahead < 2 ^ 31 then
      (0, { x with dmax := d, seen := d :: x.seen.filter fun e => (d + 2 ^ 32 - e) % 2 ^ 32 < 1024 })
    else if behind < 1024 then
      if x.seen.contains d then (1, x) else (0, { x with seen := d :: x.seen })
    else (2, x)

/-- A class-0 data cell with a duplicate header (R131, R133). -/
def Conc.dupCell (c : Conc) (i : Nat) (payload : List Word) : Conc :=
  let w := (payload.headD 0#64).toNat
  let be := decide (laneKind i = .backEnd)
  let r := (if be then c.links.beDup else c.links.peerDup).judge (bits w 39 32) (w % 2 ^ 32)
  let c := { c with links := if be then { c.links with beDup := r.2 } else { c.links with peerDup := r.2 } }
  let ws := class0Words (payload.drop 1)
  match r.1 with
  | 0 => if be then c.deliverBackEnd i ws else ws.foldl (fun c x => c.deliverWord i false x) c
  | 1 => c.updLane i fun l => { l with stats := { l.stats with duplicates := satAdd 32 l.stats.duplicates 1 } }
  | _ => c.protoErr i

/-- The cached transactions of a source (R308). -/
def Conc.trans (c : Conc) (src : Nat) : List Trans := Bank.get [] c.dict.trans src

/-- The messages of a source that wait. -/
def Conc.waiting (c : Conc) (src : Nat) : List Delivered :=
  c.links.inbox.filter fun d => decide (144 ≤ d.lane) && sourceOfLane d.lane == src

/-- The transactions of a source received and not yet answered: waiting requests and relays (R307). -/
def Conc.outstanding (c : Conc) (src : Nat) : Nat :=
  (waitingIds (c.trans src) (c.waiting src)).length + (c.dict.relays.filter fun r => r.src == src).length

/-- A transaction ID is among the last 8 of a source, answered or waiting. -/
def Conc.knownId (c : Conc) (src tid : Nat) : Bool :=
  ((c.trans src).any fun t => t.id == tid) || (waitingIds (c.trans src) (c.waiting src)).contains tid

/-- Keep a transaction of a source (R308). -/
def Conc.keepTrans (c : Conc) (src : Nat) (t : Trans) : Conc :=
  { c with dict := { c.dict with trans := Bank.set [] c.dict.trans src (Machine.keepTrans (c.trans src) t) } }

/-- Refuse a message of a back-end or peer lane without executing it; its ID is kept with the answer (R308). -/
def Conc.refuseMsg (c : Conc) (i cls : Nat) (h : Word) (a : Abort) : Conc :=
  let src := sourceOfLane i
  let c := c.keepTrans src (refusedTrans h a i c.tick)
  (c.recordAbort src a (msgIndex h) (msgSub h) (msgId h)).respond i cls (abortWords h a)

/-- A duplicate of one of the last 8 transactions of a source (R308): the answer again, an answer owed once more, or the refusal
of another request under the same ID.  None for a new one. -/
def Conc.duplicate (c : Conc) (lane cls : Nat) (r : Req) : Option Conc :=
  let src := sourceOfLane lane
  match dupOf (c.trans src) r with
  | .fresh => none
  | .answered ws => some ((c.count O.duplicateRequests).respond lane cls ws)
  | .executing =>
    let ts := (c.trans src).map fun t => if t.id = r.tid then { t with again := t.again ++ [(lane, cls)] } else t
    let c := c.count O.duplicateRequests
    some { c with dict := { c.dict with trans := Bank.set [] c.dict.trans src ts } }
  | .mismatch =>
    some (((c.count O.duplicateRequests).recordAbort src Abort.general r.index r.sub r.tid).respond lane cls
      (r.response (.error Abort.general)))

/-- A message that is no response this lane can bring, with an opcode that is no request's (R135). -/
def unknownOp (i op : Nat) : Bool := decide (144 ≤ i) && decide (op = 0 ∨ 4 < op ∧ (op < 0x80 ∨ i < 162))

/-- One assembled message: a response, or a request within the bound of R307; an unknown opcode is answered at once (R135). -/
def Conc.receiveMsg (c : Conc) (i cls : Nat) (m : List Word) (poisoned : Bool) : Conc :=
  let h := m.headD 0#64
  let src := sourceOfLane i
  if unknownOp i (msgOp h) then
    (match c.duplicate i cls (headReq h) with
      | some d => d
      | none => c.refuseMsg i cls h (if poisoned then Abort.hardware else Abort.badOpcode))
  else if 144 ≤ i ∧ msgOp h < 0x80 ∧ 8 ≤ c.outstanding src ∧ c.knownId src (msgId h) = false then
    (c.count O.outstandingRefused).refuseMsg i cls h Abort.outstanding
  else c.deliver { lane := i, tick := c.tick, words := m, mgmt := true, poisoned := poisoned }

/-- The management words of an accepted class-1 or class-3 cell (R134). -/
def Conc.deliverMsgs (c : Conc) (i cls : Nat) (poisoned : Bool) (ws : List Word) : Conc :=
  let l := c.lane i
  let held := if cls = 1 then l.rx.asm1 else l.rx.asm3
  let r := splitMessages 64 (held ++ ws.map fun w => (w, poisoned))
  let rx := if cls = 1 then { l.rx with asm1 := r.2 } else { l.rx with asm3 := r.2 }
  r.1.foldl (fun c m => c.receiveMsg i cls m.1 m.2) (c.setLane i { l with rx := rx })

/-! ## Bulk records of front-end words (R85, R125, R184, R289) -/

/-- The type of a data word. -/
def wordType (w : Word) : Nat := w.toNat / 2 ^ 61

def isFiller (w : Word) : Bool := wordType w == 2 && bitAt w.toNat 60

/-- Bulk header word 0. -/
def bulkHeader (kind source number : Nat) (compressed poisoned continues : Bool) : Word :=
  BitVec.ofNat 64 (kind % 16 * 2 ^ 60 + b1 compressed * 2 ^ 59 + b1 poisoned * 2 ^ 58 + b1 continues * 2 ^ 57
    + source % 512 * 2 ^ 48 + 0xB0 * 2 ^ 40 + number % 2 ^ 40)

/-- The headers of a bulk record. -/
def bulkHeaders (kind source number tag len : Nat) (compressed poisoned continues : Bool) : List EWord :=
  plainWords [bulkHeader kind source number compressed poisoned continues, BitVec.ofNat 64 (len % 2 ^ 32 + tag % 2 ^ 16 * 2 ^ 32)]

/-- The trailer of a bulk record. -/
def bulkTrailer (crc : Nat) : List EWord := plainWords [BitVec.ofNat 64 (crc % 2 ^ 32)]

/-- Queue a whole bulk record: headers, body, trailer with the CRC of the body. -/
def Conc.queueBulk (c : Conc) (kind source : Nat) (body : List Word) : Conc :=
  let e := c.egr
  let n := e.bulkNumber
  let crc := crc32c (body.flatMap fun w => toBytes 8 w.toNat)
  let ws := bulkHeaders kind source n 0 body.length false false false ++ plainWords body ++ bulkTrailer crc
  { c with egr := { e with bulk := e.bulk ++ [{ number := n, words := ws }], bulkNumber := (n + 1) % 2 ^ 40 } }

/-- A port's bulk record closes. -/
def Conc.closeBulk (c : Conc) (p : Nat) : Conc :=
  let ws := Bank.get [] c.egr.forming p
  if ws = [] then c
  else
    let c := { c with egr := { c.egr with forming := Bank.set [] c.egr.forming p [] } }
    c.queueBulk 1 p ws

/-- One class-3 word of a port; the record closes at 256 words. -/
def Conc.bulkWord (c : Conc) (p : Nat) (w : Word) : Conc :=
  let e := c.egr
  let ws := Bank.get [] e.forming p
  let e := { e with forming := Bank.set [] e.forming p (ws ++ [w]),
                    formingSince := if ws = [] then Bank.set 0 e.formingSince p c.tick else e.formingSince }
  let c := { c with egr := e }
  if 256 ≤ ws.length + 1 then c.closeBulk p else c

/-- BULK_RECORD_CLOSE: 10 us after its first word. (DEDUCED, log entry 24) -/
def Conc.bulkDue (c : Conc) (p : Nat) : Conc :=
  if Bank.get [] c.egr.forming p ≠ [] ∧ Bank.get 0 c.egr.formingSince p + 938 ≤ c.tick then c.closeBulk p else c

/-- The words of a class-3 ingress cell. -/
def Conc.class3Words (c : Conc) (i : Nat) (ws : List Word) : Conc :=
  let p := portOfLane i
  if c.acts p = false then c.count O.unleasedWords 0 (ws.filter fun w => !isFiller w).length
  else
    (ws.zip (List.range ws.length)).foldl (fun c x =>
      let w := x.1
      let t := wordType w
      if isFiller w then c
      else if (t = 1 ∧ x.2 = 0 ∧ bitAt w.toNat 25) ∨ t = 5 ∨ t = 6 then c.bulkWord p w
      else c.protoErr i) c

/-! ## Contents of an accepted data cell (R123, R124) -/

/-- The lane belongs to a port whose lanes do not fit: it is not used (R127). -/
def Conc.miscabled (c : Conc) (i : Nat) : Bool := decide (48 ≤ i ∧ i < 144) && !c.cabled (portOfLane i)

/-- A STALE port that receives a class-2 cell rejoins, taken or not (R181). -/
def Conc.staleReceives (c : Conc) (p : Nat) : Conc :=
  let g := c.gport p
  if g.st = .stale then c.setGport p { g with st := .rejoining, rejoin := 0 } else c

def Conc.ingressContents (c : Conc) (i : Nat) (x : Cell) (beyond : Bool) : Conc :=
  let free (c : Conc) : Conc := c.updLane i fun l => { l with rx := l.rx.free x.cls }
  if c.miscabled i then free c
  else if beyond ∨ x.comp ∨ x.poison then (free c).protoErr i
  else match x.cls with
    | 0 => (class0Words x.payload).foldl (fun c w => c.deliverWord i false w) (free c)
    | 1 => (free c).deliverMsgs i 1 false x.payload
    | 2 => (c.updLane i fun l => { l with rx := { l.rx with buf2 := l.rx.buf2 ++ [x.payload] } }).staleReceives (portOfLane i)
    | _ => (free c).class3Words i x.payload

def Conc.trainedContents (c : Conc) (i : Nat) (x : Cell) (beyond : Bool) : Conc :=
  let c := c.updLane i fun l => { l with rx := l.rx.free x.cls }
  if beyond ∨ x.comp then c.protoErr i
  else match x.cls with
    | 0 => if x.poison then c.protoErr i else c.dupCell i x.payload
    | 1 => (if x.poison then c.protoErr i else c).deliverMsgs i 1 x.poison x.payload
    | 3 => (if x.poison then c.protoErr i else c).deliverMsgs i 3 x.poison x.payload
    | _ => c.protoErr i

/-! ## Return fields, identity, link word (R126, R127, R140, R142) -/

/-- Return fields of an ingress header: a downlink takes them from ingress lane 2p while that lane is ALIGNED, else from
2p + 1, and ignores the first two after a change (R140). -/
def Conc.ingressReturns (c : Conc) (l : Nat) (r : Returns) : Conc :=
  let p := l / 2
  let want := if (c.lane (laneIn (2 * p))).st = .aligned then 0 else 1
  let k := c.links
  let k := if Bank.get 0 k.source p = want then k
    else { k with source := Bank.set 0 k.source p want, skip := Bank.set 0 k.skip p 2 }
  let c := { c with links := k }
  if l % 2 ≠ want then c
  else
    let n := Bank.get 0 k.skip p
    if 0 < n then { c with links := { k with skip := Bank.set 0 k.skip p (n - 1) } }
    else c.updLane (laneDown p) fun d => { d with tx := d.tx.applyReturns .downlink r c.tick }.nakHeard d.tx

/-- A lane identity arrives on an ingress lane (R127): one cabling fault for a port whose lanes do not fit, of a DISABLED port
too, which makes the lane SUSPECT at once (R353); the port leaves FAULT when they fit again. (DEDUCED, log entry 20) -/
def Conc.laneIdentity (c : Conc) (i ident : Nat) : Conc :=
  let p := portOfLane i
  let was := c.cabled p
  let c := c.updLane i fun l => { l with identity := some ident }
  let ok := c.cabled p
  if was = ok then c
  else
    if ok then c.portRefresh p
    else
      let g := c.gport p
      let g := if g.st = .disabled then g else { g with st := .fault, epoch := none, lagging := false, rejoin := 0 }
      (c.setGport p g).faultEvent 0x01 i 0x07 true

/-- The lanes whose runs belong to the link of lane `i`. -/
def linkLanes (i : Nat) : List Nat :=
  if i < 144 then [laneIn (2 * portOfLane i), laneIn (2 * portOfLane i + 1)] else [i]

/-- An initiate cell (R142): answered once per run. -/
def Conc.initiated (c : Conc) (i scope : Nat) : Conc :=
  if (c.lane i).rx.ignoring then c
  else
    let c := if i < 144 then c.resetSide (portOfLane i) 2 scope else c.resetTrained i 2
    (linkLanes i).foldl (fun c j => c.updLane j fun l => { l with rx := { l.rx with ignoring := true, synced := true } }) c

/-- The lane identity of a link word (R126). -/
def Conc.identityWord (c : Conc) (i : Nat) (w : Word) : Conc :=
  if i < 144 then c.laneIdentity i (bits w.toNat 15 8) else c.updLane i fun l => { l with identity := some (bits w.toNat 15 8) }

/-- The signal of the link word of an idle or control-only cell. (DESIGN CHOICE, log entry 51) -/
def Conc.linkCell (c : Conc) (i : Nat) (w : Word) (idle : Bool) : Conc :=
  let v := w.toNat
  let scope := if i < 144 then bits v 3 2 else 0
  match v % 4 with
  | 1 => if scope = 3 then c else c.initiated i scope
  | 2 =>
    let t := if i < 144 then laneDown (portOfLane i) else i
    c.updLane t fun l => { l with tx := l.tx.answered scope }
  | _ => if idle then c.updLane i fun l => { l with rx := { l.rx with ignoring := false } } else c

/-! ## A cell slot (R104, R109, R123) -/

/-- A cell that fails its CRC (R123, R136); every 256th is a fault event (R146). -/
def Conc.cellBad (c : Conc) (i : Nat) : Conc :=
  let l := (c.lane i).crcFailed
  let c := c.setLane i l
  if l.stats.crcRun = 0 then c.faultEvent 0x01 i 0x04 else c

/-- A class-2 cell that breaks the sequence restarts the count of a REJOINING port (R181). -/
def Conc.sequenceBroken (c : Conc) (p : Nat) : Conc :=
  let g := c.gport p
  if g.st = .rejoining then c.setGport p { g with rejoin := 0 } else c

/-- A good cell that is no training cell, in the order of R123.  Of a lane of a port with a cabling fault only the identity is
looked at (R127). -/
def Conc.cellGood (c : Conc) (i hdr : Nat) (payload : List Word) : Conc :=
  let k := laneKind i
  let x := cellOf hdr payload
  let w := payload.headD 0#64
  if c.miscabled i then (if x.kind = 0 then c else c.identityWord i w)
  else
  let c := if k = .ingress then c.ingressReturns (i - 48) (returnsOf hdr)
    else c.updLane i fun l => { l with tx := l.tx.applyReturns k (returnsOf hdr) c.tick }.nakHeard l.tx
  let c := if x.kind = 0 then c else c.identityWord i w
  if c.miscabled i then c
  else
  let c :=
    if x.kind = 0 then
      let c := c.updLane i fun l => { l with rx := { l.rx with ignoring := false } }
      if k = .ingress ∧ x.cls = 2 then
        let p := portOfLane i
        let g := c.gport p
        let see (y : GLane) : GLane := { y with lastCell := some c.tick }
        c.setGport p (if i % 2 = 0 then { g with lane0 := see g.lane0 } else { g with lane1 := see g.lane1 })
      else c
    else
      let c := c.linkCell i w (x.kind = 1)
      if x.kind = 2 then (class0Words (payload.drop 1)).foldl (fun c w => c.deliverWord i true w) c else c
  let q := (c.lane i).rx.onSeq x
  let c := c.updLane i fun l => { l.nakRaised q.2 with rx := q.2 }
  if q.1 then
    let rx := { q.2 with recvd := Bank.upd 0 q.2.recvd x.cls (· + 1) }
    let c := c.updLane i fun l => { l with rx := rx }
    let beyond := rx.beyondCredit k x.cls
    if k = .ingress then c.ingressContents i x beyond else c.trainedContents i x beyond
  else if k = .ingress ∧ x.kind = 0 ∧ x.cls = 2 then c.sequenceBroken (portOfLane i)
  else c

/-- A bad marker: four in a row take a lane out of ALIGNED or ACTIVE (R104, R109). -/
def Conc.badMarker (c : Conc) (i : Nat) : Conc :=
  let l := c.lane i
  match l.st with
  | .aligned =>
    let c := c.countEntry O.laneErrors 32 (2 * i)
    if l.bad = 3 then
      let c := c.laneLost i .hunt
      c.updLane i fun l => l.tightrope c.tick
    else c.setLane i { l with bad := l.bad + 1 }
  | .active =>
    let c := c.countEntry O.laneErrors 32 (2 * i)
    if l.bad = 3 then c.setLane i (l.enterLock c.tick) else c.setLane i { l with bad := l.bad + 1 }
  | _ => c.setLane i { l with good := 0 }

/-- A good marker: alignment is reached, or the cell is judged.  In CAPS a cell that is no training cell says that the far end is
ACTIVE, so done. (DEDUCED, log entry 16) -/
def Conc.goodSlot (c : Conc) (i : Nat) (cell : Option (Nat × List Word)) : Conc :=
  let l := c.lane i
  match l.st with
  | .hunt =>
    let l := { l with good := l.good + 1 }
    let c := c.setLane i l
    if 64 ≤ l.good then c.ingressAligned i else c
  | .aligned =>
    let c := c.setLane i { l with bad := 0 }
    match cell with
    | some (hdr, payload) => if (cellOf hdr payload).kind = 3 then c else c.cellGood i hdr payload
    | none => c.cellBad i
  | .active =>
    let c := c.setLane i { l with bad := 0 }
    match cell with
    | some (hdr, payload) =>
      if (cellOf hdr payload).kind = 3 then c.trainingCell i payload
      else (c.updLane i fun l => { l with train := { l.train with parkCells := 0 } }).cellGood i hdr payload
    | none => c.cellBad i
  | .train | .lock | .caps =>
    match cell with
    | some (hdr, payload) =>
      if (cellOf hdr payload).kind = 3 then c.trainingCell i payload
      else if l.st = .caps ∧ l.train.done ∧ l.train.holdoff = none then c.becomeActive i
      else c
    | none => c.setLane i { l with train := { l.train with okCells := 0 } }
  | _ => c

/-- One arriving line of a trained lane in TRAIN or LOCK, `raw` the payload words of its slot as they stand: in TRAIN the clock and then 64 good markers come first; in LOCK the
markers are sought while cells are judged at the frame found (R105, R109). (DEDUCED, log entry 16) -/
def Conc.trainSlot (c : Conc) (i line slot : Nat) (cell : Option (Nat × List Word)) (raw : List Word) : Conc :=
  let l := c.lane i
  if l.st = .train ∧ l.train.clocked = false then c
  else if l.st = .train ∧ l.train.found then
    (if goodMarker (laneKind i) slot ∧ cell.isSome then c.goodSlot i cell else c.trainingBad i raw)
  else
    let y := l.seek (laneKind i) line
    let judged := l.verifying && goodMarker (laneKind i) slot
    if l.st = .train then c.setLane i { y with train := { y.train with found := decide (64 ≤ y.good) } }
    else
      let c := c.setLane i (if judged then y else { y with train := { y.train with okCells := 0 } })
      if judged then c.goodSlot i cell else c

/-- CELL_ARRIVAL: the line bits `line` of one slot time of a lane, cut where they arrive (R105, R106); the cell is judged at
the marker of the receiver's own frame, and its body enters the descrambler whatever the marker (R98).  In test mode the
bits are the checker's (R102). (DESIGN CHOICE, log entry 10) -/
def Conc.cellSlot (c : Conc) (i line : Nat) : Conc :=
  let k := laneKind i
  let l := c.lane i
  let slot := l.framed k line
  let r := decodeSlot k l.rx.descr slot
  let fed (c : Conc) : Conc := c.updLane i fun l => { l with rx := { l.rx with descr := r.2 } }
  let keep (c : Conc) : Conc := c.updLane i fun l => l.arrived k line
  match l.st with
  | .prbs => if k = .downlink then c else c.prbsLine i line
  | .disabled | .retired | .noSignal | .cdrLock | .parked | .unparking | .detect => c
  | _ =>
    if k = .downlink then c
    else
      let c := if k = .ingress then c.updLane i fun l =>
          { l with markerSeen := goodMarker k slot, markerInWord := markerWithin k slot } else c
      if l.gap then keep c
      else
      let c := fed c
      keep (if l.st = .train ∨ l.st = .lock then c.trainSlot i line slot r.1 (rawPayload k l.rx.descr slot)
        else if goodMarker k slot then c.goodSlot i r.1 else c.badMarker i)

/-! ## Transmit (R101, R108, R112, R137, R140, R141, R287, R288) -/

/-- Put a cell on a lane's line with return fields. -/
def Conc.emitCell (c : Conc) (i : Nat) (r : Returns) (x : Cell) (t : Tx) : Conc :=
  let e := encodeSlot (laneKind i) t.scr (headerOf x r) x.payload
  c.updLane i fun l => { l with tx := { t with scr := e.2, line := e.1, lastCell := some x } }

/-- The identity a lane announces (R126). -/
def Conc.identityOf (c : Conc) (i : Nat) : Nat :=
  match laneKind i with
  | .downlink => i
  | .backEnd => c.logical (i - 144)
  | _ => i - 162

/-- The training control word and payload of a lane (R108). -/
def Conc.trainingPayload (c : Conc) (i : Nat) : List Word × Nat :=
  let l := c.lane i
  let tr := l.train
  let k := laneKind i
  let phase := match l.st with | .caps => 2 | .lock => 1 | .unparking => 1 | .parked => 3 | _ => 0
  let w := tr.request % 16 + b1 (decide (l.st = .train)) * 16 + tr.own % 16 * 2 ^ 8 + b1 tr.done * 2 ^ 12
    + b1 tr.farDoneSeen * 2 ^ 13 + phase * 2 ^ 14
  let logical := if k = .peer then i - 162 else l.announced.getD (c.logical (i - 144))
  let cap := 0xC096 + 2 ^ 16 + (if k = .peer then 2 ^ 20 else 0) + logical % 256 * 2 ^ 24
    + (if k = .peer then 34 else 160) * 2 ^ 32
  let fixed : List Word := if phase = 2 then [BitVec.ofNat 64 w, BitVec.ofNat 64 cap] else [BitVec.ofNat 64 w]
  let n := k.words - fixed.length
  let bs := prbsBits 3 (64 * n) tr.gen
  (fixed ++ wordsOf n bs.1, bs.2)

/-- A training cell leaves, with the preset then requested applied (R110). -/
def Conc.sendTraining (c : Conc) (i : Nat) : Conc :=
  let c := c.updLane i Lane.applyPreset
  let p := c.trainingPayload i
  let c := c.updLane i fun l => { l with train := { l.train with gen := p.2 } }
  c.emitCell i { ack := 0 } { kind := 3, payload := p.1 } (c.lane i).tx

/-- The payload of a class-2 cell from `n` words on: the record in progress, then whole records in number order (R287).
The result is the words, what is left of the last record, the store after it and the numbers of the records carried. -/
def fillRecords : Nat → Nat → List EWord → Option Nat → Nat → List Record → List Nat →
    List EWord × List EWord × Option Nat × Nat × List Record × List Nat × Nat × Nat
  | 0, _, left, rec?, size, store, carried => ([], left, rec?, size, store, carried, 0, 0)
  | fuel + 1, room, left, rec?, size, store, carried =>
    match left with
    | [] =>
      match store with
      | [] => ([], [], none, 0, [], carried, 0, 0)
      | r :: rest =>
        if room = 0 then ([], [], none, 0, r :: rest, carried, 0, 0)
        else fillRecords fuel room r.words (some r.number) r.bytes rest (carried ++ [r.number])
    | _ =>
      let now := left.take room
      let later := left.drop room
      if later = [] then
        let q := fillRecords fuel (room - now.length) [] none 0 store carried
        (now ++ q.1, q.2.1, q.2.2.1, q.2.2.2.1, q.2.2.2.2.1, q.2.2.2.2.2.1, q.2.2.2.2.2.2.1 + size, q.2.2.2.2.2.2.2 + 1)
      else (now, later, rec?, size, store, carried, 0, 0)

/-- The payload of a class-3 cell toward the back end (R289): the rest of the bulk record the lane sends, its responses, then
further bulk records.  A record that is still open must fill the cell.  The result is the words, the responses left, the
record in progress, the bulk records, the numbers carried and the records ended. (DEDUCED, log entry 24) -/
def fillSegs : Nat → Nat → List EWord → Option Nat → List BulkRec → List Nat →
    List EWord × List EWord × Option Nat × List BulkRec × List Nat × Nat
  | 0, _, segs, cur, bulk, carried => ([], segs, cur, bulk, carried, 0)
  | fuel + 1, room, segs, cur, bulk, carried =>
    if room = 0 then ([], segs, cur, bulk, carried, 0)
    else match cur with
      | some n =>
        match bulk.find? fun b => b.number = n with
        | none => fillSegs fuel room segs none bulk carried
        | some b =>
          let now := b.words.take room
          let carried := if carried.contains n then carried else carried ++ [n]
          if b.open? = false ∧ b.words.length ≤ room then
            let q := fillSegs fuel (room - now.length) segs none (bulk.filter fun y => y.number ≠ n) carried
            (now ++ q.1, q.2.1, q.2.2.1, q.2.2.2.1, q.2.2.2.2.1, q.2.2.2.2.2 + 1)
          else if room ≤ b.words.length then
            (now, segs, cur, bulk.map (fun y => if y.number = n then { y with words := y.words.drop room } else y), carried, 0)
          else ([], segs, cur, bulk, carried, 0)
      | none =>
        if segs ≠ [] then
          let now := segs.take room
          let q := fillSegs fuel (room - now.length) (segs.drop room) none bulk carried
          (now ++ q.1, q.2.1, q.2.2.1, q.2.2.2.1, q.2.2.2.2.1, q.2.2.2.2.2)
        else match bulk.find? fun b => !b.taken && (!b.open? || decide (room ≤ b.words.length)) with
          | some b =>
            fillSegs fuel room [] (some b.number) (bulk.map fun y => if y.number = b.number then { y with taken := true } else y)
              carried
          | none => ([], [], none, bulk, carried, 0)

/-- The marks of a cell's words: compressed and poison bits (R281). -/
def cellMarks (ws : List EWord) : Bool × Bool := (ws.any fun w => bitAt w.2 0, ws.any fun w => bitAt w.2 1)

/-- Remember what the unacknowledged cells of a lane carry. -/
def ELane.carry (x : ELane) (l : Lane) (seq : Nat) (recs bulks : List Nat) : ELane :=
  let seqs := l.tx.bulkSeqs
  { x with carried := (x.carried.filter fun y => seqs.contains y.1) ++ [(seq, recs, bulks)] }

/-- A class-2 cell of a back-end lane; what it takes from the record store passes the store's code (R247). -/
def Conc.sendRecords (c : Conc) (i : Nat) (r : Returns) (t : Tx) : Conc :=
  let c := c.readRecords
  let x := c.eLane i
  let q := fillRecords 80 64 x.left x.record x.size c.caro.records (match x.record with | some n => [n] | none => [])
  let m := cellMarks q.1
  let s := t.sendNew 2 (padWords 64 (q.1.map fun w => w.1)) m.2 m.1 c.tick
  let y := { x.carry (c.lane i) s.1.seq q.2.2.2.2.2.1 [] with left := q.2.1, record := q.2.2.1, size := q.2.2.2.1 }
  let c := c.setELane i y
  let c := { c with caro := { c.caro with records := q.2.2.2.2.1, use := c.caro.use - q.2.2.2.2.2.2.1 } }
  (c.count O.recordsSent 0 q.2.2.2.2.2.2.2).emitCell i r s.1 s.2

/-- The words left of a message begun when `k` words of a stream of messages have been taken, of whose first message `b` words
stand at the front (R134). -/
def restBegun : Nat → Nat → List EWord → Nat → Nat
  | 0, _, _, _ => 0
  | n + 1, b, ws, k =>
    if k < b then b - k
    else if k = b then 0
    else match ws.drop b with
      | [] => 0
      | h :: rest => restBegun n (1 + bodyWords h.1) (h :: rest) (k - b)

/-- A class-3 cell of a back-end lane. (DEDUCED, log entry 24) -/
def Conc.sendSegs (c : Conc) (i : Nat) (r : Returns) (t : Tx) : Conc :=
  let x := c.eLane i
  let q := fillSegs 200 64 x.segs x.bulk c.egr.bulk []
  let m := cellMarks q.1
  let s := t.sendNew 3 (padWords 64 (q.1.map fun w => w.1)) m.2 m.1 c.tick
  let c := c.setELane i { x.carry (c.lane i) s.1.seq [] q.2.2.2.2.1 with
    segs := q.2.1, begun := restBegun 80 x.begun x.segs (x.segs.length - q.2.1.length), bulk := q.2.2.1 }
  let c := { c with egr := { c.egr with bulk := q.2.2.2.1 } }
  (c.count O.bulkRecordsSent 0 q.2.2.2.2.2).emitCell i r s.1 s.2

/-- The lane has class-3 words to send. -/
def Conc.class3Ready (c : Conc) (i : Nat) : Bool :=
  let x := c.eLane i
  !(fillSegs 200 64 x.segs x.bulk c.egr.bulk []).1.isEmpty

/-- `LaneTraffic`: one data cell of a class on a logical lane. (DEDUCED, log entry 15) -/
def Conc.traffic (c : Conc) (i cls : Nat) : Conc :=
  if laneKind i = .backEnd ∧ c.logical (i - 144) < 16 then c.countEntry O.laneTraffic 32 (4 * c.logical (i - 144) + cls) else c

/-- The class-0 cell with number D leaves toward the back end: the residence of its words ends at the first copy (R293,
R295). -/
def Conc.residence (c : Conc) (d : Nat) : Conc :=
  let ts := Bank.get [] c.egr.starts d
  let c := { c with egr := { c.egr with starts := Bank.set [] c.egr.starts d [] } }
  ts.foldl (fun c t =>
    let n := c.tick - t
    let c := { c with egr := { c.egr with residence := max c.egr.residence (min n 65535) } }
    let c := c.count O.class0Words
    if 93 < n then c.count O.class0Exceeded else c) c

/-- A class-0 data cell built whole (R131, R132). -/
def Conc.sendBuilt (c : Conc) (i : Nat) (r : Returns) (t : Tx) : Conc :=
  let k := laneKind i
  let ws := t.q0.headD []
  let s := t.sendNew 0 (padWords k.words ws) false false c.tick
  let c := if k = .backEnd then c.residence ((ws.headD 0#64).toNat % 2 ^ 32) else c
  (c.traffic i 0).emitCell i r s.1 { s.2 with q0 := t.q0.drop 1, q0At := t.q0At.drop 1 }

/-- Messages of class 1, or of class 3, wait on the lane. -/
def Tx.waits1 (t : Tx) : Bool := !t.p1.isEmpty || !t.c1.isEmpty
def Tx.waits3 (t : Tx) : Bool := !t.p3.isEmpty || !t.c3.isEmpty

/-- A cell of class 1 with up to `room` words of messages in `n` payload words (R134). -/
def Tx.sendMsgs1 (t : Tx) (room n now : Nat) : Cell × Tx :=
  let m := takeMessages room t.p1 t.c1
  let s := t.sendNew 1 (padWords n m.1) false false now
  (s.1, { s.2 with p1 := m.2.1, c1 := m.2.2, last13 := 1 })

/-- The same of class 3. -/
def Tx.sendMsgs3 (t : Tx) (room n now : Nat) : Cell × Tx :=
  let m := takeMessages room t.p3 t.c3
  let s := t.sendNew 3 (padWords n m.1) false false now
  (s.1, { s.2 with p3 := m.2.1, c3 := m.2.2, last13 := 3 })

/-- The choice between classes 1 and 3 by turns (R81, R141). -/
def Tx.turn (t : Tx) (r1 r3 : Bool) : Option Nat :=
  if r1 && r3 then (if t.last13 = 1 then some 3 else some 1) else if r1 then some 1 else if r3 then some 3 else none

/-- An idle cell. -/
def Conc.sendIdle (c : Conc) (i : Nat) (r : Returns) (word7 : List Word) (t : Tx) : Conc :=
  let k := laneKind i
  let s := t.signal
  let ws := linkWord s.1 s.2 (c.identityOf i)
  c.emitCell i r { kind := 1, seq := t.next, payload := padWords (k.words - word7.length) [ws] ++ word7 } (t.runSent c.tick k.slot)

/-- The next cell of a replay (R136): its return word on a downlink is rebuilt. (DEDUCED, log entry 15) -/
def Conc.sendReplay (c : Conc) (i : Nat) (r : Returns) (word7 : List Word) (t : Tx) : Conc :=
  let n := t.replay.getD 0
  match t.buf[n]? with
  | some x =>
    c.emitCell i r { x with payload := x.payload.take ((laneKind i).words - word7.length) ++ word7 }
      { t with replay := if n + 1 < t.buf.length then some (n + 1) else none }
  | none => c.sendIdle i r word7 { t with replay := none }

/-- What a holder that no longer acts on a port may still send: claims (R379). -/
def Tx.onlyClaims (t : Tx) : Tx :=
  { t with c0 := t.c0.filter fun w => c0op w = 0x06, c1 := [], c3 := [], p1 := [], p3 := [], timed := [] }

/-- A cell that a holder that no longer acts on a port may send again: claims alone (R379). -/
def Cell.onlyClaims (x : Cell) : Bool := x.kind == 0 && x.cls == 0 && (x.payload.take 7).all fun w => w == 0#64 || c0op w == 0x06

/-- The slot in which a class-0 cell with lease words begins is the instant of the renewal or claim (R379). -/
def Conc.leaseSent (c : Conc) (p : Nat) (ws : List Word) : Conc :=
  ws.foldl (fun c w =>
    let x := c.lease p
    match c0op w with
    | 0x05 => c.setLease p { x with unanswered := x.unanswered ++ [c.tick] }
    | 0x06 => c.setLease p { x with claimSent := some c.tick }
    | _ => c) c

/-- A downlink slot: payload word 7 is uplink 1's return word (R121, R140).  A replay of commands or messages waits while the
concentrator does not act on the port (R379). (DEDUCED, log entry 37) -/
def Conc.downSlot (c : Conc) (p : Nat) (t : Tx) : Conc :=
  let ra := (c.lane (laneIn (2 * p))).rx.returns .ingress
  let rb := (c.lane (laneIn (2 * p + 1))).rx.returns .ingress
  let c := c.updLane (laneIn (2 * p)) fun l => { l with rx := ra.2 }
  let c := c.updLane (laneIn (2 * p + 1)) fun l => { l with rx := rb.2 }
  let r := ra.1
  let w7 := [returnWord rb.1]
  let t := if c.acts p then t else t.onlyClaims
  if c.mute then c.sendIdle p r w7 t
  else
  let send (c : Conc) (s : Cell × Tx) : Conc := c.emitCell p r { s.1 with payload := s.1.payload.take 7 ++ w7 } s.2
  if t.timed ≠ [] then
    let x : Cell := { kind := 2, seq := t.next, payload := padWords 7 (linkWord 0 0 p :: t.timed.take 6) ++ w7 }
    c.emitCell p r x { t with timed := t.timed.drop 6 }
  else if t.replay.isSome then
    let may : Bool := match t.buf[t.replay.getD 0]? with | some x => c.acts p || x.onlyClaims | none => true
    if may then c.sendReplay p r w7 t else c.sendIdle p r w7 t
  else if t.c0 ≠ [] ∧ t.maySend .downlink 0 then
    let ws := t.c0.take 7
    send (c.leaseSent p ws) (let s := t.sendNew 0 (padWords 8 ws) false false c.tick
      (s.1, { s.2 with c0 := t.c0.drop 7 }))
  else match t.turn (t.waits1 && t.maySend .downlink 1) (t.waits3 && t.maySend .downlink 3) with
    | some 1 => send c (t.sendMsgs1 7 8 c.tick)
    | some _ => send c (t.sendMsgs3 7 8 c.tick)
    | none => c.sendIdle p r w7 t

/-- A peer slot.  After a lockstep failure only the heartbeats of the hardware generator leave (R382). -/
def Conc.peerSlot (c : Conc) (i : Nat) (r : Returns) (t : Tx) : Conc :=
  let l := c.lane i
  let open? := l.parkReq.isNone && c.pair.state != 5
  if t.replay.isSome then c.sendReplay i r [] t
  else if t.q0 ≠ [] ∧ t.maySend .peer 0 then c.sendBuilt i r t
  else match t.turn (open? && t.waits1 && t.maySend .peer 1) (open? && t.waits3 && t.maySend .peer 3) with
    | some 1 =>
      let s := t.sendMsgs1 8 8 c.tick
      c.emitCell i r s.1 s.2
    | some _ =>
      let s := t.sendMsgs3 8 8 c.tick
      c.emitCell i r s.1 s.2
    | none => c.sendIdle i r [] t

/-- Position `k` of the sixteen belongs to class 3 (R288). (DEDUCED, log entry 24) -/
def bulkPosition (share k : Nat) : Bool := decide (k * share / 16 < (k + 1) * share / 16)

/-- A built class-0 cell waits that was ready 2 base ticks before this slot boundary (R147). -/
def Tx.builtBy (t : Tx) (now : Nat) : Bool := !t.q0.isEmpty && decide (t.q0At.headD 0 + 2 ≤ now)

/-- A back-end slot (R141, R169, R288).  A slot that class 1 takes is not one of the sixteen. (DEDUCED, log entry 24) -/
def Conc.backEndSlot (c : Conc) (i : Nat) (r : Returns) (t : Tx) : Conc :=
  let n := i - 144
  let due (y : Nat × Nat × Nat) : Bool := y.1 == n && decide (y.2.2 / 2 ^ 16 ≤ c.tick)
  let echoes := c.links.beEchoes.filter due
  if echoes ≠ [] then
    let c := { c with links := { c.links with beEchoes := c.links.beEchoes.filter fun y => !due y } }
    let ws := echoes.map fun y => beEchoReply c.tick y.2.1 (y.2.2 % 2 ^ 16)
    c.emitCell i r { kind := 2, seq := t.next, payload := padWords 64 (linkWord 0 0 (c.identityOf i) :: ws) } t
  else if c.mute then c.sendIdle i r [] t
  else if t.replay.isSome then c.sendReplay i r [] t
  else if t.builtBy c.tick ∧ t.maySend .backEnd 0 then c.sendBuilt i r t
  else if t.synced = false then c.sendIdle i r [] t
  else
    let x := c.eLane i
    let carries := decide (c.logical n < 16)
    let open? := (c.lane i).parkReq.isNone && carries
    let r1 := open? && t.waits1 && t.maySend .backEnd 1
    let r2 := open? && (decide (x.left ≠ []) || decide (c.caro.records ≠ [])) && t.maySend .backEnd 2
    let r3 := open? && c.class3Ready i && t.maySend .backEnd 3
    if r1 then
      let s := t.sendMsgs1 64 64 c.tick
      (c.traffic i 1).emitCell i r s.1 s.2
    else
    let c := c.setELane i { x with pos := (x.pos + 1) % 16 }
    if r3 ∧ (bulkPosition (c.get O.bulkShare) x.pos ∨ r2 = false) then (c.traffic i 3).sendSegs i r t
    else if r2 then (c.traffic i 2).sendRecords i r t
    else c.sendIdle i r [] t

/-- A NAK registered at least 2 base ticks ago starts its replay at this slot (R137). -/
def Lane.nakReplay (l : Lane) (now : Nat) : Lane :=
  match l.tx.naked with
  | some n =>
    if n + 2 ≤ now then l.replayed now else l
  | none => l

/-! ## Class-0 cells built toward the back end and the partner (R131, R132, R292) -/

/-- A lane qualifies for a class-0 cell: ACTIVE, synchronised, in credit, not replaying. -/
def Conc.qualifies (c : Conc) (i : Nat) : Bool :=
  let l := c.lane i
  let k := laneKind i
  let t := l.tx
  decide (l.st = .active) && t.synced && t.replay.isNone
    && decide (Bank.get 0 t.sent 0 + t.q0.length < k.unit * (Bank.get 0 t.got 0 + k.credit 0))

/-- The physical lanes that carry the next class-0 cell (R132). -/
def Conc.class0Lanes (c : Conc) : List Nat :=
  let ok := (List.range 16).filterMap fun l => match c.physical l with
    | some n => if c.qualifies (laneBe n) then some (l, laneBe n) else none
    | none => none
  let pair := (List.range 8).findSome? fun k =>
    match ok.find? (fun x => x.1 = 2 * k), ok.find? (fun x => x.1 = 2 * k + 1) with
    | some a, some b => some [a.2, b.2]
    | _, _ => none
  pair.getD ((ok.take 2).map fun x => x.2)

/-- The duplicate header (R131). -/
def dupHeader (number tag : Nat) (twice : Bool) : Word :=
  BitVec.ofNat 64 (number % 2 ^ 32 + tag % 256 * 2 ^ 32 + b1 twice * 2 ^ 40)

/-- The low 8 bits of `ResetCount` after its increment in this boot. -/
def Conc.bootTag (c : Conc) : Nat := c.get O.resetCount % 256

def Conc.queueBuilt (c : Conc) (lanes : List Nat) (ws : List Word) : Conc :=
  lanes.foldl (fun c i => c.updLane i fun l => { l with tx := { l.tx with q0 := l.tx.q0 ++ [ws], q0At := l.tx.q0At ++ [c.tick] } }) c

/-- CLASS0_CELL_BUILD: up to 63 words from the head of the egress queue, on the lanes that qualify (R292). -/
def Conc.buildClass0 (c : Conc) : Conc :=
  let e := c.egr
  let lanes := c.class0Lanes
  if e.c0 = [] ∨ lanes = [] ∨ c.mute then c
  else
    let now : List (Nat × Word) := e.c0.take 63
    let d := c.links.beNumber
    let ws := dupHeader d c.bootTag (decide (2 ≤ lanes.length)) :: now.map Prod.snd
    let e := { e with c0 := e.c0.drop 63, starts := Bank.set [] e.starts d (now.map Prod.fst) }
    let c := { c with egr := e.refill, links := { c.links with beNumber := (d + 1) % 2 ^ 32 } }
    c.queueBuilt lanes ws

/-- The class-0 cells that wait for a peer lane leave on both peer lanes whenever both qualify; while none does they wait
(R132).  The direction to the partner has class-0 numbers of its own. (DESIGN CHOICE, log entry 51) -/
def Conc.buildPeer : Nat → Conc → Conc
  | 0, c => c
  | n + 1, c =>
    match c.links.peerQ, [162, 163].filter fun i => c.qualifies i with
    | [], _ => c
    | _, [] => c
    | ws :: rest, lanes =>
      let d := c.links.peerNumber
      let c := { c with links := { c.links with peerQ := rest, peerNumber := (d + 1) % 2 ^ 32 } }
      (c.queueBuilt lanes (dupHeader d c.bootTag (decide (2 ≤ lanes.length)) :: ws)).buildPeer n

/-- A class-0 cell to the partner. -/
def Conc.toPartner (c : Conc) (ws : List Word) : Conc :=
  let q := c.links.peerQ ++ [ws]
  ({ c with links := { c.links with peerQ := q } } : Conc).buildPeer q.length

/-! ## Slots (R95, R101, R137, R141) -/

/-- A slot of a generator in test mode leaves (R102). -/
def Conc.sendTest (c : Conc) (i : Nat) : Conc :=
  c.updLane i fun l =>
    let p := l.prbs.slot (laneKind i)
    { l with prbs := p.2, tx := { l.tx with line := p.1, lastCell := none } }

/-- The slot that begins at this tick on a lane of the concentrator, by the lane's state. -/
def Conc.slotBy (c : Conc) (i : Nat) : Conc :=
  let k := laneKind i
  let l := c.lane i
  match k, l.st with
  | .ingress, _ => c
  | .downlink, .aligned =>
    let l := l.nakReplay c.tick
    (c.setLane i l).downSlot i l.tx
  | _, .prbs => c.sendTest i
  | .downlink, _ => c
  | _, .active =>
    let c := if k = .peer then c.buildPeer c.links.peerQ.length else c
    let l := ((c.lane i).applyPreset).nakReplay c.tick
    let q := l.rx.returns k
    let c := c.setLane i { l with rx := q.2 }
    if k = .peer then c.peerSlot i q.1 l.tx else c.backEndSlot i q.1 l.tx
  | _, .detect => if bitAt (c.laneCtl i) 4 then c.sendTraining i else c
  | _, .train => c.sendTraining i
  | _, .lock => c.sendTraining i
  | _, .caps => c.sendTraining i
  | _, .unparking => if (c.quad (quadOf i)).locked then c.sendTraining i else c
  | _, .parked =>
    if 0 < l.train.parkLeft then
      ((c.sendTraining i).updLane i fun l => { l with train := { l.train with parkLeft := l.train.parkLeft - 1 } }).parkQuad
        (quadOf i)
    else c
  | _, _ => c

/-- A slot of the lane begins at this tick and has not been sent: all lanes of one slot length begin their slots on the same
ticks, back to back, from tick 0 (R95 gives no phase). (DESIGN CHOICE, log entry 51) -/
def Conc.slotDue (c : Conc) (i : Nat) : Bool :=
  decide (c.tick % (laneKind i).slot = 0) && decide ((c.lane i).tx.slotAt ≠ some c.tick) && decide (laneKind i ≠ .ingress)

/-- The slot of a lane, once.  A downlink takes its pre-emphasis (R101), and a test mode set on an ACTIVE lane starts (R116). -/
def Conc.laneSlot (c : Conc) (i : Nat) : Conc :=
  if c.slotDue i then
    let e := entryGet 16 (c.get O.downlinkEmphasis) i
    let c := match (c.lane i).prbs.pend with | some code => c.prbsEnter i code | none => c
    let c := c.updLane i fun l => { l with tx := { (if i < 48 then l.tx.emphasis e else l.tx) with slotAt := some c.tick } }
    c.slotBy i
  else c

/-- The back-end lanes in the order in which their slots of one tick are sent: by logical number, so that a record goes to the
lowest-numbered lane that can take it (R287), the lanes without one behind. -/
def Conc.backEndOrder (c : Conc) : List Nat := ((List.range 16).filterMap c.physical ++ List.range 18).map laneBe

/-- TX_SLOT on a lane of the concentrator: a back-end lane's slot comes after those of the lower logical lanes that begin at the
same tick (R287). (DESIGN CHOICE, log entry 2) -/
def Conc.txSlot (c : Conc) (i : Nat) : Conc :=
  if laneKind i = .backEnd then ((c.backEndOrder.takeWhile fun j => j ≠ i) ++ [i]).foldl Conc.laneSlot c
  else c.laneSlot i

/-- The slots that begin at this tick and no command has sent. (DESIGN CHOICE, log entry 2) -/
def Conc.slotsDue (c : Conc) : Conc :=
  let c := if c.tick % 20 = 0 then [162, 163].foldl Conc.laneSlot ((List.range 48).foldl Conc.laneSlot c) else c
  if c.tick % 17 = 0 then c.backEndOrder.foldl Conc.laneSlot c else c

/-! ## Timeouts (R137, R142, R143, R146)

Each takes effect once its tick has passed: what arrives in the tick of the expiry counts as arrived (R145). -/

/-- T_replay without acknowledgement progress. -/
def Conc.replayTimeout (c : Conc) (i : Nat) : Conc :=
  let l := c.lane i
  if l.tx.buf ≠ [] ∧ l.tx.timer + (laneKind i).replayTime < c.tick then
    c.setLane i (l.replayed c.tick)
  else c

/-- 10 ms without acknowledgement progress: the whole link resets (R143). -/
def Conc.progressTimeout (c : Conc) (i : Nat) : Conc :=
  let l := c.lane i
  if l.tx.buf ≠ [] ∧ l.tx.progress + 937500 < c.tick then
    (if i < 48 then c.resetSide i 1 0 else c.resetTrained i 1).faultEvent 0x01 i 0x04
  else c

/-- No answer within 256 slots: the initiate run again; every eighth in a row is a fault event. -/
def Conc.answerTimeout (c : Conc) (i : Nat) : Conc :=
  let l := c.lane i
  match l.tx.awaiting with
  | some d =>
    if d < c.tick then
      let n := l.tx.ansFails + 1
      let run : Run := { signal := 1, scope := l.tx.waitScope, left := 16 }
      let c := c.setLane i
        { l with tx := { l.tx with awaiting := none, ansFails := n, runs := (l.tx.addRun run).runs },
                 stats := { l.stats with answerTimeouts := satAdd 32 l.stats.answerTimeouts 1 } }
      if n % 8 = 0 then c.faultEvent 0x01 i 0x04 else c
    else c
  | none => c

end Sys2Proof.Machine
end

