-- ==== Sys2Proof/Machine/ConcRelay.lean ====
section
/-! DEFINITION. Relays to front-ends (R316-R318), for hosts and for the Ringmaster's own requests (source 3), and the
configuration of a front-end after a grant (R381, R301, R354). -/

namespace Sys2Proof.Machine

def Conc.withDict (c : Conc) (f : Dict → Dict) : Conc := { c with dict := f c.dict }

/-- The window index of front-end index `x` on port `p` (R316), and the front-end index of a window index. -/
def windowIndex (p x : Nat) : Nat := 0x4000 + p * 0x80 + x % 0x80
def windowPort (x : Nat) : Nat := (x - 0x4000) / 0x80
def windowFe (x : Nat) : Nat := 0x2000 + x % 0x80

/-- The bytes of data a request carries. -/
def Req.bytes (r : Req) : Nat := if r.op = 2 ∨ r.op = 4 then r.len else 0

/-- A relay's message on the downlink (R317): class 3 for more than 40 bytes of data, else class 1. -/
def Conc.pushRelay (c : Conc) (r : Relay) : Conc :=
  let ws := { r.req with tid := r.id, index := windowFe r.req.index }.words
  c.updLane (laneDown r.port) fun l =>
    if 40 < r.req.bytes then { l with tx := { l.tx with c3 := l.tx.c3 ++ [ws] } } else { l with tx := { l.tx with c1 := l.tx.c1 ++ [ws] } }

/-- Relays of a port that wait are sent as places are free, at most 8 unanswered (R307). -/
def Conc.sendRelays (c : Conc) (p : Nat) : Nat → Conc
  | 0 => c
  | n + 1 =>
    let mine := c.dict.relays.filter fun r => r.port = p
    if 8 ≤ (mine.filter fun r => r.sent).length then c
    else match mine.find? fun r => !r.sent with
      | none => c
      | some r =>
        let r' := { r with sent := true, first := c.tick, last := c.tick }
        let c := c.withDict fun d => { d with relays := d.relays.map fun y => if y.id = r.id then r' else y }
        (c.pushRelay r').sendRelays p n

/-- Queue a request for the front-end of port `p`; `lane` and `cls` say where the answer goes (the session on CAN). -/
def Conc.addRelay (c : Conc) (p src lane cls : Nat) (q : Req) : Conc :=
  let r : Relay := { id := c.dict.relayId, port := p, src := src, lane := lane, cls := cls, req := q, first := c.tick, last := c.tick }
  let c := c.withDict fun d => { d with relays := d.relays ++ [r], relayId := (d.relayId + 1) % 2 ^ 16 }
  c.sendRelays p 8

/-- A request of the Ringmaster to a front-end (source 3). -/
def Conc.feRequest (c : Conc) (p op index sub len v : Nat) : Conc :=
  c.addRelay p 3 0 0 { tid := 0, op := op, index := windowIndex p index, sub := sub, len := len, val := v }

/-- The concentrator's copy of a front-end's P objects (R301). -/
def Conc.copy (c : Conc) (p : Nat) : Od := Bank.get [] c.dict.copies p
def Conc.setCopy (c : Conc) (p : Nat) (d : Od) : Conc :=
  (c.withDict fun x => { x with copies := Bank.set [] x.copies p d }).touch

/-- Write a P object, position `i`, to the front-end from the copy. -/
def Conc.writeCopy (c : Conc) (p : Nat) (o : Obj) (i : Nat) : Conc :=
  c.feRequest p 2 o.index (o.sub + i) o.bytes ((c.copy p).val o i)

/-- Write every P object of the front-end on port `p`, in index order (R301, R381), behind the slots that the repair record
holds as retired for its serial number (R354). (DEDUCED, log entry 41) -/
def Conc.configureFe (c : Conc) (p : Nat) : Conc :=
  let mask := Bank.get 0 c.flash.repair.feSlots (c.lease p).serial
  let c := if mask = 0 then c else c.feRequest p 2 O.feRetiredRestore.index O.feRetiredRestore.sub O.feRetiredRestore.bytes mask
  feObjs.foldl (fun c o =>
    if o.persist ∧ o.access = .rw then (List.range o.count).foldl (fun c i => c.writeCopy p o i) c else c) c

/-- OBSERVE is requested of the front-end on port `p`. -/
def Conc.requestObserve (c : Conc) (p : Nat) : Conc :=
  c.feRequest p 2 O.feModeRequest.index O.feModeRequest.sub O.feModeRequest.bytes 3

/-- `ChannelsLive`: the bits set in `ChannelLive` over the leased ports (R38, R373), a port's as last read, all ones until
then. (DEDUCED, log entry 37) -/
def Conc.countChannels (c : Conc) : Conc :=
  c.put O.channelsLive ((c.leases.filter fun p => p.2.status = 2).foldl (fun n p => n + p.2.live) 0)

/-- The identity of the front-end on port `p` has been read (R381): a serial number other than the one known for the port
means defaults. -/
def Conc.identified (c : Conc) (p serial : Nat) : Conc :=
  let x := c.lease p
  let c :=
    if x.serial ≠ 0 ∧ x.serial ≠ serial then (c.setCopy p []).post 0 0 0x27 else c
  ((c.setLease p { x with serial := serial }).touch.configureFe p).feRequest p 1 O.channelLive.index O.channelLive.sub 0 0

/-- The answer to a USDO transfer. -/
def Conc.usdoReply (c : Conc) (session : Nat) (a : Res Answer) : Conc :=
  let r : UsdoReply := match a with
    | .ok x => { session := session, code := 0, len := x.len, val := x.val }
    | .error e => { session := session, code := e.code }
  c.withDict fun d => { d with can := { d.can with replies := d.can.replies ++ [r] } }

/-- The class of an access that is not a management message: its end is recorded, and nothing is sent. -/
def noAnswer : Nat := 255

/-- Answer a host's request and keep the answer (R308, R315): once for every delivery. -/
def Conc.answer (c : Conc) (src lane cls : Nat) (q : Req) (a : Res Answer) : Conc :=
  let c := match a with | .ok _ => c | .error e => c.recordAbort src e q.index q.sub q.tid
  if src = 3 ∨ cls = noAnswer then c
  else if src = 0 then c.usdoReply lane a
  else
    let ws := q.response a
    let old := (c.trans src).find? fun t => t.id = q.tid
    let again := match old with | some t => t.again | none => []
    let t : Trans := { id := q.tid, opcode := q.op, index := q.index, sub := q.sub, resp := some ws, lane := lane,
                       rcvd := match old with | some t => t.rcvd | none => c.tick }
    let ts := (c.trans src).map fun u => if u.id = q.tid then t else u
    let c := c.withDict fun d => { d with trans := Bank.set [] d.trans src ts }
    ((lane, cls) :: again).foldl (fun c x => c.respond x.1 x.2 ws) c

/-- What an answered relay tells the concentrator: its copy of a P object, or a value refused at the configuration
(R302). (DEDUCED, log entry 41) -/
def Conc.relayNews (c : Conc) (r : Relay) (a : Res Answer) : Conc :=
  match a, lookupObj feObjs (windowFe r.req.index) r.req.sub with
  | .ok x, .ok (o, i) =>
    if r.src = 3 ∧ r.req.op = 1 ∧ o.index = 0x2000 then c.identified r.port x.val
    else if r.req.op = 1 ∧ o.index = O.channelLive.index then
      (c.setLease r.port { c.lease r.port with live := popcount 256 x.val }).countChannels
    else if o.persist ∧ r.req.op = 2 then c.setCopy r.port ((c.copy r.port).put o (r.req.val % 2 ^ (8 * o.bytes)) i)
    else if o.persist ∧ r.req.op = 4 ∧ r.req.last then c.feRequest r.port 1 o.index (o.sub + i) 0 0
    else if o.persist ∧ r.req.op = 1 then c.setCopy r.port ((c.copy r.port).put o x.val i)
    else c
  | .error e, .ok (o, _) =>
    if r.src = 3 ∧ r.req.op = 2 ∧ o.persist ∧ e.code ≠ Abort.timeout.code ∧ e.code ≠ Abort.unreachable.code then (c.count O.ownershipConflicts).post 0 0 0x21 else c
  | _, _ => c

/-- A relay has its answer: it leaves the queue, the host is answered, the next relay goes out. -/
def Conc.finishRelay (c : Conc) (r : Relay) (a : Res Answer) : Conc :=
  let c := c.withDict fun d => { d with relays := d.relays.filter fun y => y.id ≠ r.id }
  ((c.relayNews r a).answer r.src r.lane r.cls r.req a).sendRelays r.port 8

/-- MGMT_RESPONSE: a response of the front-end on port `p` (R317). -/
def Conc.mgmtResponse (c : Conc) (p : Nat) (ws : List Word) : Conc :=
  let h := ws.headD 0#64
  match c.dict.relays.find? fun r => r.port = p && r.sent && r.id = msgId h && decide (msgOp h = r.req.op + 0x80) with
  | none => c
  | some r =>
    let s := (ws.getD 1 0#64).toNat
    let n := h.toNat % 2 ^ 16
    let data := ofWords (ws.drop 2) % 2 ^ (8 * n)
    let a : Res Answer :=
      if s % 2 ^ 32 = 0 then .ok { hi := s / 2 ^ 32, len := n, val := data }
      else .error { code := s % 2 ^ 32, owner := s / 2 ^ 32 }
    c.finishRelay r a
where
  ofWords : List Word → Nat
    | [] => 0
    | w :: ws => w.toNat + 2 ^ 64 * ofWords ws

/-- RELAY_REPEAT: 4 ms without a response, at most twice. -/
def Conc.relayRepeat (c : Conc) (id : Nat) : Conc :=
  match c.dict.relays.find? fun r => r.id = id with
  | none => c
  | some r =>
    if r.sent ∧ r.again < 2 ∧ r.last + 4 * msTicks ≤ c.tick ∧ c.acts r.port then
      let r' := { r with again := r.again + 1, last := c.tick }
      (c.withDict fun d => { d with relays := d.relays.map fun y => if y.id = id then r' else y }).pushRelay r'
    else c

/-- RELAY_TIMEOUT: 20 ms after the first relay. -/
def Conc.relayTimeout (c : Conc) (id : Nat) : Conc :=
  match c.dict.relays.find? fun r => r.id = id with
  | none => c
  | some r =>
    if r.sent ∧ r.first + 20 * msTicks ≤ c.tick then (c.count O.relayTimeouts).finishRelay r (.error Abort.timeout) else c

/-- The lease of a port is lost with relays pending: they are answered so (R317). -/
def Conc.dropRelays (c : Conc) (p : Nat) : Conc :=
  let mine := c.dict.relays.filter fun r => r.port = p
  let c := c.withDict fun d => { d with relays := d.relays.filter fun r => r.port ≠ p }
  mine.foldl (fun c r => c.answer r.src r.lane r.cls r.req (.error Abort.unreachable)) c

end Sys2Proof.Machine
end

