-- ==== Sys2Proof/Machine/ConcMov.lean ====
section
/-! DEFINITION. Address translation (R242, R243) and the mover channels (R251-R263), with the COMPRESS jobs of the Marver
units (R266-R277) and the bulk records of SEND (R289, R290). -/

namespace Sys2Proof.Machine

/-! ## Translation (R242, R243) -/

def Conc.ctx (c : Conc) (i : Nat) : Ctx := Bank.get {} c.eng.ctxs i
def Conc.setCtx (c : Conc) (i : Nat) (x : Ctx) : Conc := { c with eng := { c.eng with ctxs := Bank.set {} c.eng.ctxs i x } }
def Conc.updCtx (c : Conc) (i : Nat) (f : Ctx → Ctx) : Conc := c.setCtx i (f (c.ctx i))

/-- Which permission an access needs. -/
inductive Need where
  | r | w | x
  deriving DecidableEq, Repr

/-- The bytes that a leaf maps, and the physical address of the first one (R242). -/
def Leaf.size (l : Leaf) : Nat := 4096 * 512 ^ l.level
def Leaf.pa (l : Leaf) : Nat := l.pte / 2 ^ 10 % 2 ^ 44 * 4096
def Leaf.holds (l : Leaf) (va : Nat) : Bool := decide (l.va ≤ va) && decide (va < l.va + l.size)

/-- The leaf maps another physical address. -/
def Leaf.repoint (l : Leaf) (pa : Nat) : Leaf :=
  { l with pte := l.pte % 2 ^ 10 + pa / 4096 % 2 ^ 44 * 2 ^ 10 + l.pte / 2 ^ 54 * 2 ^ 54 }

/-- A leaf gives an access what it needs: V, U and A set, D set on a store, the permission, no writable page that is not
readable, bits 63 to 54 zero, a physical address aligned to its size (R242). (PRESUMED, log entry 3) -/
def Leaf.allows (l : Leaf) (n : Need) : Bool :=
  let b := bitAt l.pte
  b 0 && b 4 && b 6 && (b 1 || !b 2) && decide (l.pte / 2 ^ 54 = 0) && decide (l.pa % l.size = 0)
    && match n with | .r => b 1 | .w => b 2 && b 7 | .x => b 3

/-- A leaf as the Ringmaster creates it: V, U, A and D set, bit 8 for an uncacheable page. -/
def leafOf (va pa level : Nat) (r w x uncached : Bool) : Leaf :=
  { va := va, level := level,
    pte := 1 + b1 r * 2 + b1 w * 4 + b1 x * 8 + 16 + 64 + 128 + b1 uncached * 256 + pa / 4096 * 2 ^ 10 }

/-- The leaves of a range of whole pages: the largest page that fits at each place. (DESIGN CHOICE, log entry 52) -/
def leavesOf (r w x uncached : Bool) : Nat → Nat → Nat → Nat → List Leaf
  | 0, _, _, _ => []
  | fuel + 1, va, pa, n =>
    if n = 0 then []
    else
      let fits (k : Nat) : Bool := let s := 4096 * 512 ^ k; decide (va % s = 0) && decide (pa % s = 0) && decide (s ≤ n)
      let level := if fits 2 then 2 else if fits 1 then 1 else 0
      let s := 4096 * 512 ^ level
      leafOf va pa level r w x uncached :: leavesOf r w x uncached fuel (va + s) (pa + s) (n - s)

/-- Bits 63 to 39 of a virtual address equal bit 38. -/
def canonicalVa (va : Nat) : Bool := decide (va < 2 ^ 38 ∨ 2 ^ 64 - 2 ^ 38 ≤ va)

/-- The address space of a requester (R243): a context's page table, or ASID 0, physical addressing. -/
inductive Space where
  | task (table : List Leaf)
  | physical
  deriving DecidableEq, Repr

def Ctx.space (x : Ctx) : Space := .task x.table

/-- The physical address of an address; none is a page fault.  In physical mode an address is its own. -/
def Space.translate : Space → Nat → Need → Option Nat
  | .physical, va, _ => some va
  | .task table, va, n =>
    if canonicalVa va = false then none
    else match table.find? fun l => l.holds va with
      | some l => if l.allows n then some (l.pa + (va - l.va)) else none
      | none => none

def Ctx.translate (x : Ctx) (va : Nat) (n : Need) : Option Nat := x.space.translate va n

/-- Codes of a mover's halt (R254). -/
def haltPage : Nat := 0x03
def haltAccess : Nat := 0x04
def haltPoison : Nat := 0x05

/-- A byte for a mover: its physical address, or the halt code; a leaf into a reserved range, or beyond 40 bits, is an access
fault (R237, R242, R259). -/
def Space.byte (x : Space) (va : Nat) (n : Need) : Except Nat Nat :=
  match x.translate va n with
  | none => .error haltPage
  | some pa => if isRam pa then .ok pa else .error haltAccess

/-- The first of some addresses that fails, with its code. -/
def Space.firstFault (x : Space) (n : Need) (vas : List Nat) : Option (Nat × Nat) :=
  vas.findSome? fun va => match x.byte va n with
    | .error e => some (e, va)
    | .ok _ => none

/-- The `n` addresses from one on, in 64 bits. -/
def addrs (va n : Nat) : List Nat := (List.range n).map fun i => (va + i) % 2 ^ 64

/-- The physical addresses of virtual ones that translate. -/
def Space.phys (x : Space) (n : Need) (vas : List Nat) : List Nat := vas.filterMap fun va => x.translate va n

/-- Bytes at scattered physical addresses, in runs of rising addresses. -/
def groupRuns : List (Nat × (Nat × Bool)) → List (Nat × List (Nat × Bool))
  | [] => []
  | (a, b) :: rest =>
    match groupRuns rest with
    | (a', bs) :: more => if a' = a + 1 then (a, b :: bs) :: more else (a, [b]) :: (a', bs) :: more
    | [] => [(a, [b])]

/-- Write bytes at physical addresses. -/
def Conc.writeAt (c : Conc) (but : Option Nat) (xs : List (Nat × (Nat × Bool))) : Conc :=
  (groupRuns xs).foldl (fun c r => c.writeBytes but 16 r.1 r.2) c

/-- Read bytes at physical addresses. -/
def Conc.readAt (c : Conc) (pas : List Nat) : List (Nat × Bool) × Conc :=
  (groupRuns (pas.map fun a => (a, (0, false)))).foldl (fun q r =>
    let t := q.2.readBytes 16 r.1 r.2.length
    (q.1 ++ t.1, t.2)) ([], c)

/-! ## Sleeping clusters (R215) -/

/-- The physical cluster whose sleep an access meets. -/
def clusterOf (pa : Nat) : Option Nat :=
  match memKind pa with
  | .cluster k => some k
  | .scratch e => some (e / 8)
  | _ => none

def Conc.clusterPw (c : Conc) (k : Nat) : ClusterPw := Bank.get {} c.eng.power k
def Conc.setClusterPw (c : Conc) (k : Nat) (x : ClusterPw) : Conc :=
  { c with eng := { c.eng with power := Bank.set {} c.eng.power k x } }

/-- A sleeping cluster starts to wake. -/
def Conc.wakeCluster (c : Conc) (k : Nat) : Conc :=
  let x := c.clusterPw k
  if x.asleep ∧ x.waking.isNone then c.setClusterPw k { x with waking := some c.tick } else c

/-- The first sleeping cluster among addresses. -/
def Conc.asleepAt (c : Conc) (pas : List Nat) : Option Nat :=
  pas.findSome? fun a => match clusterOf a with
    | some k => if (c.clusterPw k).asleep then some k else none
    | none => none

/-! ## Channels and descriptors (R252-R255) -/

def Conc.mover (c : Conc) (ch : Nat) : Mover := Bank.get {} c.mov.chans ch
def Conc.setMover (c : Conc) (ch : Nat) (m : Mover) : Conc := { c with mov := { c.mov with chans := Bank.set {} c.mov.chans ch m } }

/-- The address space in which a channel works (R243, R251): its instance's, or physical mode for the Carousel's channels 28 to
31 and for a channel in the Ringmaster's use (0xFFFE). -/
def Conc.moverSpace (c : Conc) (ch : Nat) : Option Space :=
  let o := (c.mover ch).owner
  if 28 ≤ ch ∨ o = 0xFFFE then some .physical
  else if o < 384 then some (c.ctx o).space
  else none

/-- Descriptors posted and not completed (R253). -/
def Mover.posted (m : Mover) : Nat := (m.tail + 65536 - m.head) % 65536

/-- The virtual address of descriptor number `Head`. -/
def Mover.slotVa (m : Mover) : Nat := (m.base + 64 * (m.head % m.entries)) % 2 ^ 64

/-- A descriptor from its 64 bytes (R254). -/
def descOf (v : Nat) : Desc :=
  let op := bits v 15 0
  { op := op % 16, fence := bitAt op 4, stopPoison := bitAt op 5,
    reserved := decide (op / 64 ≠ 0 ∨ bits v 31 16 ≠ 0 ∨ bits v 383 320 ≠ 0 ∨ bits v 447 432 ≠ 0),
    length := bits v 63 32, source := bits v 127 64, dest := bits v 191 128, argA := bits v 255 192, argB := bits v 319 256 }

/-- Two ranges overlap. -/
def overlap (a n b k : Nat) : Bool := decide (a < b + k ∧ b < a + n)

/-- Where byte `i` of a transfer goes. -/
def Desc.destOf (d : Desc) (i : Nat) : Nat :=
  if d.op = 2 then
    let es := d.argA % 2 ^ 32
    (d.dest + i / es * (d.argA / 2 ^ 32) + i % es) % 2 ^ 64
  else (d.dest + i) % 2 ^ 64

/-- A written element of a SCATTER overlaps the source range. -/
def Desc.scatterHits (d : Desc) : Bool :=
  let es := d.argA % 2 ^ 32
  let st := d.argA / 2 ^ 32
  let n := d.length / es
  -- the elements that could reach the source range
  let lo := (d.source - d.dest) / st
  let hi := (d.source + d.length - d.dest) / st
  (List.range (hi + 2 - (lo - 1))).any fun k =>
    let i := lo - 1 + k
    decide (i < n) && overlap (d.dest + i * st) es d.source d.length

/-- The fields of a descriptor are within their ranges (R255, R275, R290). -/
def Desc.valid (d : Desc) : Bool :=
  !d.reserved && decide (1 ≤ d.length) &&
  match d.op with
  | 1 => d.argA == 0 && d.argB == 0 && !overlap d.source d.length d.dest d.length
  | 2 =>
    let es := d.argA % 2 ^ 32
    let st := d.argA / 2 ^ 32
    d.argB == 0 && decide (1 ≤ es ∧ es ≤ 65536 ∧ es ≤ st) && decide (d.length % es = 0) && !d.scatterHits
  | 3 => d.argB == 0 && decide (d.dest % 8 = 0 ∧ d.length % 8 = 0)
  | 4 => d.argB == 0 && decide (d.argA < 2 ^ 18 ∧ d.length % 8 = 0)
  | 5 =>
    let b := d.argA / 2 ^ 32
    decide (bits d.argA 31 3 = 0) && decide (b = 0 ∨ (4096 ≤ b ∧ b ≤ 0xFFFFFFF8 ∧ b % 8 = 0)) &&
    (if bitAt d.argA 2 then decide (d.dest % 8 = 0 ∧ 1 ≤ d.argB ∧ d.argB ≤ 16)
     else decide (24 ≤ d.argB ∧ d.argB < 2 ^ 32 ∧ d.argB % 8 = 0))
  | 6 => d.argB == 0 && decide (d.argA < 2 ^ 32)
  | _ => false

/-! ## Bulk records of SEND (R289, R290) -/

/-- Bytes in the bulk queue. -/
def Conc.bulkQueueUse (c : Conc) : Nat :=
  c.egr.bulk.foldl (fun n b => n + 8 * (b.words.filter fun w => bitAt w.2 2).length) 0
    + c.mov.chans.foldl (fun n m => n + m.2.part.length) 0

def Conc.updBulk (c : Conc) (n : Nat) (f : BulkRec → BulkRec) : Conc :=
  { c with egr := { c.egr with bulk := c.egr.bulk.map fun b => if b.number = n then f b else b } }

/-- A SEND begins, or goes on in a new bulk record: it opens with the headers, for the bytes that are not done. -/
def Conc.openSend (c : Conc) (ch : Nat) (d : Desc) : Conc :=
  let n := c.egr.bulkNumber
  let len := (d.length - (c.mover ch).bytesDone + 7) / 8
  let hs := bulkHeaders 3 ch n (d.argA % 65536) len (bitAt d.argA 17) false (!bitAt d.argA 16)
  let b : BulkRec := { number := n, words := hs, open? := true, len := len }
  let c := { c with egr := { c.egr with bulk := c.egr.bulk ++ [b], bulkNumber := (n + 1) % 2 ^ 40 } }
  c.setMover ch { c.mover ch with bulk := some n, part := [], sent := 0, crc := 0xFFFFFFFF }

/-- A bulk record whose headers have not begun to leave takes the poisoned flag. (DEDUCED, log entry 24) -/
def BulkRec.flagPoison (b : BulkRec) : BulkRec :=
  if b.taken then b
  else match b.words with
    | (w, m) :: rest => { b with words := (w ||| BitVec.ofNat 64 (2 ^ 58), m) :: rest }
    | [] => b

/-- Whole words from bytes, with what is left; a word with a poisoned byte is poisoned. -/
def wholeWords : Nat → List (Nat × Bool) → List (Word × Bool) × List (Nat × Bool)
  | 0, bs => ([], bs)
  | n + 1, bs =>
    if bs.length < 8 then ([], bs)
    else
      let r := wholeWords n (bs.drop 8)
      ((BitVec.ofNat 64 (ofBytes ((bs.take 8).map Prod.fst)), (bs.take 8).any Prod.snd) :: r.1, r.2)

/-- Bytes of a SEND enter the bulk queue, each with its poison (R249). -/
def Conc.sendBytes (c : Conc) (ch : Nat) (compressed : Bool) (bs : List (Nat × Bool)) : Conc :=
  let m := c.mover ch
  let r := wholeWords 10 (m.part ++ bs)
  let ws := r.1.map fun w => (w.1, 4 + b1 compressed + 2 * b1 w.2)
  let c := c.setMover ch { m with part := r.2, sent := m.sent + bs.length, crc := (bs.map Prod.fst).foldl crcByte m.crc }
  match m.bulk with
  | some n => c.updBulk n fun b =>
      let b := if bs.any Prod.snd then b.flagPoison else b
      { b with words := b.words ++ ws }
  | none => c

/-- The bulk record of a SEND ends; one that was cut short is filled with zero
words to the length its header gives, which take no space in the queue. (DEDUCED, log entry 24) -/
def Conc.closeSend (c : Conc) (ch : Nat) : Conc :=
  let m := c.mover ch
  match m.bulk.bind fun n => c.egr.bulk.find? fun b => b.number = n with
  | none => c.setMover ch { m with bulk := none, part := [], sent := 0 }
  | some b =>
    let left := 8 * b.len - m.sent
    let pad := List.replicate left (0, false)
    let r := wholeWords (left / 8 + 1) (m.part ++ pad)
    let crc := (pad.map Prod.fst).foldl crcByte m.crc
    (c.updBulk b.number fun b =>
      { b with words := b.words ++ r.1.map (fun w => (w.1, 2 * b1 w.2)) ++ bulkTrailer (crc ^^^ 0xFFFFFFFF), open? := false }).setMover ch
      { m with bulk := none, part := [], sent := 0 }

/-- A SEND goes on with another length (R260): a header that has not begun to leave takes it; else the bulk record ends at the length
it gives, and the rest goes into a further one. (DEDUCED, log entry 24) -/
def Conc.resizeSend (c : Conc) (ch : Nat) (d : Desc) : Conc :=
  let m := c.mover ch
  match m.bulk.bind fun n => c.egr.bulk.find? fun b => b.number = n with
  | none => c
  | some b =>
    let n := (d.length - m.bytesDone + m.sent + 7) / 8
    if b.len = n then c
    else if b.taken then (c.closeSend ch).openSend ch d
    else c.updBulk b.number fun b =>
      { b with len := n, words := match b.words with
        | h :: (w, k) :: rest => h :: (BitVec.ofNat 64 (w.toNat / 2 ^ 32 * 2 ^ 32 + n % 2 ^ 32), k) :: rest
        | ws => ws }

/-! ## Ends, halts and completions (R257, R259) -/

/-- The descriptor's result bytes (48-63) as written at a halt or an end. -/
def Conc.writeResult (c : Conc) (ch : Nat) (code result : Nat) : Option Conc :=
  let m := c.mover ch
  match c.moverSpace ch with
  | none => none
  | some x =>
    let vas := addrs (m.slotVa + 48) 16
    match x.firstFault .w vas with
    | some _ => none
    | none =>
      let v := m.bytesDone % 2 ^ 32 + code % 2 ^ 16 * 2 ^ 32 + result % 2 ^ 64 * 2 ^ 64
      some (c.writeAt none ((x.phys .w vas).zip ((toBytes 16 v).map fun b => (b, false))))

/-- The channel halts (R259). (DEDUCED, log entry 26) -/
def Conc.moverHalt (c : Conc) (ch code addr : Nat) : Conc :=
  let c := c.setMover ch { c.mover ch with state := 2, code := code, faultAddr := addr }
  let c := match c.writeResult ch code addr with | some d => d | none => c
  c.count (if code = haltPage then O.moverPageFaults else if code = haltAccess then O.moverAccessFaults else O.poisonPropagated)

/-- The current descriptor ends with a code and a result; its completion is still to be written. (DEDUCED, log entry 26) -/
def Conc.moverEnd (c : Conc) (ch code result : Nat) : Conc :=
  let m := c.mover ch
  let c := if m.cur.isSome ∧ m.bulk.isSome then c.closeSend ch else c
  let m := c.mover ch
  let c := c.setMover ch { m with ended := some (code, result), job := none }
  let c := if code = 0x07 then c.count O.invalidDescriptors else c
  if code = 0x02 then c.count O.poisonPropagated else c

/-- DESCRIPTOR_COMPLETE: bytes done, code and result are written and `Head` and `Completed` advance (R257).
(DEDUCED, log entry 26) -/
def Conc.descriptorComplete (c : Conc) (ch : Nat) : Conc :=
  let m := c.mover ch
  match m.ended with
  | none => c
  | some (code, result) =>
    match c.writeResult ch code result with
    | none => if m.state = 3 then c.setMover ch { m with ended := none, cur := none } else (c.moverHalt ch haltPage (m.slotVa + 48))
    | some c =>
      let head := (m.head + 1) % 65536
      let st := if m.state = 3 then 3 else if head = m.tail then 0 else 1
      c.setMover ch { m with head := head, completed := (m.completed + 1) % 2 ^ 64, cur := none, ended := none, state := st,
                             bytesDone := 0, poisonSeen := false, code := 0, faultAddr := 0 }

/-! ## Marver jobs (R266-R277) -/

def Conc.setJob (c : Conc) (ch : Nat) (j : MarvJob) : Conc := c.setMover ch { c.mover ch with job := some j }

/-- Unit `u` holds a job, or a block of a record (R278). -/
def Conc.unitHeld (c : Conc) (u : Nat) : Bool :=
  (c.mov.chans.any fun m => match m.2.job with
    | some j => j.unit = some u
    | none => false)
  || c.caro.extracting.any fun y => y.2.any fun x => x.units.any fun v => v.1 = u

/-- Unit `u` is free and in service. (DEDUCED, log entry 25) -/
def Conc.unitFree (c : Conc) (u : Nat) : Bool :=
  decide ((c.health 0x05 u).st = .healthy) && !c.unitHeld u

/-- Channels with a job that waits for a unit. -/
def Conc.waitingJobs (c : Conc) : List (Nat × Nat) :=
  c.mov.chans.filterMap fun m => match m.2.job with
    | some j => if j.unit.isNone ∧ m.2.state = 1 then some (m.1, j.waitSince) else none
    | none => none

/-- The extractions on Carousel channels that wait for a unit: they go before every other descriptor (R267). -/
def Conc.waitingExtractions (c : Conc) : Nat :=
  (c.caro.extracting.filter fun y => y.2.any fun x => x.waits).length

/-- The channel's job gets a unit when one is free, no extraction waits and no job has waited longer (R267).
(DEDUCED, log entry 25) -/
def Conc.takeUnit (c : Conc) (ch : Nat) (j : MarvJob) : Option MarvJob :=
  if j.unit.isSome then some j
  else if 0 < c.waitingExtractions then none
  else if c.waitingJobs.any fun w => w.1 ≠ ch && (decide (w.2 < j.waitSince) || (w.2 == j.waitSince && decide (w.1 < ch))) then none
  else ((List.range 8).find? fun u => c.unitFree u).map fun u =>
    { j with unit := some u, yields := some (j.yields.getD (c.get O.unitYield == 1)) }

/-- The channel's job gets a unit when it starts, where it can (R267). -/
def Conc.giveUnit (c : Conc) (ch : Nat) : Conc :=
  match (c.mover ch).job with
  | some j => if (c.mover ch).state ≠ 1 then c else match c.takeUnit ch j with
    | some j => c.setMover ch { c.mover ch with job := some j }
    | none => c
  | none => c

/-- Units that have come free go to the jobs that wait, the one that has waited longest first (R267). -/
def Conc.giveUnits (c : Conc) : Conc :=
  (List.range 8).foldl (fun c _ => c.waitingJobs.foldl (fun c w => c.giveUnit w.1) c) c

/-- The stream context a job starts from (R271, R272), its input from the bytes done on (R260). -/
def Conc.startJob (c : Conc) (ch : Nat) (d : Desc) (chain : List (Nat × Nat)) : MarvJob :=
  let s := 2 * ch + b1 (bitAt d.argA 0)
  let x := Bank.get {} c.mov.streams s
  let done := (c.mover ch).bytesDone
  if bitAt d.argA 1 ∧ x.valid then
    { stream := s, coder := { dict := x.dict, n := x.n, dn := x.n }, block := x.next, history := true, chain := chain,
      consumed := done, waitSince := c.tick }
  else { stream := s, chain := chain, consumed := done, waitSince := c.tick }

/-- How coding goes on: more input, an end with code and result, or a destination that fails to translate. -/
inductive Coding where
  | more
  | stop (code result : Nat)
  | fault (code addr : Nat)
  deriving DecidableEq, Repr

/-- The virtual address of output word `p` in the buffers. -/
def placeOf : List (Nat × Nat) → Nat → Option Nat
  | [], _ => none
  | (a, n) :: rest, p => if 8 * p < n then some ((a + 8 * p) % 2 ^ 64) else placeOf rest (p - n / 8)

/-- Write output words, each at its place, `written` words having been written before (R276, R277). -/
def Conc.putWords (c : Conc) (x : Space) (j : MarvJob) (len : Nat) : Nat → List (Nat × Word) → Coding × Conc
  | _, [] => (.more, c)
  | written, (p, w) :: rest =>
    let full := decide (len ≤ 8 * (written + 1))
    match placeOf j.chain p with
    | none => (if full then .stop 0x11 j.consumed else .stop 0x12 0, c)
    | some va =>
      let vas := addrs va 8
      match x.firstFault .w vas with
      | some (code, a) => (.fault code a, c)
      | none =>
        let c := c.writeAt none ((x.phys .w vas).zip ((wordBytes w).map fun b => (b, false)))
        if full then (.stop 0x11 j.consumed, c) else Conc.putWords c x j len (written + 1) rest

/-- Input bytes left in the job's block. -/
def MarvJob.left (j : MarvJob) (d : Desc) : Nat :=
  let b := d.argA / 2 ^ 32
  let all := d.length - j.consumed
  if b = 0 then all else min (b - j.inBlock) all

/-- Code one symbol of `n` bytes, and write the code words that are complete. -/
def Conc.codeSymbol (c : Conc) (x : Space) (d : Desc) (j : MarvJob) (n : Nat) : Coding × Conc × MarvJob :=
  let bs := j.pend.take n
  let j := { j with coder := j.coder.input (bs.map Prod.fst), pend := j.pend.drop n, consumed := j.consumed + n,
                    inBlock := j.inBlock + n, poisoned := j.poisoned || bs.any Prod.snd }
  let full := j.coder.nbits / 64
  let ws := (List.range (full - j.blockWords)).map fun k =>
    let i := j.blockWords + k
    (j.outWords + 2 + i, BitVec.ofNat 64 (j.coder.acc / 2 ^ (64 * i) % 2 ^ 64))
  let r := c.putWords x j d.length (j.outWords + j.blockWords) ws
  (r.1, r.2, { j with blockWords := full })

/-- The flush of a block: header words, then the code words still held (R276). -/
def Conc.flushBlock (c : Conc) (x : Space) (d : Desc) (j : MarvJob) : Coding × Conc × MarvJob :=
  let e := j.coder.flush
  let ws := e.block j.stream j.block j.history j.poisoned
  let o := j.outWords
  let head := (ws.take 2).zipIdx.map fun w => (o + w.2, w.1)
  let tail := (ws.drop (2 + j.blockWords)).zipIdx.map fun w => (o + 2 + j.blockWords + w.2, w.1)
  let r := c.putWords x j d.length (o + j.blockWords) (head ++ tail)
  let k := { j with coder := e.nextBlock, outWords := o + ws.length, blockWords := 0, block := (j.block + 1) % 65536,
                    history := true, anyPoison := j.anyPoison || j.poisoned, poisoned := false, inBlock := 0, flush := false }
  match r.1 with
  | .more =>
    if d.length ≤ k.consumed then (.stop (if k.anyPoison then 0x02 else 0x01) (8 * k.outWords), r.2, k) else (.more, r.2, k)
  | q => (q, r.2, k)

/-- Code what has been read.  At the end of a block the rest of the beat waits for the flush (R267, R272). -/
def Conc.codeInput (c : Conc) (x : Space) (d : Desc) : Nat → MarvJob → Coding × Conc × MarvJob
  | 0, j => (.more, c, j)
  | fuel + 1, j =>
    let left := j.left d
    if left = 0 then (.more, c, { j with flush := true })
    else
      let n := min 2 left
      if j.pend.length < n then (.more, c, j)
      else
        let r := c.codeSymbol x d j n
        match r.1 with
        | .more => Conc.codeInput r.2.1 x d fuel r.2.2
        | _ => r

/-- A job ends with a Marver outcome: its counters, and the stream context when it is kept (R272, R277, R280). -/
def Conc.jobEnd (c : Conc) (ch : Nat) (j : MarvJob) (code result : Nat) : Conc :=
  let c := c.count O.jobs
  let c :=
    if code ≤ 2 then
      let x : StreamCtx := { valid := true, dict := j.coder.dict, n := j.coder.n, next := j.block }
      { c.count O.outputBytes 0 result with mov := { c.mov with streams := Bank.set {} c.mov.streams j.stream x } }
    else if code = 0x11 then c.count O.noGain
    else if code = 0x12 then c.count O.overflows
    else c.count O.unitFaults
  c.moverEnd ch code result

/-- What coding led to becomes the channel's state. -/
def Conc.jobOutcome (c : Conc) (ch : Nat) (before after : MarvJob) (done : Nat) (q : Coding) : Conc :=
  match q with
  | .more =>
    let c := c.count O.inputBytes 0 (after.consumed - before.consumed)
    c.setMover ch { c.mover ch with job := some after, bytesDone := done }
  | .stop code result =>
    let c := c.count O.inputBytes 0 (after.consumed - before.consumed)
    (c.setMover ch { c.mover ch with bytesDone := done }).jobEnd ch after code result
  | .fault code addr => (c.setJob ch { before with unit := none }).moverHalt ch code addr

/-- MARVER_BLOCK_FLUSH on a channel; with `UnitYield` a job that still has input gives its unit up to one that waits. -/
def Conc.marverFlush (c : Conc) (ch : Nat) : Conc :=
  let c := c.giveUnits
  let m := c.mover ch
  match m.cur, m.job, c.moverSpace ch with
  | some d, some j, some sp =>
    if m.state ≠ 1 ∨ m.ended.isSome ∨ j.flush = false then c
    else match c.takeUnit ch j with
      | none => c
      | some j =>
        let r := c.flushBlock sp d j
        let c := r.2.1.jobOutcome ch j r.2.2 m.bytesDone r.1
        if r.1 = .more ∧ j.yields = some true ∧ (c.waitingJobs ≠ [] ∨ 0 < c.waitingExtractions) then
          ((c.count O.yields).setJob ch { r.2.2 with unit := none, waitSince := c.tick }).giveUnits
        else c
  | _, _, _ => c

/-- An uncorrectable error in the dictionary of Marver unit `u`: the job it holds ends UNIT_FAULT (R277),
and a block of a record that it holds is given to a unit anew.
(DEDUCED, log entry 25) -/
def Conc.marverFault (c : Conc) (u : Nat) : Conc :=
  let c := c.faultEvent 0x05 u 0x0C true
  let again (x : Extraction) : Extraction :=
    if x.units.any (fun v => v.1 = u) then { x with units := x.units.filter (fun v => v.1 ≠ u), blocks := x.blocks - 1 } else x
  let c := { c with caro := { c.caro with extracting := Bank.mapVals none (fun _ o => o.map again) c.caro.extracting } }
  match List.find? (fun m => match m.2.job with | some j => j.unit = some u | none => false) c.mov.chans with
  | some (ch, m) => match m.job with
    | some j => c.jobEnd ch j 0x13 0
    | none => c
  | none => c

/-! ## Beats (R256) -/

/-- The bytes of the next beat: cut at the 64-byte boundaries of the source, or of the destination of a FILL. -/
def Desc.beat (d : Desc) (done : Nat) : Nat :=
  let a := if d.op = 3 then d.dest + done else d.source + done
  min (64 - a % 64) (d.length - done)

/-- All bytes are done. -/
def Conc.moverDone (c : Conc) (ch : Nat) : Conc :=
  let m := c.mover ch
  match m.cur with
  | some d =>
    if m.bytesDone < d.length ∨ d.op = 5 then c
    else c.moverEnd ch (if m.poisonSeen then 0x02 else 0x01) (if d.op = 6 then m.crc ^^^ 0xFFFFFFFF else 0)
  | none => c

/-- One beat of the current descriptor. -/
def Conc.moverBeat (c : Conc) (ch : Nat) : Conc :=
  let m := c.mover ch
  match m.cur, c.moverSpace ch with
  | some d, some x =>
    if m.state ≠ 1 ∨ m.ended.isSome then c
    else
      let done := m.bytesDone
      let n := d.beat done
      let src := if d.op = 3 then [] else addrs (d.source + done) n
      let dst := if d.op ≤ 3 then (List.range n).map fun k => d.destOf (done + k) else []
      match x.firstFault .r src with
      | some (code, a) => (match m.job with | some j => c.setJob ch { j with unit := none } | none => c).moverHalt ch code a
      | none =>
        match x.firstFault .w dst with
        | some (code, a) => c.moverHalt ch code a
        | none =>
          let ps := x.phys .r src
          let pd := x.phys .w dst
          match c.asleepAt (ps ++ pd) with
          | some k => c.wakeCluster k
          | none =>
            if d.op = 4 ∧ 65536 < c.bulkQueueUse + n then c
            else
              let r := c.readAt ps
              let c := r.2
              let poison := r.1.any Prod.snd
              if poison ∧ d.stopPoison then
                let k := List.find? (fun (y : (Nat × Bool) × Nat) => y.1.2) (r.1.zip src)
                (match m.job with | some j => c.setJob ch { j with unit := none } | none => c).moverHalt ch haltPoison
                  (match k with | some y => y.2 / 32 * 32 | none => 0)
              else
                let next (c : Conc) : Conc :=
                  let m := c.mover ch
                  (c.setMover ch { m with bytesDone := done + n, poisonSeen := m.poisonSeen || poison }).moverDone ch
                match d.op with
                | 3 => next (c.writeAt none (pd.zip ((List.range n).map fun k =>
                    (d.argA / 2 ^ (8 * ((done + k) % 8)) % 256, false))))
                | 4 => next (c.sendBytes ch (bitAt d.argA 17) r.1)
                | 5 =>
                  match m.job with
                  | some j =>
                    let q := c.codeInput x d 80 { j with pend := j.pend ++ r.1 }
                    q.2.1.jobOutcome ch j q.2.2 (done + n) q.1
                  | none => c
                | 6 => next (c.setMover ch { m with crc := (r.1.map Prod.fst).foldl crcByte m.crc })
                | _ => next (c.writeAt none (pd.zip r.1))
  | _, _ => c

/-! ## Starting a descriptor (R253-R255) -/

/-- The chain list of a COMPRESS (R275): the buffers, or what stops it. -/
def Conc.readChain (c : Conc) (x : Space) (d : Desc) : Coding × List (Nat × Nat) × Conc :=
  if bitAt d.argA 2 = false then (.more, [(d.dest, d.argB)], c)
  else
    let vas := addrs d.dest (16 * d.argB)
    match x.firstFault .r vas with
    | some (code, a) => (.fault code a, [], c)
    | none =>
      let r := c.readAt (x.phys .r vas)
      let v := ofBytes (r.1.map Prod.fst)
      let es := (List.range d.argB).map fun k => (bits v (128 * k + 63) (128 * k), bits v (128 * k + 127) (128 * k + 64))
      let ok := es.all fun e => decide (e.1 % 8 = 0 ∧ e.2 % 8 = 0 ∧ 8 ≤ e.2 ∧ e.2 < 2 ^ 32)
      (if ok then .more else .stop 0x07 0, es, r.2)

/-- Read the descriptor at `Head`: none when its ring page fails. (DEDUCED, log entry 26) -/
def Conc.readDesc (c : Conc) (ch : Nat) (x : Space) : Option Desc × Conc :=
  let vas := addrs (c.mover ch).slotVa 64
  match x.firstFault .r vas with
  | some (code, _) => (none, c.moverHalt ch code (c.mover ch).slotVa)
  | none =>
    let r := c.readAt (x.phys .r vas)
    (some (descOf (ofBytes (r.1.map Prod.fst))), r.2)

/-- The next descriptor starts when its operation is `op`, or when it has none of the operations. -/
def Conc.moverStart (c : Conc) (ch op : Nat) : Conc :=
  let m := c.mover ch
  match c.moverSpace ch with
  | none => c
  | some x =>
    if m.state ≠ 1 ∨ m.cur.isSome ∨ m.ended.isSome then c
    else
      let r := (c.setMover ch { m with bytesDone := 0, poisonSeen := false, code := 0, faultAddr := 0 }).readDesc ch x
      match r.1 with
      | none => r.2
      | some d =>
        if d.op ≠ op ∧ 1 ≤ d.op ∧ d.op ≤ 6 then c
        else if d.valid = false then (r.2.setMover ch { r.2.mover ch with cur := some d }).moverEnd ch 0x07 0
        else
          let c := r.2.setMover ch { r.2.mover ch with cur := some d, crc := if d.op = 6 then d.argA else 0xFFFFFFFF }
          match d.op with
          | 4 => c.openSend ch d
          | 5 =>
            let q := c.readChain x d
            match q.1 with
            | .more => (q.2.2.setJob ch (q.2.2.startJob ch d q.2.1)).giveUnit ch
            | .stop code res => q.2.2.moverEnd ch code res
            | .fault code a => q.2.2.moverHalt ch code a
          | _ => c

/-- Up to `n` beats. -/
def Conc.moverBeats (ch : Nat) : Nat → Conc → Conc
  | 0, c => c
  | n + 1, c =>
    let m := c.mover ch
    match m.cur with
    | some d =>
      if d.op = 5 then
        match m.job with
        | some j =>
          if j.flush ∨ m.state ≠ 1 ∨ m.ended.isSome then c
          else match c.takeUnit ch j with
            | some j => Conc.moverBeats ch n ((c.setJob ch j).moverBeat ch)
            | none => c
        | none => c
      else Conc.moverBeats ch n (c.moverBeat ch)
    | none => c

/-- A MOVER_ command of one operation: the descriptor starts, or goes on, for up to `beats` beats. -/
def Conc.moverRun (c : Conc) (ch op beats : Nat) : Conc :=
  let c := c.moverStart ch op
  match (c.mover ch).cur with
  | some d => if d.op = op then Conc.moverBeats ch beats c else c
  | none => c

/-! ## Channel registers (R252, R253, R260) -/

/-- MOVER_TAIL_WRITE. -/
def Conc.moverTail (c : Conc) (ch v : Nat) : Conc :=
  let m := c.mover ch
  let t := v % 65536
  if m.entries < (t + 65536 - m.head) % 65536 then (c.setMover ch { m with tailRefused := true }).count O.tailRefused
  else c.setMover ch { m with tail := t, state := if m.state = 0 ∧ t ≠ m.head then 1 else if m.state = 1 ∧ t = m.head ∧ m.cur.isNone then 0 else m.state }

/-- MOVER_RESUME: a halted channel re-reads its descriptor and continues at bytes done.  A COMPRESS whose new Length is bytes
done still flushes its block, and completes with its output bytes. (DEDUCED, log entry 26) -/
def Conc.moverResume (c : Conc) (ch : Nat) : Conc :=
  let m := c.mover ch
  match c.moverSpace ch with
  | none => c
  | some x =>
    if m.state ≠ 2 then c
    else if m.ended.isSome then c.setMover ch { m with state := 1 }
    else
      let r := c.readDesc ch x
      match r.1 with
      | none => r.2
      | some d =>
        let old := m.cur
        let c := r.2.setMover ch { r.2.mover ch with state := 1, code := 0, faultAddr := 0 }
        -- a SEND that becomes another operation ends its bulk record
        let c := match old with
          | some o => if o.op = 4 ∧ d.op ≠ 4 then c.closeSend ch else c
          | none => c
        let fresh : Bool := match old with | some o => decide (o.op ≠ d.op) | none => true
        let c := c.setMover ch { c.mover ch with cur := some d, job := if d.op = 5 then (c.mover ch).job else none }
        let flushing : Bool := match m.job with | some j => j.flush | none => false
        if d.valid = false ∨ d.length < m.bytesDone then c.moverEnd ch 0x07 0
        else if d.length = m.bytesDone ∧ flushing = false ∧ (c.mover ch).job.isNone then
          c.moverEnd ch (if m.poisonSeen then 0x02 else 0x01) (if d.op = 6 then m.crc ^^^ 0xFFFFFFFF else 0)
        else
          let c := if fresh ∧ d.op = 6 then c.setMover ch { c.mover ch with crc := d.argA } else c
          let c := if d.op ≠ 4 then c else if (c.mover ch).bulk.isNone then c.openSend ch d else c.resizeSend ch d
          if d.op = 5 then
            let q := c.readChain x d
            match q.1 with
            | .more =>
              match (q.2.2.mover ch).job with
              | some j =>
                -- cut to the bytes done at a block's end: the output stands, nothing is left to flush
                if d.length = m.bytesDone ∧ j.pend = [] ∧ j.inBlock = 0 ∧ j.flush = false then
                  q.2.2.jobEnd ch j (if j.anyPoison then 0x02 else 0x01) (8 * j.outWords)
                else (q.2.2.setJob ch { j with chain := q.2.1, waitSince := c.tick }).giveUnit ch
              | none => (q.2.2.setJob ch (q.2.2.startJob ch d q.2.1)).giveUnit ch
            | .stop code res => q.2.2.moverEnd ch code res
            | .fault code a => q.2.2.moverHalt ch code a
          else c

/-- MOVER_ABORT: the halted or running descriptor ends as ABORTED (R260). (DEDUCED, log entry 26) -/
def Conc.moverAbort (c : Conc) (ch : Nat) : Conc :=
  let m := c.mover ch
  if m.state = 2 then (c.setMover ch { m with state := 1 }).moverEnd ch 0x06 m.faultAddr
  else if m.state = 1 ∧ m.ended.isNone then c.moverEnd ch 0x06 0
  else c

/-- `ChannelStatus`. -/
def Mover.status (m : Mover) : Nat :=
  m.state + (if m.state = 2 then m.code else 0) * 2 ^ 8 + b1 m.tailRefused * 2 ^ 16 + b1 m.cfgRefused * 2 ^ 17

/-- A load of a channel's register page; reading `ChannelStatus` clears bits 17 and 16. -/
def Conc.moverLoad (c : Conc) (ch off : Nat) : Nat × Conc :=
  let m := c.mover ch
  match off with
  | 0x000 => (m.base, c)
  | 0x008 => (m.entries, c)
  | 0x010 => (m.tail, c)
  | 0x018 => (m.head, c)
  | 0x028 => (m.status, c.setMover ch { m with tailRefused := false, cfgRefused := false })
  | 0x030 => (m.bytesDone, c)
  | 0x038 => (m.faultAddr, c)
  | 0x040 => (m.completed, c)
  | _ => (0, c)

/-- A store to a channel's register page. -/
def Conc.moverStore (c : Conc) (ch off v : Nat) : Conc :=
  let m := c.mover ch
  match off with
  | 0x000 => if m.head = m.tail then c.setMover ch { m with base := v / 4096 * 4096 } else c.setMover ch { m with cfgRefused := true }
  | 0x008 =>
    if m.head ≠ m.tail ∨ v = 0 ∨ 64 < v then c.setMover ch { m with cfgRefused := true }
    else c.setMover ch { m with entries := v }
  | 0x010 => c.moverTail ch v
  | 0x020 => if v = 1 then c.moverResume ch else if v = 2 then c.moverAbort ch else c
  | _ => c

/-- A cluster move pauses a running channel whose descriptor touches a range that moves (R263). -/
def Conc.pauseMovers (c : Conc) (src len : Nat) : Conc :=
  (List.range 28).foldl (fun c ch =>
    let m := c.mover ch
    let hit (table : List Leaf) (lo n : Nat) : Bool := table.any fun l =>
      overlap l.pa l.size src len && overlap l.va l.size lo n
    match m.cur, c.moverSpace ch with
    | some d, some (.task table) =>
      let chained := d.op == 5 && bitAt d.argA 2
      let out := if d.op = 2 then d.length / max 1 (d.argA % 2 ^ 32) * (d.argA / 2 ^ 32)
        else if chained then 16 * d.argB else if d.op = 5 then d.argB else d.length
      let buffers : List (Nat × Nat) := match m.job with | some j => j.chain | none => []
      if m.state = 1 ∧ ((d.op ≠ 3 && hit table d.source d.length) || (d.op ≠ 4 && d.op ≠ 6 && hit table d.dest out)
          || buffers.any fun b => hit table b.1 b.2) then
        c.setMover ch { m with state := 4 }
      else c
    | _, _ => c) c

/-- The paused channels continue, in the base tick after the move. (DESIGN CHOICE, log entry 52) -/
def Conc.continueMovers (c : Conc) : Conc :=
  if c.mov.chans.any fun m => m.2.state = 4 then
    { c with mov := { c.mov with chans := c.mov.chans.map fun m => if m.2.state = 4 then (m.1, { m.2 with state := 1 }) else m } }
  else c

/-- A channel of a killed or exiting instance drains (R262). -/
def Conc.moverDrain (c : Conc) (ch : Nat) : Conc :=
  let m := c.mover ch
  let c := c.count O.drains
  let busy := m.cur.isSome || decide (m.state = 1 ∨ m.state = 2)
  let c := c.setMover ch { m with state := 3 }
  if busy ∧ m.ended.isNone then c.moverEnd ch 0x08 0 else c

/-- A drained channel is freed: both its stream contexts become invalid (R271, R279). -/
def Conc.moverFree (c : Conc) (ch : Nat) : Conc :=
  let s := Bank.set {} (Bank.set {} c.mov.streams (2 * ch) {}) (2 * ch + 1) {}
  { c with mov := { c.mov with chans := Bank.set {} c.mov.chans ch {}, streams := s } }

/-! ## Status objects (R265, R280) -/

/-- `MoverOwner`. -/
def Conc.moverOwners (c : Conc) : Nat :=
  (List.range 32).foldl (fun v k => v + (if k < 28 then (c.mover k).owner else 0xFFFD) * 2 ^ (16 * k)) 0

/-- `MoverStatus`: a Carousel channel runs while it extracts. (DESIGN CHOICE, log entry 52) -/
def Conc.moverStatuses (c : Conc) : Nat :=
  (List.range 32).foldl (fun v k =>
    let m := if (Bank.get none c.caro.extracting k).isSome then { c.mover k with state := 1 } else c.mover k
    v + (m.status % 2 ^ 16 + m.bytesDone % 2 ^ 32 * 2 ^ 64 + m.faultAddr % 2 ^ 64 * 2 ^ 128) * 2 ^ (192 * k)) 0

/-- `UnitBusy`. -/
def Conc.unitBusy (c : Conc) : Nat :=
  (List.range 8).foldl (fun v u => v + b1 (c.unitHeld u) * 2 ^ u) 0

/-- `MarverContexts`. -/
def Conc.marverContexts (c : Conc) : Nat :=
  (List.range 64).foldl (fun v s =>
    let x := Bank.get {} c.mov.streams s
    let m := c.mover (s / 2)
    let held := match m.job with | some j => j.unit.isNone && decide (m.state = 2 ∨ 0 < j.consumed) | none => false
    v + (b1 x.valid + 2 * b1 held + x.next * 2 ^ 16 + (x.n - 65538) * 2 ^ 32) * 2 ^ (64 * s)) 0

end Sys2Proof.Machine
end

