-- ==== Sys2Proof/Machine/ConcRing.lean ====
section
/-! DEFINITION. Merge time (R175) and the Carousel's ring: buckets, head and tail, main-stream words, late runs and the late
directory (R192-R195). -/

namespace Sys2Proof.Machine

/-! ## Merge keys (R175) -/

def keySecond (k : Nat) : Nat := k / 2 ^ 40
def keyFine (k : Nat) : Nat := k % 2 ^ 40
def mergeKey (s f : Nat) : Nat := s * 2 ^ 40 + f % 2 ^ 40

/-- The length of a second in fine ticks, from its base increment. -/
def fineLen (inc : Nat) : Nat := if inc = 0 then 0 else (roundDiv (2 ^ 45 * 1000000000 : Nat) inc).toNat

/-- F_S; for a second that has not begun, from the increment that would apply. -/
def Conc.lenOf (c : Conc) (s : Nat) : Nat :=
  match Bank.find? c.gather.secs s with
  | some x => fineLen x.2
  | none => fineLen (c.get O.incrementBase)

/-- The key of f fine ticks after the start of second `s`, across one second boundary. -/
def Conc.norm (c : Conc) (s : Nat) (f : Int) : Nat :=
  if f < 0 then
    if s = 0 then 0 else mergeKey (s - 1) (f + c.lenOf (s - 1)).toNat
  else if (c.lenOf s : Int) ≤ f then mergeKey (s + 1) (f - c.lenOf s).toNat
  else mergeKey s f.toNat

/-- A key moved by fine ticks. -/
def Conc.keyAdd (c : Conc) (k : Nat) (d : Int) : Nat := c.norm (keySecond k) (keyFine k + d)

/-- The fine ticks of the whole seconds from `s`, `n` of them. -/
def Conc.lens (c : Conc) (s : Nat) : Nat → Nat
  | 0 => 0
  | n + 1 => c.lenOf s + c.lens (s + 1) n

/-- The fine ticks from key `a` to key `b`; of distances beyond the kept seconds only those seconds are summed. -/
def Conc.span (c : Conc) (a b : Nat) : Int :=
  if keySecond a = keySecond b then (keyFine b : Int) - keyFine a
  else if keySecond a < keySecond b then
    (c.lens (keySecond a) (min (keySecond b - keySecond a) keptSeconds) : Int) - keyFine a + keyFine b
  else (keyFine b : Int) - c.lens (keySecond b) (min (keySecond a - keySecond b) keptSeconds) - keyFine a

/-- The merge time of the counter's present value, to the nearest fine tick (R505). -/
def Conc.counterKey (c : Conc) : Nat :=
  let v := c.time.value
  mergeKey v.1 (nearest (v.2 * 8192) c.time.incBase)

/-! ## Buckets (R192) -/

def bucketLen : Nat := 12288000

def bucketOf (k : Nat) : Nat := mergeKey (keySecond k) (keyFine k / bucketLen * bucketLen)

/-- A sub-slot of a bucket: 1 µs (R192). -/
def subSlotLen : Nat := 768000

/-- The number in its bucket of the sub-slot in which a key lies, and the key at which it starts. -/
def subSlot (k : Nat) : Nat := keyFine k % bucketLen / subSlotLen
def subSlotOf (k : Nat) : Nat := mergeKey (keySecond k) (keyFine k / subSlotLen * subSlotLen)

/-- Buckets of a second. -/
def Conc.bucketsIn (c : Conc) (s : Nat) : Nat := (c.lenOf s + bucketLen - 1) / bucketLen

/-- The start of the bucket after the bucket that starts at `k`. -/
def Conc.bucketNext (c : Conc) (k : Nat) : Nat :=
  if keyFine k + bucketLen < c.lenOf (keySecond k) then k + bucketLen else mergeKey (keySecond k + 1) 0

/-- The start of the sub-slot after the one that starts at `k`. -/
def Conc.subSlotNext (c : Conc) (k : Nat) : Nat :=
  if keyFine k + subSlotLen < c.lenOf (keySecond k) then k + subSlotLen else mergeKey (keySecond k + 1) 0

/-- The bucket `n` before bucket `j` of second `s`, at most `fuel` seconds back. -/
def Conc.bucketBack (c : Conc) : Nat → Nat → Nat → Nat → Nat
  | 0, s, j, _ => mergeKey s (j * bucketLen)
  | fuel + 1, s, j, n =>
    if n ≤ j then mergeKey s ((j - n) * bucketLen)
    else if s = 0 then 0
    else c.bucketBack fuel (s - 1) (c.bucketsIn (s - 1)) (n - j)

/-! ## The ring (R191, R193-R195) -/

def Conc.withCaro (c : Conc) (f : Carousel → Carousel) : Conc := { c with caro := f c.caro }

/-- The offset of the oldest item of the ring and its bucket. -/
def Carousel.oldest (x : Carousel) : Option (Nat × Nat) :=
  match x.main.head?, x.runs.head? with
  | some a, some b => if a.off < b.off then some (a.off, a.bucket) else some (b.off, b.bucket)
  | some a, none => some (a.off, a.bucket)
  | none, some b => some (b.off, b.bucket)
  | none, none => none

/-- Discard every bucket before `k`, and the directory entries that the tail has passed (R194). -/
def Carousel.dropBefore (x : Carousel) (k : Nat) : Carousel :=
  let x := { x with main := x.main.filter fun w => k ≤ w.bucket, runs := x.runs.filter fun r => k ≤ r.bucket, lost := x.lost.filter fun b => k ≤ b,
                    index := x.index.filter fun e => k ≤ e.bucket, tail := k }
  let first := match x.oldest with | some o => o.1 | none => x.wr
  { x with dir := x.dir.filter fun d => first ≤ d.off }

/-- Move the tail past the buckets whose first word has been overwritten or whose index entry has been reused (R195). -/
def Conc.moveTail : Nat → Conc → Conc
  | 0, c => c
  | fuel + 1, c =>
    let x := c.caro
    let bound := c.bucketBack 16 (keySecond x.head) (keyFine x.head / bucketLen) (c.bucketCapacity - 1)
    if x.tail < bound then Conc.moveTail fuel (c.withCaro fun x => x.dropBefore bound)
    else match x.oldest with
      | some (off, b) =>
        if off + x.ringWords < x.wr then Conc.moveTail fuel (c.withCaro fun x => x.dropBefore (c.bucketNext b)) else c
      | none => c

/-- Move the tail as far as the head asks: at most every item that the ring lists is dropped. -/
def Conc.tailOn (c : Conc) : Conc := Conc.moveTail (c.caro.main.length + c.caro.runs.length + 2) c

/-- The buckets from `k` to `last` get their index entries at the ring's writing offset, words or none (R193). -/
def Conc.openBuckets (last : Nat) : Nat → Nat → Conc → Conc
  | 0, _, c => c
  | fuel + 1, k, c =>
    if last < k then c
    else
      let e : BIndex := { bucket := k, off := c.caro.wr, lap := c.caro.wr / c.caro.ringWords }
      Conc.openBuckets last fuel (c.bucketNext k) (c.withCaro fun x => { x with index := x.index ++ [e] })

/-- The head stands in the bucket of key `k`; of the buckets it passes, those that the index can hold are entered. -/
def Conc.headTo (c : Conc) (k : Nat) : Conc :=
  let b := bucketOf k
  if c.caro.running ∧ c.caro.head < b then
    let oldest := c.bucketBack 16 (keySecond b) (keyFine b / bucketLen) (c.bucketCapacity - 1)
    let c := Conc.openBuckets b c.bucketCapacity (max (c.bucketNext c.caro.head) oldest) c
    (c.withCaro fun x => { x with head := b }).tailOn
  else c

/-- The index entry of the head bucket takes words at the ring's writing offset (R192); one that an error has lost is opened
anew. -/
def Carousel.indexed (x : Carousel) (f : BIndex → BIndex) : Carousel :=
  match x.index.getLast? with
  | some e =>
    if e.bucket = x.head then { x with index := x.index.dropLast ++ [f e] }
    else { x with index := x.index ++ [f { bucket := x.head, off := x.wr, lap := x.wr / x.ringWords }] }
  | none => { x with index := [f { bucket := x.head, off := x.wr, lap := x.wr / x.ringWords }] }

/-- A main-stream word of sub-slot `s` at offset `off` in an index entry: the sub-slots up to its own that had no word start
at it. -/
def BIndex.word (e : BIndex) (s off : Nat) : BIndex :=
  { e with words := e.words + 1, subs := e.subs ++ List.replicate (s + 1 - e.subs.length) off }

/-- A main-stream word is written (R193). -/
def Conc.ringWord (c : Conc) (key rank port : Nat) (w : Word) : Conc :=
  if c.caro.running then
    let c := (c.headTo key).ringStore (c.headTo key).caro.wr
    let x := c.caro
    let r : RWord := { key := key, rank := rank, port := port, off := x.wr, bucket := bucketOf key, word := w }
    let y := x.indexed fun e => e.word (subSlot key) x.wr
    let x := { y with main := x.main ++ [r], wr := x.wr + 1 }
    ({ c with caro := { x with lapped := decide (x.ringWords < x.wr) } } : Conc).tailOn
  else c

/-- A late run is written where the head has reached, and gets its directory entry (R193, R194). -/
def Conc.ringRun (c : Conc) (r : LateRun) : Conc :=
  if c.caro.running then
    let n := r.words.length + 1
    let c := (List.range n).foldl (fun c i => c.ringStore (c.caro.wr + i)) c
    let x := c.caro
    let stop := x.wr + n
    let lo := (r.words.map Prod.fst).foldl min ((r.words.map Prod.fst).headD 0)
    let hi := (r.words.map Prod.fst).foldl max 0
    let x := x.indexed fun e => { e with words := e.words + n, late := true }
    let y := { x with runs := x.runs ++ [{ run := r, off := x.wr, bucket := x.head }], wr := stop,
                      lapped := decide (x.ringWords < stop) }
    let c : Conc := { c with caro := y }
    let c :=
      if r.unplaced then c
      else if y.dir.length < c.lateCapacity then
        c.withCaro fun y => { y with dir := y.dir ++ [{ port := r.port, lo := lo, hi := hi, off := x.wr, stop := stop }] }
      else
        (c.withCaro fun y => { y with dir := y.dir.dropLast ++ (match y.dir.getLast? with
          | some d => [{ d with lo := min d.lo lo, hi := max d.hi hi, stop := stop }]
          | none => []) }).count O.lateCoalesced
    c.tailOn
  else c

/-- The depth: H minus the tail, in microseconds, to the nearest (R195, R505). -/
def Conc.depth (c : Conc) : Nat :=
  if c.caro.running then min (roundDiv (c.span c.caro.tail c.gather.h) 768000).toNat (2 ^ 32 - 1) else 0

end Sys2Proof.Machine
end

