-- ==== Sys2Proof/Machine/ConcGather.lean ====
section
/-! DEFINITION. The Gather (chapter 08): placing the words of class-2 cells, the sort store, the horizon, late words, stale
and rejoining ports, channel scalers, slices. -/

namespace Sys2Proof.Machine

/-! ## Epochs (R174) -/

/-- A second-mark word of a port that is placeable, and its epoch. -/
def GPort.placeMark (g : GPort) (w : Word) : Option PortEpoch :=
  let s := bits w.toNat 60 29
  if bitAt w.toNat 28 then
    g.epoch.map fun e =>
      { second := e.second + (s + 2 ^ 32 - e.second % 2 ^ 32) % 2 ^ 32, commanded := false, origin := e.origin + 256 * (if e.commanded then 3003000000 else 3000000000) }
  else
    (g.sent.find? fun m => m.second % 2 ^ 32 = s).map fun m => { second := m.second, commanded := true, origin := m.origin }

/-- A port with the marks sent for it in the last 64 seconds (R174). -/
def Conc.sentNow (c : Conc) (p : Nat) : GPort :=
  let g := c.gport p
  { g with sent := g.sent.filter fun m => decide (c.tick ≤ m.tick + 64 * secTicks) }

/-- The epoch that the second byte of a progress word names: the current one, the one before it, or one whose mark is still
to be taken from the port's other lane. -/
def GPort.epochOf (g : GPort) (s8 : Nat) : Option PortEpoch :=
  match g.epoch with
  | none => none
  | some e =>
    if e.second % 256 = s8 then some e
    else match g.prev with
      | some y => if y.second % 256 = s8 then some y else nextEpoch g e s8
      | none => nextEpoch g e s8
where
  nextEpoch (g : GPort) (e : PortEpoch) (s8 : Nat) : Option PortEpoch :=
    match g.sent.find? fun m => m.second % 256 = s8 with
    | some m => some { second := m.second, commanded := true, origin := m.origin }
    | none =>
      if (e.second + 1) % 256 = s8 then
        some { second := e.second + 1, commanded := false,
               origin := e.origin + 256 * (if e.commanded then 3003000000 else 3000000000) }
      else none

/-- The true instant of a second on the concentrator's timeline; of the next one, by the length of this one. -/
def Conc.trueInstant (c : Conc) (s : Nat) : Option Int :=
  match Bank.find? c.gather.secs s with
  | some x => some x.1
  | none => if s = 0 then none else (Bank.find? c.gather.secs (s - 1)).map fun x => x.1 + c.lenOf (s - 1)

/-- The merge key of a time field in an epoch (R175). (DEDUCED, log entry 21) -/
def Conc.placeTime (c : Conc) (e : PortEpoch) (t : Nat) : Option Nat :=
  (c.trueInstant e.second).map fun ts => c.norm e.second (t + (e.origin - ts))

/-! ## Merged words (R182) -/

def isStreamWord (t : Nat) : Bool := t == 0 || t == 3 || t == 4

/-- The release rank of R179. -/
def streamRank (t : Nat) : Nat := if t = 4 then 1 else if t = 3 then 2 else 3

/-- A front-end word as it stands in the merged stream, with the 34-bit time field `f`. -/
def mergedWord (p f : Nat) (w : Word) : Word :=
  let v := w.toNat
  BitVec.ofNat 64 (match wordType w with
    | 0 => p * 2 ^ 55 + bits v 60 53 * 2 ^ 47 + bits v 52 50 * 2 ^ 44 + bits v 49 40 * 2 ^ 34 + f % 2 ^ 34
    | 3 => 3 * 2 ^ 61 + p * 2 ^ 55 + bits v 60 53 * 2 ^ 47 + bits v 52 47 * 2 ^ 41 + bits v 46 40 * 2 ^ 34 + f % 2 ^ 34
    | _ => 4 * 2 ^ 61 + p * 2 ^ 55 + bits v 60 57 * 2 ^ 51 + bits v 56 52 * 2 ^ 46 + bits v 51 44 * 2 ^ 38
        + bits v 43 40 * 2 ^ 34 + f % 2 ^ 34)

/-- The order of R179: key, rank, port, then R77. -/
def GItem.order (x : GItem) : Nat :=
  ((x.key * 4 + x.rank) * 64 + x.port) * 512 + (if x.rank = 1 then bits x.word.toNat 54 46 else bits x.word.toNat 54 47)

def insertG (x : GItem) : List GItem → List GItem
  | [] => [x]
  | y :: ys => if x.order < y.order then x :: y :: ys else y :: insertG x ys

/-- Second-and-frame mark. -/
def frameMark (s k state : Nat) : Word := BitVec.ofNat 64 (2 ^ 61 + s % 2 ^ 48 * 2 ^ 13 + k * 2 ^ 7 + state % 4 * 2 ^ 5)

/-- Late tag. -/
def lateTag (r : LateRun) : Word :=
  BitVec.ofNat 64 (7 * 2 ^ 61 + r.port * 2 ^ 55 + b1 r.unplaced * 2 ^ 53 + r.frame % 64 * 2 ^ 47
    + (if r.unplaced then 2 ^ 32 - 1 else r.second % 2 ^ 32) * 2 ^ 15 + r.words.length % 2 ^ 15)

/-! ## Counting (R183, R188) -/

/-- A hit counts in its second unless that count has been published. -/
def Conc.scaleHit (c : Conc) (p key : Nat) (w : Word) : Conc :=
  let s := keySecond key
  let done : Bool := match c.gather.ratesFor with | some r => decide (s ≤ r) | none => false
  if wordType w = 0 ∧ done = false then
    let ch := p * 256 + bits w.toNat 60 53
    { c with gather := { c.gather with counts := Bank.upd [] c.gather.counts s fun b => Bank.upd 0 b ch (satAdd 32 · 1) } }
  else c

/-- Append a late or unplaced word to the runs of this cell: a run holds the words of one port, frame and cause, at most
32,767. (DEDUCED, log entry 21) -/
def addLate (runs : List LateRun) (p : Nat) (unplaced : Bool) (second frame key : Nat) (w : Word) : List LateRun :=
  match runs.getLast? with
  | some r =>
    if r.unplaced = unplaced ∧ r.second = second ∧ r.frame = frame ∧ r.words.length < 32767 then
      runs.dropLast ++ [{ r with words := r.words ++ [(key, w)] }]
    else runs ++ [{ port := p, unplaced := unplaced, second := second, frame := frame, words := [(key, w)] }]
  | none => [{ port := p, unplaced := unplaced, second := second, frame := frame, words := [(key, w)] }]

/-! ## Taking a cell (R172-R174, R178, R181, R189) -/

/-- What the taking of a cell carries from word to word: the concentrator, the epoch of the words, the late runs, whether a
placeable mark was taken. -/
structure Taking where
  c : Conc
  epoch : Option PortEpoch
  runs : List LateRun := []
  marked : Bool := false

/-- Class-2 credit that was withheld is returned (R173). -/
def Conc.returnWithheld (c : Conc) (p : Nat) : Conc :=
  let g := c.gport p
  let c := c.updLane (laneIn (2 * p)) fun l => { l with rx := l.rx.free 2 g.withheld.1 }
  let c := c.updLane (laneIn (2 * p + 1)) fun l => { l with rx := l.rx.free 2 g.withheld.2 }
  c.setGport p { g with withheld := (0, 0) }

/-- A second-mark word: a new epoch, or an unplaceable one that puts the port in STARTING. -/
def Taking.mark (k : Taking) (p : Nat) (w : Word) : Taking :=
  let g := k.c.sentNow p
  match g.placeMark w with
  | some e =>
    let st := if g.st = .starting then .rejoining else g.st
    { k with c := k.c.setGport p { g with epoch := some e, prev := g.epoch, st := st,
                                          rejoin := if g.st = .starting then 0 else g.rejoin },
             epoch := some e, marked := true }
  | none => { k with c := k.c.setGport p { g with epoch := none, prev := none, st := .starting, lagging := false, rejoin := 0 },
                     epoch := none }

/-- A hit, a lost-hit report or a group status word. (DEDUCED, log entry 20) -/
def Taking.data (k : Taking) (p : Nat) (w : Word) : Taking :=
  let t := w.toNat % 2 ^ 40
  match k.epoch.bind fun e => k.c.placeTime e t with
  | none =>
    let c := (k.c.count O.unplacedWords).countEntry O.portLateWords 32 p
    { k with c := c, runs := addLate k.runs p true 0 (t / 2 ^ 34) 0 (mergedWord p t w) }
  | some key =>
    let c := k.c.scaleHit p key w
    let m := mergedWord p (keyFine key) w
    if key < c.gather.h then
      let c := (c.count O.lateWords).countEntry O.portLateWords 32 p
      { k with c := c, runs := addLate k.runs p false (keySecond key) (keyFine key / 2 ^ 34) key m }
    else
      let x : GItem := { key := key, rank := streamRank (wordType w), port := p, word := m }
      let s := insertG x c.gather.store
      { k with c := { c with gather := { c.gather with store := s, peak := max c.gather.peak s.length } } }

def Taking.word (k : Taking) (p i : Nat) (w : Word) : Taking :=
  let t := wordType w
  if t = 2 then k
  else if t = 1 ∧ bitAt w.toNat 25 = false then k.mark p w
  else if isStreamWord t then k.data p w
  else { k with c := k.c.protoErr i }

/-- A lane in service: neither disabled, parked, retired nor in test mode; one that only lost its alignment stays until it is
lane-stale (R176, R189). -/
def Lane.inService (l : Lane) : Bool := match l.st with | .disabled | .parked | .retired | .prbs => false | _ => true

/-- The values of `GatherConfig` in force: those written in this tick apply from the next (R190). -/
def Conc.sortWindow (c : Conc) : Nat := if c.gather.cfgAt = some c.tick then c.gather.cfgOld.1 else c.get O.sortWindow
def Conc.staleTicks (c : Conc) : Nat := if c.gather.cfgAt = some c.tick then c.gather.cfgOld.2.1 else c.get O.staleTicks
def Conc.rejoinCells (c : Conc) : Nat := if c.gather.cfgAt = some c.tick then c.gather.cfgOld.2.2 else c.get O.rejoinCells

/-- The lanes of a port that contribute to it (R176, R181), whatever its state. (DEDUCED, log entry 20) -/
def Conc.contributes (c : Conc) (p odd : Nat) : Bool :=
  let g := c.gport p
  let x := if odd = 0 then g.lane0 else g.lane1
  !x.stale && x.progress.isSome && (c.lane (laneIn (2 * p + odd))).inService

/-- The progress of a LIVE port: the lower of its contributing lanes. -/
def Conc.portProgress (c : Conc) (p : Nat) : Option Nat :=
  let g := c.gport p
  if g.st ≠ .live then none
  else match c.contributes p 0, c.contributes p 1 with
  | true, true => some (min (g.lane0.progress.getD 0) (g.lane1.progress.getD 0))
  | true, false => g.lane0.progress
  | false, true => g.lane1.progress
  | false, false => none

/-- Close the open discontinuities of a port at its first progress after them (R283). -/
def GPort.closeDisc (g : GPort) (p : Nat) : GPort :=
  { g with disc := g.disc.map fun d => match d.2 with | none => (d.1, some p) | some _ => d }

/-- The state of the port and its lane after a cell with progress `pr` (R181). -/
def Conc.cellTaken (c : Conc) (l : Nat) (pr : Option Nat) : Conc :=
  let p := l / 2
  let g := c.gport p
  let h := c.gather.h
  let x := if l % 2 = 0 then g.lane0 else g.lane1
  let set (g : GPort) (x : GLane) : GPort := if l % 2 = 0 then { g with lane0 := x } else { g with lane1 := x }
  match pr with
  | none => c.setGport p (set g { x with progress := none })
  | some v =>
    let up := decide (h ≤ v)
    let g := if g.st = .stale then { g with st := .rejoining, rejoin := 0 } else g
    let g := (if g.st = .rejoining then { g with rejoin := if g.lastP ≤ v then g.rejoin + 1 else 1 } else g).closeDisc v
    let live := decide (g.st = .rejoining) && decide (c.rejoinCells ≤ g.rejoin) && up
    let g := if live then { g with st := .live, rejoin := 0 } else g
    let x := if l % 2 = 0 then g.lane0 else g.lane1
    let x := { x with progress := some v, stale := x.stale && !(decide (g.st = .live) && up) }
    c.setGport p { set g x with lastP := v }

/-- The ports that hold the horizon: LIVE, with the lowest progress (R177). -/
def Conc.holdsHorizon (c : Conc) (p : Nat) : Bool :=
  match c.portProgress p with
  | none => false
  | some v => (List.range 48).all fun q => match c.portProgress q with | some u => decide (v ≤ u) | none => true

/-- The store is full: no room for two more cells, so that one of a port that holds the horizon still fits (R180).
(DEDUCED, log entry 21) -/
def Conc.noRoom (c : Conc) : Bool := decide (c.sortCapacity < c.gather.store.length + 62)

/-- Count an entry into the full state. (DEDUCED, log entry 21) -/
def Conc.storeFull (c : Conc) : Conc :=
  let f := c.noRoom
  let c := if f ∧ c.gather.full = false then c.count O.storeFullEvents else c
  { c with gather := { c.gather with full := f } }

/-- Words of a cell that is discarded (R172, R189): class-2 credit withheld. -/
def Conc.discardCell (c : Conc) (l : Nat) (ws : List Word) : Conc :=
  let p := l / 2
  let g := c.gport p
  let c := c.setGport p { g with withheld := if l % 2 = 0 then (g.withheld.1 + 1, g.withheld.2) else (g.withheld.1, g.withheld.2 + 1) }
  c.count O.unleasedWords 0 (ws.filter fun w => !isFiller w).length

/-- The epoch before `e`, as far as the port knows it: the current one before one whose mark is still to come. -/
def GPort.earlier (g : GPort) (e : PortEpoch) : Option PortEpoch :=
  match g.epoch with
  | some x => if x = e then g.prev else some x
  | none => none

/-- Every word of a cell is one that the epoch before the one of P still holds: it lies at or after P there (R83).  Words of the
epoch of P would lie a whole epoch later. -/
def GPort.spills (y n : PortEpoch) (ws : List Word) : Bool :=
  let at_ (w : Word) : Int := (w.toNat % 2 ^ 40 : Nat)
  (ws.any fun w => isStreamWord (wordType w))
    && ws.all fun w => !isStreamWord (wordType w) || decide (n.origin - y.origin + at_ (ws.headD 0#64) ≤ at_ w)

/-- The epoch of the words that stand before the first second mark of a cell: the one that P names, but the epoch before it
where P is already stated in the epoch that the mark starts, be the mark in this cell or in a later one (R78, R83, R175).
(DEDUCED, log entry 21) -/
def GPort.before (g : GPort) (s8 : Nat) (ws : List Word) (named : Option PortEpoch) : Option PortEpoch :=
  match ws.find? fun w => wordType w == 1 && !bitAt w.toNat 25 with
  | some m =>
    if bits m.toNat 60 29 % 256 = s8 then
      match g.epoch with
      | some e => if e.second % 256 = s8 then g.prev else some e
      | none => none
    else named
  | none =>
    match named with
    | none => none
    | some n => match g.earlier n with
      | some y => if GPort.spills y n ws then some y else some n
      | none => some n

/-- The cell is placed: every word of it is judged (R125). -/
def Conc.placeCell (c : Conc) (l : Nat) (ws : List Word) : Conc :=
  let p := l / 2
  let i := laneIn l
  let w0 := ws.headD 0#64
  let s8 := bits w0.toNat 47 40
  let named := if wordType w0 = 2 then (c.sentNow p).epochOf s8 else (c.gport p).epoch
  let k := ws.foldl (fun (k : Taking) w => k.word p i w) { c := c, epoch := (c.gport p).before s8 ws named }
  let c := k.runs.foldl (fun c r => c.ringRun r) k.c
  let g := c.gport p
  -- the epoch of P: as it stood before the cell, else as its marks left it
  let e := match named with | some e => some e | none => (c.sentNow p).epochOf s8
  let pr := if wordType w0 = 2 then e.bind fun e => c.placeTime e (w0.toNat % 2 ^ 40) else none
  if g.st = .starting then
    c.setGport p { g with withheld := if l % 2 = 0 then (g.withheld.1 + 1, g.withheld.2) else (g.withheld.1, g.withheld.2 + 1) }
  else
    let c := c.updLane i fun x => { x with rx := x.rx.free 2 }
    (if k.marked then c.returnWithheld p else c).cellTaken l pr

/-- GATHER_CELL_TAKE on ingress lane `l`. (DEDUCED, log entry 21) -/
def Conc.gatherTake (c : Conc) (l : Nat) : Conc :=
  let p := l / 2
  let i := laneIn l
  let x := c.lane i
  match x.rx.buf2 with
  | [] => c
  | ws :: rest =>
    let st := (c.gport p).st
    let pop (c : Conc) : Conc := c.updLane i fun x => { x with rx := { x.rx with buf2 := rest } }
    if st = .fault then c
    else if c.acts p = false ∨ st = .disabled ∨ st = .unleased then (pop c).discardCell l ws
    else if st = .absent then c
    else
      let c := c.storeFull
      if c.gather.full ∧ (c.holdsHorizon p = false ∨ c.sortCapacity < c.gather.store.length + 31) then c
      else ((pop c).placeCell l ws).storeFull

/-! ## The horizon and release (R177, R179, R183) -/

/-- The next mark after second `s`, frame `k`: the next frame, else frame 0 of the next second that has begun.
(DEDUCED, log entry 19) -/
def Conc.markAfter (c : Conc) (s k : Nat) : Nat × Nat :=
  if (k + 1) * 2 ^ 34 < c.lenOf s then (s, k + 1)
  else match (List.find? (fun x => decide (s < x.1)) c.gather.secs) with
    | some x => (x.1, 0)
    | none => (s + 1, 0)

/-- One word of the main stream: a mark that H has reached, or the head of the sort store (R179, R183).  The result says
whether a sorted word was released. -/
def Conc.releaseOne (c : Conc) : Option (Bool × Conc) :=
  let g := c.gather
  let mark := g.nextMark.bind fun m => if mergeKey m.1 (m.2 * 2 ^ 34) ≤ g.h then some m else none
  let word := g.store.head?.bind fun x => if x.key ≤ g.h then some x else none
  let emitMark (m : Nat × Nat) : Bool × Conc :=
    let c := c.ringWord (mergeKey m.1 (m.2 * 2 ^ 34)) 0 0 (frameMark m.1 m.2 c.time.state)
    (false, { c with gather := { c.gather with nextMark := some (c.markAfter m.1 m.2) } })
  let emitWord (x : GItem) : Bool × Conc :=
    let c := c.ringWord x.key x.rank x.port x.word
    (true, { c with gather := { c.gather with store := c.gather.store.drop 1 } })
  match mark, word with
  | some m, some x => if mergeKey m.1 (m.2 * 2 ^ 34) ≤ x.key then some (emitMark m) else some (emitWord x)
  | some m, none => some (emitMark m)
  | none, some x => some (emitWord x)
  | none, none => none

/-- Release up to `n` sorted words with the marks among them. -/
def Conc.release : Nat → Nat → Conc → Conc
  | 0, _, c => c
  | fuel + 1, n, c =>
    match c.releaseOne with
    | none => c
    | some (true, c') => if n ≤ 1 then c' else Conc.release fuel (n - 1) c'
    | some (false, c') => Conc.release fuel n c'

/-- LIVE ports that fall more than W below Pmax lag (R177). -/
def Conc.judgeLag (c : Conc) (low : Nat) : Conc :=
  (List.range 48).foldl (fun c p =>
    let g := c.gport p
    match c.portProgress p with
    | some v =>
      let lag := decide (v < low)
      let c := if lag ∧ g.lagging = false then c.count O.lagEvents else c
      if lag = g.lagging then c else c.setGport p { c.gport p with lagging := lag }
    | none => if g.lagging then c.setGport p { g with lagging := false } else c) c

/-- H of this base tick. -/
def Conc.horizonNow (c : Conc) : Nat × Nat × Nat :=
  let ps := (List.range 48).filterMap fun p => (c.portProgress p).map fun v => (p, v)
  match ps with
  | [] => (c.gather.h, 0xFF, 0)
  | a :: _ =>
    let lo := ps.foldl (fun (m : Nat × Nat) x => if x.2 < m.2 then x else m) a
    let hi := ps.foldl (fun m x => max m x.2) 0
    let low := c.keyAdd hi (-(c.sortWindow * 8192 : Nat))
    (max c.gather.h (max lo.2 low), lo.1, low)

/-- 125 ns in fine ticks (R186). -/
def sliceUnit : Nat := 96000

/-- A LIVE port with no contributing lane becomes STALE (R181). -/
def Conc.judgeStale (c : Conc) (p : Nat) : Conc :=
  let g := c.gport p
  if g.st = .live ∧ c.contributes p 0 = false ∧ c.contributes p 1 = false then
    c.setGport p { g.discontinuity with st := .stale, lagging := false, staleEntries := min (g.staleEntries + 1) 65535 }
  else c

/-- HORIZON_ADVANCE: once per base tick. -/
def Conc.horizonAdvance (c : Conc) : Conc :=
  let c := (List.range 48).foldl Conc.judgeStale c
  let n := c.horizonNow
  let c := c.judgeLag n.2.2
  let g := c.gather
  let first := match g.nextMark with
    | some m => some m
    | none => if n.1 = 0 then none else some (keySecond n.1, keyFine n.1 / 2 ^ 34)
  let g := match g.sliceSecond with
    | some _ => g
    | none => if n.1 = 0 then g else
        { g with sliceSecond := some (keySecond n.1), sliceLen := c.get O.sliceLength, sliceOver := c.get O.sliceOverlap,
                 sliceIndex := keyFine n.1 / (c.get O.sliceLength * sliceUnit) }
  let c := { c with gather := { g with h := n.1, holder := n.2.1, nextMark := first } }
  let c := Conc.release 4096 192 c
  let c := match c.gather.store.head? with
    | some x => if x.key ≤ c.gather.h then c else c.headTo c.gather.h
    | none => c.headTo c.gather.h
  c.storeFull

/-! ## Stale lanes (R181) -/

/-- LANE_STALE_TIMEOUT: no class-2 cell for StaleTicks; one in the tick of the expiry counts as arrived (R181). -/
def Conc.laneStale (c : Conc) (l : Nat) : Conc :=
  let p := l / 2
  let g := c.gport p
  let x := if l % 2 = 0 then g.lane0 else g.lane1
  let due : Bool := match x.lastCell with
    | some t => decide (t + c.staleTicks < c.tick)
    | none => true
  if due = false ∨ x.stale then c
  else
    let x := { x with stale := true }
    let g := if l % 2 = 0 then { g with lane0 := x } else { g with lane1 := x }
    (c.setGport p g).judgeStale p

/-! ## Channel scalers (R188) -/

/-- The first second whose counts are not published yet and whose end H has passed. -/
def Conc.ratesDue (c : Conc) : Option Nat :=
  (List.find? (fun x =>
    (match c.gather.ratesFor with | some r => decide (r < x.1) | none => true)
    && decide (mergeKey (x.1 + 1) 0 ≤ c.gather.h)) c.gather.secs).map fun x => x.1

/-- CHANNEL_RATES_PUBLISH. -/
def Conc.publishRates (c : Conc) : Conc :=
  match c.ratesDue with
  | some s =>
    { c with gather := { c.gather with rates := Bank.get [] c.gather.counts s, ratesFor := some s,
                                       counts := c.gather.counts.filter fun x => s < x.1 } }
  | none => c

/-! ## Slices (R186) -/

/-- A slice: number, start key, nominal end and end of its span as keys (exclusive). -/
structure Slice where
  number : Nat
  start : Nat
  stop : Nat
  span : Nat
  deriving DecidableEq, Repr

/-- Slice `j` of second `s` with length and overlap in 125 ns. -/
def Conc.sliceAt (c : Conc) (n s j len extra : Nat) : Slice :=
  let f := c.lenOf s
  let e := min ((j + 1) * len * sliceUnit) f
  { number := n, start := mergeKey s (j * len * sliceUnit), stop := c.norm s e, span := c.norm s (e + extra * sliceUnit : Nat) }

/-- A second that an alignment has left out has no slices. -/
def Conc.sliceSkip (c : Conc) : Conc :=
  let g := c.gather
  match g.sliceSecond with
  | none => c
  | some s =>
    if (Bank.find? g.secs s).isSome then c
    else match List.find? (fun x => decide (s < x.1 ∧ x.1 ≤ keySecond g.h)) g.secs with
      | some x => { c with gather := { g with sliceSecond := some x.1, sliceIndex := 0, sliceLen := c.get O.sliceLength,
                                              sliceOver := c.get O.sliceOverlap } }
      | none => c

/-- The slice after the last complete one; the first contains the first H. -/
def Conc.nextSlice (c : Conc) : Option Slice :=
  match c.gather.sliceSecond with
  | some s => some (c.sliceAt c.gather.sliceNumber s c.gather.sliceIndex c.gather.sliceLen c.gather.sliceOver)
  | none => none

/-- Move on to the next slice; a change of length or overlap applies from the first slice of a second. -/
def Conc.sliceStep (c : Conc) : Conc :=
  let g := c.gather
  match g.sliceSecond with
  | none => c
  | some s =>
    let g := { g with sliceNumber := (g.sliceNumber + 1) % 2 ^ 64 }
    if (g.sliceIndex + 1) * g.sliceLen * sliceUnit < c.lenOf s then { c with gather := { g with sliceIndex := g.sliceIndex + 1 } }
    else
      { c with gather := { g with sliceSecond := some (s + 1), sliceIndex := 0, sliceLen := c.get O.sliceLength,
                                  sliceOver := c.get O.sliceOverlap } }

/-! ## Status objects (R190) -/

def PortSt.code : PortSt → Nat
  | .disabled => 0 | .absent => 1 | .unleased => 2 | .starting => 3 | .rejoining => 4 | .live => 5 | .stale => 6 | .fault => 7

def Conc.portStates (c : Conc) : Nat :=
  packEntries 32 ((List.range 48).map fun p =>
    let g := c.gport p
    let a := c.contributes p 0
    let b := c.contributes p 1
    let sideB : Bool := match (c.lane (laneIn (2 * p))).identity, (c.lane (laneIn (2 * p + 1))).identity with
      | some v, _ => decide (2 ≤ v)
      | none, some v => decide (2 ≤ v)
      | none, none => false
    g.st.code + b1 (a != b) * 8 + b1 sideB * 16 + b1 a * 32 + b1 b * 64 + b1 g.lagging * 128
      + b1 (c.holdsHorizon p) * 256 + g.staleEntries * 2 ^ 16)

def Conc.channelRates (c : Conc) : Nat := c.gather.rates.foldl (fun v x => v + x.2 * 2 ^ (32 * x.1)) 0

end Sys2Proof.Machine
end

