-- ==== Sys2Proof/Machine/ConcTrig.lean ====
section
/-! DEFINITION. The Carousel's triggers (chapter 09): sources, queue, merging, look-back requests, extraction into records
(R281-R286), prescaling, and the Carousel's start and stop. -/

namespace Sys2Proof.Machine

/-! ## The trigger queue (R204-R206) -/

/-- The longest window in fine ticks. -/
def maxWindow : Nat := 76800000

/-- H has passed a key: no word at or below it can still enter the stream. -/
def Conc.passed (c : Conc) (k : Nat) : Bool := decide (k < c.gather.h)

/-- The fine ticks that a window spans. -/
def Conc.windowSpan (c : Conc) (a b : Nat) : Int := c.span a b + 1

/-- A new entry is allowed for a tier. -/
def Conc.entryAllowed (c : Conc) (tier : Nat) : Bool :=
  decide (c.caro.queue.length < if tier = 0 then 4096 else 3840)

/-- A base tick of the counter at key `k` (R207): it continues the present stretch, or an alignment or another clock has begun
a new one.  The 32 newest stretches are kept. (DESIGN CHOICE, log entry 52) -/
def Carousel.coursed (x : Carousel) (tick k : Nat) (goes : Nat → Bool) : Carousel :=
  match x.course with
  | s :: rest =>
    if goes s.last then { x with course := { s with last := k } :: rest }
    else { x with course := (({ start := tick, first := k, last := k } : Stretch) :: s :: rest).take 32 }
  | [] => { x with course := [{ start := tick, first := k, last := k }] }

/-- The first base tick in which the counter's time lay beyond key `b`, if it has (R207). -/
def Conc.firstBeyond (c : Conc) (b : Nat) : Option Nat :=
  (c.caro.course.reverse.find? fun s => b < s.last).map fun s =>
    if b < s.first then s.start else s.start + (c.span s.first b).toNat / 8192 + 1

/-- Put a new entry into the queue; one whose end lies behind H is READY at once (R207). -/
def Conc.newEntry (c : Conc) (e : QEntry) : Conc :=
  let x := c.caro
  let p := c.passed e.b
  let e := { e with id := x.nextId, ready := if p then some c.tick else none, passed := if p then some c.tick else none,
                    late := c.firstBeyond e.b }
  let q := x.queue ++ [e]
  { c with caro := { x with queue := q, nextId := x.nextId + 1, queuePeak := max x.queuePeak q.length } }

def Conc.setEntry (c : Conc) (e : QEntry) : Conc :=
  c.withCaro fun x => { x with queue := x.queue.map fun y => if y.id = e.id then e else y }

/-- The open entry that a window meets, the one with the latest start (R206), of several the one that stands first in the queue.
(DEDUCED, log entry 22; DESIGN CHOICE, log entry 53) -/
def Conc.openEntry (c : Conc) (a b : Nat) : Option QEntry :=
  c.caro.queue.foldl (fun best e =>
    if e.chain = none ∧ e.extracting = false ∧ e.sealed = false ∧ a ≤ c.keyAdd e.b 1 ∧ e.a ≤ c.keyAdd b 1 then
      match best with
      | some y => if y.a < e.a then some e else best
      | none => some e
    else best) none

/-- Take the next trigger number and count the admission. -/
def Conc.admitted (c : Conc) (tier : Nat) : Nat × Conc :=
  let n := c.caro.nextTrigger
  (n, (c.withCaro fun x => { x with nextTrigger := (n + 1) % 2 ^ 32 }).count O.admitted tier)

/-- The tick in which H passed a key that it has passed, as far as the last millisecond tells (R207). -/
def Conc.passedAt (c : Conc) (k : Nat) : Nat :=
  match (c.caro.hPast.takeWhile fun p => k < p.2).getLast? with
  | some p => p.1
  | none => c.tick

/-- An entry takes a trigger and a wider window; its fill starts anew where its end now lies beyond H, and counts from the tick in
which H passed the new end where it does not. -/
def Conc.widen (c : Conc) (e : QEntry) (a b n tier : Nat) (pre : Bool) : Conc :=
  let b' := max e.b b
  let grown := decide (e.b < b)
  let wait := !c.passed b'
  c.setEntry { e with a := min e.a a, b := b', numbers := e.numbers ++ [n], tier := min e.tier tier, merged := true,
                      prescaled := e.prescaled || pre, ready := if wait then none else e.ready,
                      passed := if wait then none else if grown then some (c.passedAt b') else e.passed, late := if grown then c.firstBeyond b' else e.late,
                      cut := if wait then none else e.cut, merged? := some c.tick }

/-- Admit a kept trigger of a tier with window [a, b]: outcome and number (R206, R220). (DEDUCED, log entry 22) -/
def Conc.admitTrigger (c : Conc) (tier a b : Nat) (pre : Bool) : Nat × Nat × Conc :=
  let fresh (c : Conc) (a b : Nat) (m : Bool) (n : Nat) : Conc :=
    c.newEntry { id := 0, a := a, b := b, tier := tier, numbers := [n], merged := m, prescaled := pre }
  let reject : Nat × Nat × Conc := (3, 0, c.count O.rejected tier)
  let alone : Nat × Nat × Conc :=
    if c.entryAllowed tier then
      let r := c.admitted tier
      (0, r.1, fresh r.2 a b false r.1)
    else reject
  match c.openEntry a b with
  | none => alone
  | some e =>
    if c.windowSpan (min e.a a) (max e.b b) ≤ maxWindow then
      if e.numbers.length < 8 then
        let r := c.admitted tier
        (1, r.1, (r.2.widen e a b r.1 tier pre).count O.mergedTriggers)
      else alone
    else
      let a' := max a (c.keyAdd e.b 1)
      let need := decide (a' ≤ b)
      if need ∧ c.entryAllowed tier = false then reject
      else
        let r := c.admitted tier
        let lists := decide (a ≤ e.b) && decide (e.a ≤ b) && decide (e.numbers.length < 8)
        let c := r.2.setEntry { e with sealed := true, merged := true,
                                       numbers := if lists then e.numbers ++ [r.1] else e.numbers,
                                       prescaled := e.prescaled || (lists && pre) }
        let c := if lists then c.count O.mergedTriggers else c
        if need then (0, r.1, fresh c a' b true r.1) else (1, r.1, c)

/-- The prescaling of tiers B and C (R210): whether the trigger is kept, and whether it marks its entry.
(DEDUCED, log entry 22) -/
def Conc.prescale (c : Conc) (tier : Nat) : Bool × Bool × Conc :=
  let x := c.caro
  match tier with
  | 1 => (decide (x.countB % 2 ^ x.kB = 0), decide (0 < x.kB), { c with caro := { x with countB := x.countB + 1 } })
  | 2 => (decide (x.countC % 2 ^ x.kC = 0), decide (0 < x.kC), { c with caro := { x with countC := x.countC + 1 } })
  | _ => (true, false, c)

/-- A trigger with window [a, b] is offered (R197, R198, R204, R210): outcome, number. -/
def Conc.offer (c : Conc) (tier a b : Nat) : Nat × Nat × Conc :=
  let c := c.count O.offered tier
  if c.caro.running = false then (5, 0, c)
  else
    let p := c.prescale tier
    if p.1 then p.2.2.admitTrigger tier a b p.2.1
    else (2, 0, p.2.2.count O.prescaled (tier - 1))

/-- The window of profile `p` about `t` (R199). -/
def Conc.profileWindow (c : Conc) (p t : Nat) : Nat × Nat :=
  let v := entryGet 32 (c.get O.windowProfiles) p
  (c.keyAdd t (-((v % 2 ^ 16) * 8192 : Nat)), c.keyAdd t ((v / 2 ^ 16) * 8192 : Nat))

def Conc.offerAt (c : Conc) (tier p t : Nat) : Nat × Nat × Conc :=
  let w := c.profileWindow p t
  c.offer tier w.1 w.2

/-- A key lies more than one second of merge time beyond H. -/
def Conc.beyondH (c : Conc) (k : Nat) : Bool := decide (c.keyAdd c.gather.h (c.lenOf (keySecond c.gather.h)) < k)

/-- A qtrig at key `t` (R198, R220): tier A is demoted to B.  One whose time is invalid is offered too, and counts as such (R210). -/
def Conc.qtrig (c : Conc) (tier p t : Nat) : Nat × Nat × Conc :=
  let c := if tier = 0 then c.count O.demoted else c
  let tier := if tier = 0 then 1 else tier
  if c.caro.running ∧ c.beyondH t then (4, 0, ((c.count O.offered tier).count O.invalid |>.prescale tier).2.2) else c.offerAt tier p t

/-! ## Sources without a task (R200, R201) -/

/-- RANDOM_TRIGGER. -/
def Conc.randomTrigger (c : Conc) : Conc :=
  if c.get O.randomRate = 0 then c else (c.offerAt 2 (c.get O.randomProfile) c.counterKey).2.2

/-- The trigger of a flash at key `t` (R201, R448). -/
def Conc.flashTrigger (c : Conc) (t : Nat) : Conc :=
  (c.offerAt 2 (c.get O.flashProfile) (c.keyAdd t (toSigned 32 (c.get O.flashDelay)))).2.2

/-- The counts of a converter's histogram before its table is computed: 2^16. (DEDUCED, log entry 22) -/
def triginN : Nat := 16

/-- A converted edge in a TRIGIN converter's histogram; a full one makes a table in shadow (R49, R50, R200). -/
def Trigin.histogram (x : Trigin) (code : Nat) : Trigin :=
  let x := { x with hist := Bank.upd 0 x.hist code (· + 1), total := x.total + 1 }
  if x.total < 2 ^ triginN then x
  else
    let y := { x with hist := [], total := 0 }
    if culletRejects x.hist triginN then y else { y with shadow := some (culletTable x.hist triginN) }

/-- The tables of the TRIGIN converters swap at a rollover (R200). -/
def Conc.triginSwap (c : Conc) : Conc :=
  let swap (t : Trigin) : Trigin :=
    match t.shadow with
    | some s => { t with table := some s, shadow := none }
    | none => t
  c.withCaro fun x => { x with trigin := Bank.mapVals {} (fun _ t => swap t) x.trigin }

/-- An edge of the private random pulser of every converter whose block is not gated (R200, R340). (DEDUCED, log entry 22) -/
def Conc.triginPulse (c : Conc) : Conc :=
  (List.range 4).foldl (fun c n =>
    if bitAt c.pwr.gated (1 + n) then c
    else
      let d := c.drawNat
      d.2.withCaro fun x => { x with trigin := Bank.upd {} x.trigin n fun t => t.histogram (d.1 % 256) }) c

/-- The fraction of a beat of a raw code, in fine ticks. -/
def Trigin.frac (x : Trigin) (code : Nat) : Nat := (entryGet 16 (x.table.getD nominalTable) code + 8) / 16

/-- The merge key of an instant in fine ticks of the timeline. -/
def Conc.instantKey (c : Conc) (t : Int) : Nat :=
  let s := c.time.value.1
  match c.trueInstant s with
  | some ts => c.norm s (t - ts)
  | none => c.counterKey

/-- TRIGIN_EDGE: an edge on input `n` at `beat` with raw code `code`, of a pulse `widthPs` wide (R46, R47, R200).
(DEDUCED, log entry 22) -/
def Conc.triginEdge (c : Conc) (n : Nat) (falling : Bool) (beat code widthPs : Nat) : Conc :=
  let cfg := c.get O.trigin n
  if bitAt cfg 0 = false ∨ bitAt cfg 1 ≠ falling ∨ c.time.onAo ∨ widthPs < 150 then c
  else
    let d : Bool × Conc := if widthPs < 250 then c.drawBool else (true, c)
    let c := d.2
    if d.1 = false then c
    else
      let x := Bank.get {} c.caro.trigin n
      let at' := (c.tick * 32 + beat) * 256 + code
      let busy : Bool := match x.last with | some t => decide (at' < t + deadTime) | none => false
      if busy then c
      else
        let t := (c.tick * 32 + beat) * 256 + x.frac code
        let x : Trigin := { x.histogram code with last := some at' }
        let free : Bool := match x.lastAccepted with | some u => decide (u + bits cfg 31 16 ≤ c.tick) | none => true
        let saved (y : Trigin) : Conc := c.withCaro fun k => { k with trigin := Bank.set {} k.trigin n y }
        if free then
          let c := (saved { x with lastAccepted := some c.tick }).count O.triginEdges n
          (c.offerAt 0 (bits cfg 4 2) (c.instantKey t)).2.2
        else (saved x).count O.triginHeldOff n

/-! ## Look-back requests (R202, R203) -/

/-- LOOKBACK_REFUSED. -/
def lookbackRefused (tag reason : Nat) : Word := BitVec.ofNat 64 (0x2A * 2 ^ 56 + tag % 2 ^ 16 + reason % 8 * 2 ^ 16)

/-- The second of a request whose low 16 bits are given. -/
def Conc.lookbackSecond (c : Conc) (s16 : Nat) : Nat :=
  let h := keySecond c.gather.h
  (h + toSigned 16 (s16 + 2 ^ 16 - h % 2 ^ 16)).toNat

/-- The entries of a chain from key `a`, `len` fine ticks long; those of a chain of several share its trigger (R206). -/
def Conc.chainEntries (c : Conc) (number tag : Nat) : Nat → Nat → Nat → Nat → Conc
  | 0, _, _, _ => c
  | fuel + 1, i, a, len =>
    let n := min len maxWindow
    let e : QEntry := { id := 0, a := a, b := c.keyAdd a (n - 1 : Nat), tier := 0, numbers := [number],
                        chain := some (tag, i, decide (len ≤ maxWindow)), merged := decide (0 < i ∨ maxWindow < len) }
    let d := c.newEntry e
    if len ≤ maxWindow then d else d.chainEntries number tag fuel (i + 1) (c.keyAdd a n) (len - maxWindow)

/-- LOOKBACK_REQUEST: a LOOKBACK_START and the LOOKBACK_SPAN behind it. (DEDUCED, log entry 22) -/
def Conc.lookback (c : Conc) (s16 start tag len : Nat) : Conc :=
  let c := (c.count O.lookbackRequests).count O.offered 0
  if c.caro.running = false then c.emit0 (lookbackRefused tag 3)
  else
    let s := c.lookbackSecond s16
    let a := mergeKey s start
    if c.lenOf s ≤ start ∨ len = 0 ∨ 768000000 < len ∨ c.beyondH a then
      (c.count O.invalid).emit0 (lookbackRefused tag 2)
    else
      let n := (len + maxWindow - 1) / maxWindow
      if 4096 < c.caro.queue.length + n then (c.count O.rejected 0).emit0 (lookbackRefused tag 1)
      else
        let r := c.admitted 0
        r.2.chainEntries r.1 tag 12 0 a len

/-! ## Fill (R207) -/

/-- Note which entries H has passed. -/
def Conc.notePassed (c : Conc) : Conc :=
  c.withCaro fun x => { x with queue := x.queue.map fun e =>
    if e.passed = none ∧ c.passed e.b then { e with passed := some c.tick } else e }

/-- Note, once per base tick, where the counter's time stands and which entries it has passed: a tick of the base clock moves
it by 8,192 fine ticks, within the rounding at a second's end. -/
def Conc.noteEntries (c : Conc) : Conc :=
  let k := c.counterKey
  let c := c.withCaro fun x => x.coursed c.tick k fun last => decide (8190 ≤ c.span last k ∧ c.span last k ≤ 8194)
  c.withCaro fun x => { x with queue := x.queue.map fun e =>
    if e.late = none ∧ e.b < k then { e with late := some c.tick } else e }

/-- Note where H stands, and forget what lies more than a millisecond, the longest `FillExtra`, back (R207, R212). -/
def Conc.noteHorizon (c : Conc) : Conc :=
  match c.caro.hPast with
  | p :: _ => if p.2 = c.gather.h then c else push c
  | [] => push c
where
  push (c : Conc) : Conc := c.withCaro fun x =>
    { x with hPast := (c.tick, c.gather.h) :: x.hPast.takeWhile fun p => c.tick ≤ p.1 + msTicks }

/-- HORIZON_ADVANCE as the trigger queue sees it: the entries that H passes are noted in its tick (R207). -/
def Conc.horizonStep (c : Conc) : Conc := c.horizonAdvance.noteHorizon.notePassed

def Conc.entry (c : Conc) (id : Nat) : Option QEntry := c.caro.queue.find? fun e => e.id = id

/-- ENTRY_READY. -/
def Conc.entryReady (c : Conc) (id : Nat) : Conc :=
  match c.entry id with
  | some e =>
    match e.passed, e.ready with
    | some t, none => if t + c.get O.fillExtra ≤ c.tick then c.setEntry { e with ready := some c.tick } else c
    | _, _ => c
  | none => c

/-- FILL_TIMEOUT: the record ends at H; where H passes b in the tick of the expiry the fill counts as arrived (R145, R211).
(DEDUCED, log entry 23) -/
def Conc.fillTimeout (c : Conc) (id : Nat) : Conc :=
  match c.entry id with
  | some e =>
    match e.late, e.passed, e.ready with
    | some t, none, none =>
      if t + c.get O.fillTimeout * msTicks < c.tick ∧ c.passed e.b = false then
        (c.setEntry { e with ready := some c.tick, cut := some c.gather.h }).count O.fillTimeouts
      else c
    | _, _, _ => c
  | none => c

/-! ## Records (R281-R286) -/

/-- What a record's header says beside its window. -/
structure RecFlags where
  truncated : Bool := false
  expired : Bool := false
  poisoned : Bool := false
  late : Bool := false
  gap : Bool := false
  deriving DecidableEq, Repr

/-- The four header words and the trigger-list words. -/
def recordHead (e : QEntry) (a b number bodyWords : Nat) (compressed : Bool) (f : RecFlags) : List Word :=
  let w0 := 0xE * 2 ^ 60 + (if e.chain.isSome then 2 else 1) * 2 ^ 58 + e.tier % 4 * 2 ^ 56 + b1 compressed * 2 ^ 48
    + b1 f.truncated * 2 ^ 49 + b1 f.expired * 2 ^ 50 + b1 f.poisoned * 2 ^ 51 + b1 e.prescaled * 2 ^ 52
    + b1 e.merged * 2 ^ 53 + b1 f.late * 2 ^ 54 + b1 f.gap * 2 ^ 55 + number % 2 ^ 48
  let w1 := keyFine a + keySecond a % 2 ^ 24 * 2 ^ 40
  let w2 := keyFine b + b1 (decide (keySecond a < keySecond b)) * 2 ^ 40
    + (match e.chain with
      | some (tag, i, last) => i % 64 * 2 ^ 41 + b1 last * 2 ^ 47 + tag % 2 ^ 16 * 2 ^ 48
      | none => 2 ^ 47)
  let w3 := e.numbers.headD 0 % 2 ^ 32 + (e.numbers.length - 1) % 8 * 2 ^ 32 + bodyWords % 2 ^ 28 * 2 ^ 36
  [w0, w1, w2, w3].map (BitVec.ofNat 64) ++ lists 4 (e.numbers.drop 1)
where
  lists : Nat → List Nat → List Word
    | 0, _ => []
    | _, [] => []
    | _, [x] => [BitVec.ofNat 64 (x % 2 ^ 32)]
    | n + 1, x :: y :: rest => BitVec.ofNat 64 (x % 2 ^ 32 + y % 2 ^ 32 * 2 ^ 32) :: lists n rest

/-- The trailer. -/
def recordTail (body : List Word) : Word :=
  BitVec.ofNat 64 (crc32c (body.flatMap wordBytes) + body.length % 2 ^ 28 * 2 ^ 32 + 0xF * 2 ^ 60)

/-- `size` bytes are written to the record store, and the blocks passed are marked written (R246). -/
def Conc.storeBlocks (c : Conc) (size : Nat) : Conc :=
  let x := c.caro
  let a := x.storeAddr x.storeWr / writtenBlock * writtenBlock
  let b := x.storeAddr (x.storeWr + size)
  let c := c.withMem fun m =>
    if (x.storeWr + size) / x.storeBytes = x.storeWr / x.storeBytes then m.markWritten a b
    else (m.markWritten a x.storeEnd).markWritten x.storeBase b
  c.withCaro fun x => { x with storeWr := x.storeWr + size }

/-- Put a record of an entry into the record store (R287). -/
def Conc.storeRecord (c : Conc) (e : QEntry) (a b : Nat) (body sent : List (Word × Bool)) (compressed : Bool) (f : RecFlags) : Conc :=
  let n := c.caro.nextRecord
  let ws := plainWords (recordHead e a b n sent.length compressed f)
    ++ sent.map (fun w => (w.1, b1 compressed + b1 w.2 * 2)) ++ plainWords [recordTail (body.map Prod.fst)]
  let size := 8 * ws.length
  let off := c.caro.storeWr
  ((c.storeWords off ws.length).storeBlocks size).withCaro fun x =>
    { x with records := x.records ++ [{ number := n, words := ws, bytes := size, off := off }], nextRecord := (n + 1) % 2 ^ 48,
             use := x.use + size, usePeak := max x.usePeak (x.use + size),
             queue := x.queue.filter fun y => y.id ≠ e.id }

/-- A discontinuity of an enabled port meets the window (R283). -/
def Conc.gapIn (c : Conc) (a b : Nat) : Bool :=
  (List.range 48).any fun p => bitAt (c.get O.portEnable) p && (c.gport p).disc.any fun d =>
    decide (d.1 ≤ b) && (match d.2 with | some h => decide (a ≤ h) | none => true)

/-- The runs that the directory leads to for a window. -/
def Carousel.lateRuns (x : Carousel) (a b : Nat) : List RRun :=
  let offs := x.dir.filter fun d => d.lo ≤ b ∧ a ≤ d.hi
  x.runs.filter fun r => !r.run.unplaced && (offs.any fun d => decide (d.off ≤ r.off) && decide (r.off < d.stop))
    && r.run.words.any fun w => decide (a ≤ w.1) && decide (w.1 ≤ b)

/-- The main-stream words of the sub-slot that starts at `k`. -/
def Conc.slotWords (c : Conc) (k : Nat) : List RWord := c.caro.main.filter fun w => k ≤ w.key ∧ subSlotOf w.key = k

/-- An extraction reads the sub-slot it stands at, each word through its code (R247): the words inside the window are kept if
the bucket is still held (R209). -/
def Conc.readSlot (c : Conc) (x : Extraction) : Conc × Extraction :=
  let y := { x with pos := c.subSlotNext x.pos, endTail := c.caro.tail }
  let k := bucketOf x.pos
  if k < c.caro.tail ∨ k ∈ c.caro.lost then (c, { y with missed := true })
  else
    let ws := c.slotWords x.pos
    let c := ws.foldl (fun c w => c.ringRead w.off 1) c
    let now := (ws.filter fun w => x.a ≤ w.key ∧ w.key ≤ x.b).map fun w => (w.word, c.ringPoisoned w.off)
    (c, { y with kept := x.kept ++ now, begun := some (x.begun.getD (max x.a x.pos)), read := Bank.set 0 x.read k c.caro.wr })

/-- An extraction reads on: to the end of its window, or as far as its credit goes. -/
def Conc.readSlots (all : Bool) : Nat → Conc → Extraction → Conc × Extraction
  | 0, c, x => (c, x)
  | fuel + 1, c, x =>
    let cost := 24 * (c.slotWords x.pos).length
    if x.b < x.pos ∨ (all = false ∧ x.credit < cost) then (c, x)
    else
      let r := c.readSlot { x with credit := x.credit - cost }
      Conc.readSlots all fuel r.1 r.2

/-- More sub-slots than any window has. -/
def windowSlots : Nat := 104

/-- Live Marver units (R266). (DEDUCED, log entry 25) -/
def Conc.marverLive (c : Conc) : Nat := ((List.range 8).filter fun u => (c.health 0x05 u).st ≠ .retired).length

/-- The bytes of a record's body that an extraction has read: its frame mark and the words kept. -/
def Extraction.bytes (x : Extraction) : Nat := 8 * (x.kept.length + 1)

/-- A block of a record waits for a unit: its bytes are read, all of them or, of the last one, what is left (R278). -/
def Extraction.blockReady (x : Extraction) : Bool :=
  decide (0 < x.blockSize) && (decide ((x.blocks + 1) * x.blockSize ≤ x.bytes) || decide (x.b < x.pos ∧ x.blocks * x.blockSize < x.bytes))

/-- The ticks that a unit takes for a block of `n` bytes: 64 bytes in a base tick (R266). -/
def blockTicks (n : Nat) : Nat := (n + 63) / 64

/-- The extraction on channel `ch` gives the blocks that it has read to free units, up to `fuel` of them (R267, R278); it waits for
a unit when it holds none and has a block. (DEDUCED, log entry 25) -/
def Conc.giveBlocks (ch : Nat) : Nat → Conc → Extraction → Conc
  | 0, c, x => c.withCaro fun y => { y with extracting := Bank.set none y.extracting ch (some x) }
  | fuel + 1, c, x =>
    let keep (x : Extraction) : Conc := c.withCaro fun y => { y with extracting := Bank.set none y.extracting ch (some x) }
    if x.blockReady = false then keep { x with waits := false }
    else match (List.range 8).find? fun u => c.unitFree u with
      | none => keep { x with waits := x.units.isEmpty }
      | some u =>
        let n := min x.blockSize (x.bytes - x.blocks * x.blockSize)
        let x := { x with units := x.units ++ [(u, c.tick + blockTicks n)], blocks := x.blocks + 1, waits := false }
        Conc.giveBlocks ch fuel (keep x) x

/-- The units whose blocks have ended are free, and take the next blocks that have been read (R278). -/
def Conc.blocksOn (c : Conc) : Conc :=
  let c := c.withCaro fun y => { y with extracting := Bank.mapVals none (fun _ o => o.map fun x =>
    { x with units := x.units.filter fun u => c.tick < u.2 }) y.extracting }
  [28, 29, 30, 31].foldl (fun c ch => match Bank.get none c.caro.extracting ch with
    | some x => if x.blockSize = 0 then c else Conc.giveBlocks ch 8 c x
    | none => c) c

/-- The extractions' reads in one base tick: 64 GB/s are 2,048 third parts of bytes per base tick, for the lowest channel
whose window is not read to its end (R208). (DESIGN CHOICE, log entry 52) -/
def Conc.extractTick (c : Conc) : Conc :=
  let c : Conc := match List.find? (fun y => y.2.any fun x => decide (x.pos ≤ x.b)) c.caro.extracting with
    | some (ch, some x) =>
      let r := Conc.readSlots false windowSlots c { x with credit := x.credit + 2048 }
      r.1.withCaro fun y => { y with extracting := Bank.set none y.extracting ch (some r.2) }
    | _ => c
  c.blocksOn

/-- A run of late words in a record, whether its tag was poisoned and which of its words were. -/
abbrev RecordRun := LateRun × Bool × List Bool

/-- The late words of a run that an extraction adds: those inside the window that were in the ring when their bucket was read
(R209, R283). -/
def Conc.lateWords (c : Conc) (x : Extraction) (a : Nat) (r : RRun) : RecordRun :=
  let ws := (r.run.words.zipIdx).filter fun w =>
    a ≤ w.1.1 ∧ w.1.1 ≤ x.b ∧ r.off < Bank.get 0 x.read (bucketOf w.1.1)
  ({ r.run with words := ws.map Prod.fst }, c.ringPoisoned r.off, ws.map fun w => c.ringPoisoned (r.off + 1 + w.2))

/-- Late words join the run of their port and frame (R283), of at most 32,767 words. -/
def joinRun : List RecordRun → RecordRun → List RecordRun
  | gs, (⟨_, _, _, _, []⟩, _, _) => gs
  | [], r => [r]
  | g :: rest, r =>
    if g.1.port = r.1.port ∧ g.1.second = r.1.second ∧ g.1.frame = r.1.frame ∧ g.1.words.length + r.1.words.length ≤ 32767 then
      ({ g.1 with words := g.1.words ++ r.1.words }, g.2.1 || r.2.1, g.2.2 ++ r.2.2) :: rest
    else g :: joinRun rest r

/-- A run as it stands in a record, behind its tag. -/
def recordRun (g : RecordRun) : List (Word × Bool) := (lateTag g.1, g.2.1) :: (g.1.words.map Prod.snd).zip g.2.2

/-- The late words of an extraction whose record begins at key `a`, each run read through its code. -/
def Conc.readLate (c : Conc) (x : Extraction) (a : Nat) : List (Word × Bool) × Conc :=
  let rs := c.caro.lateRuns a x.b
  let c := rs.foldl (fun c r => c.ringRead r.off (r.run.words.length + 1)) c
  (((rs.map (c.lateWords x a)).foldl joinRun []).flatMap recordRun, c)

/-- The mark of the frame that contains a window's start, read through its code (R247, R283). (DEDUCED, log entry 23) -/
def Conc.headMark (c : Conc) (a : Nat) : (Word × Bool) × Conc :=
  let k := keyFine a / 2 ^ 34
  match c.caro.main.find? fun w => w.rank = 0 ∧ w.key = mergeKey (keySecond a) (k * 2 ^ 34) with
  | some w => let d := c.ringRead w.off 1; ((w.word, d.ringPoisoned w.off), d)
  | none => ((frameMark (keySecond a) k c.time.state, false), c)

/-- A body compressed in blocks of `n` words on the stream of Carousel channel `ch`, 28 to 31 (R278), and the body as stored.  The
words of a block in which a word was read from a poisoned sector are marked so (R281). -/
def Conc.compressBody (c : Conc) (ch n : Nat) (body : List (Word × Bool)) : List (Word × Bool) × Bool × Conc :=
  let out := compressWords (56 + 2 * (ch - 28)) n (body.length + 1) body
  let c := (c.count O.inputBytes 0 (8 * body.length)).count O.jobs
  if out.length < body.length then (out, true, c.count O.outputBytes 0 (8 * out.length))
  else (body, false, c.count O.noGain)

/-! ## Extraction (R208, R209) -/

/-- The lowest trigger number that an entry lists. (DEDUCED, log entry 22) -/
def QEntry.lowest (e : QEntry) : Nat := e.numbers.foldl min (e.numbers.headD 0)

/-- The next READY entry in the order of R208; one that a trigger has merged into in this base tick waits for the next, for
a merge in the tick of an extraction's start would not take place (R211). (DESIGN CHOICE, log entry 52) -/
def Conc.nextReady (c : Conc) : Option QEntry :=
  c.caro.queue.foldl (fun best e =>
    match e.ready with
    | none => best
    | some t =>
      if e.extracting ∨ e.merged? = some c.tick then best
      else match best with
        | none => some e
        | some y =>
          let u := y.ready.getD 0
          if e.tier < y.tier ∨ (e.tier = y.tier ∧ (t < u ∨ (t = u ∧ e.lowest < y.lowest))) then some e
          else best) none

/-- The record store admits an extraction of a tier. -/
def Conc.storeAdmits (c : Conc) (tier : Nat) : Bool :=
  let x := c.caro
  if tier = 0 then decide (x.use < x.storeBytes)
  else decide (x.use * 100 < (100 - c.get O.tierAReserve) * x.storeBytes)

/-- EXTRACTION_START on Carousel channel `ch`, 28 to 31. -/
def Conc.extractionStart (c : Conc) (ch : Nat) : Conc :=
  if (Bank.get none c.caro.extracting ch).isSome then c
  else match c.nextReady with
    | some e =>
      if c.storeAdmits e.tier then
        let b := match e.cut with | some h => min e.b h | none => e.b
        let t := c.caro.tail
        (c.setEntry { e with extracting := true }).withCaro fun x =>
          { x with extracting := Bank.set none x.extracting ch
                     (some { entry := e.id, tail := t, a := max e.a t, b := b, pos := subSlotOf (max e.a t), endTail := t,
                             blockSize := if bitAt (c.get O.compressTiers) e.tier then c.get O.recordBlockSize else 0 }) }
      else c
    | none => c

/-- The body of an expired record (R285): the earliest time held. (DEDUCED, log entry 23) -/
def expiredBody (tail : Nat) : List (Word × Bool) := [(BitVec.ofNat 64 (keyFine tail + keySecond tail % 2 ^ 24 * 2 ^ 40), false)]

/-- An extraction whose window is read becomes its record (R209): expired where the window lay before the tail at its start, or
the head overtook every sub-slot of it; else from the first sub-slot kept.  The record of an entry whose fill timed out with H before
its start holds no hit word and is truncated (R207). (DEDUCED, log entry 23) -/
def Conc.extract (c : Conc) (ch : Nat) (x : Extraction) (e : QEntry) : Conc :=
  let gap := c.gapIn e.a e.b
  let begun := if x.begun.isNone ∧ e.cut.isSome ∧ x.b < e.a ∧ x.tail ≤ x.b then some e.a else x.begun
  match begun with
  | none =>
    let body := expiredBody (if x.b < x.tail then x.tail else x.endTail)
    (c.storeRecord e e.a e.b body body false { expired := true, gap := gap }).count O.expired
  | some a =>
    let short := decide (e.a < a) || e.cut.isSome || x.missed
    let l := c.readLate x a
    let h := l.2.headMark a
    let c := h.2
    let body := h.1 :: x.kept ++ l.1
    let f : RecFlags := { truncated := short, poisoned := body.any Prod.snd, late := !l.1.isEmpty, gap := gap }
    let r := if 0 < x.blockSize then c.compressBody ch (x.blockSize / 8) body else (body, false, c)
    (r.2.2.storeRecord e a x.b body r.1 r.2.1 f).count (if short then O.truncated else O.complete)

/-- EXTRACTION_COMPLETE: what is not yet read is read and compressed; the record waits while the store has no room for it, or while
it has a block to compress, holds no Marver unit and none is free (R267). (DEDUCED, log entry 23). (DEDUCED, log entry 25) -/
def Conc.extractionComplete (c : Conc) (ch : Nat) : Conc :=
  match Bank.get none c.caro.extracting ch with
  | none => c
  | some x =>
    let on (c : Conc) (x : Option Extraction) : Conc := c.withCaro fun y => { y with extracting := Bank.set none y.extracting ch x }
    match c.entry x.entry with
    | none => on c none
    | some e =>
      let r := Conc.readSlots true windowSlots c x
      let c := if r.2.blockSize = 0 then on r.1 (some r.2) else Conc.giveBlocks ch 8 (on r.1 (some r.2)) r.2
      let stuck : Bool := match Bank.get none c.caro.extracting ch with | some y => y.waits | none => false
      if stuck then c
      else
        let d := c.extract ch r.2 e
        if d.caro.storeBytes < d.caro.use then c else on d none

/-! ## Prescaling grids (R210)

Their points are values of the counter.  An alignment moves the counter, and the next point after it counts (`Conc.regrid`). -/

/-- The store holds more than, or less than, a percentage. -/
def Carousel.above (x : Carousel) (pc : Nat) : Bool := decide (pc * x.storeBytes < x.use * 100)
def Carousel.below (x : Carousel) (pc : Nat) : Bool := decide (x.use * 100 < pc * x.storeBytes)

def Conc.setK (c : Conc) (tier k : Nat) : Conc :=
  if tier = 1 then c.withCaro fun x => { x with kB := k, countB := 0 } else c.withCaro fun x => { x with kC := k, countC := 0 }

/-- PRESCALE_GRID_1MS. -/
def Conc.grid1 (c : Conc) : Conc :=
  let x := c.caro
  if x.running = false ∨ c.counterNow < x.grid1 then c
  else
    let c := c.withCaro fun x => { x with grid1 := x.grid1 + msCount }
    if x.above (c.get O.highWater) then
      if x.kC < c.get O.prescaleMaxExp then c.setK 2 (x.kC + 1)
      else if x.kB < c.get O.prescaleMaxExp then c.setK 1 (x.kB + 1)
      else c
    else c

/-- PRESCALE_GRID_10MS. -/
def Conc.grid10 (c : Conc) : Conc :=
  let x := c.caro
  if x.running = false ∨ c.counterNow < x.grid10 then c
  else
    let c := c.withCaro fun x => { x with grid10 := x.grid10 + 10 * msCount }
    if x.below (c.get O.lowWater) then
      if 0 < x.kB then c.setK 1 (x.kB - 1) else if 0 < x.kC then c.setK 2 (x.kC - 1) else c
    else c

/-- A lowered maximum clips the exponents at once (R212). -/
def Conc.clipK (c : Conc) : Conc :=
  let m := c.get O.prescaleMaxExp
  let c := if m < c.caro.kB then c.setK 1 m else c
  if m < c.caro.kC then c.setK 2 m else c

/-! ## Start and stop (R191, R195, R196, R239) -/

/-- The sizes of a start: the new ones, unless they would take pages of the task pool in use or move a record store that
still holds records. -/
def Conc.takeSizes (c : Conc) : Conc :=
  let y := c.nextSizes
  let fits := c.mem.pool.all fun x => decide ((4 + y.regionGiB) * 2 ^ 30 ≤ x.start)
  let still := decide (c.caro.use = 0) ||
    decide (y.storeBase = c.caro.storeBase ∧ y.storeLeftOut = c.caro.storeLeftOut ∧ c.caro.storeSize ≤ y.storeSize)
  if fits ∧ still then (c.withCaro fun _ => y).put O.carouselSizePending 0
  else c.put O.carouselSizePending 1

/-- CAROUSEL_START. -/
def Conc.carouselStart (c : Conc) : Conc :=
  if c.caro.running then c
  else
    let c := c.takeSizes
    let b := bucketOf c.gather.h
    c.withCaro fun x =>
      { x with running := true, wr := 0, main := [], runs := [], dir := [], lost := [], index := [{ bucket := b, off := 0 }], head := b, tail := b,
               lapped := false, kB := 0, kC := 0, countB := 0, countC := 0, nextTrigger := 0, nextRecord := 0,
               grid1 := c.counterNow + msCount, grid10 := c.counterNow + 10 * msCount, extracting := [] }

/-- CAROUSEL_STOP: the ring and the unsent records are discarded, and every entry ends as an expired record. -/
def Conc.carouselStop (c : Conc) : Conc :=
  if c.caro.running = false then c
  else
    let lost := c.caro.records
    let c := lost.foldl (fun c r =>
      (c.emit0 (BitVec.ofNat 64 (0x28 * 2 ^ 56 + r.number % 2 ^ 48))).count O.recordsLost) c
    let c := c.withCaro fun x => { x with running := false, main := [], runs := [], dir := [], lost := [], index := [], records := [], extracting := [],
                                          use := x.use - lost.foldl (fun n r => n + r.bytes) 0 }
    let body : List (Word × Bool) := [(BitVec.ofNat 64 (2 ^ 64 - 1), false)]
    c.caro.queue.foldl (fun c e =>
      (c.storeRecord e e.a e.b body body false { expired := true, gap := c.gapIn e.a e.b }).count O.expired) c

/-- A write of `CarouselEnable`. (DEDUCED, log entry 23) -/
def Conc.writeCarouselEnable (c : Conc) (v : Nat) : Conc :=
  let c := c.put O.carouselEnable v
  if v = 1 then c.carouselStart else c.carouselStop

/-- Percent of the record store in use, to the nearest (R505). -/
def Carousel.percent (x : Carousel) (n : Nat) : Nat := min 100 (roundDiv (n * 100 : Nat) x.storeBytes).toNat

/-- A read of `TailKey` latches tail, head and depth. -/
def Conc.latchCarousel (c : Conc) : Conc := c.withCaro fun x => { x with latch := (x.tail, x.head, c.depth) }

end Sys2Proof.Machine
end

