-- ==== Sys2Proof/Machine/Riscv.lean ====
section
/-! DEFINITION. The ordinary instructions of an engine (R216): RV64I, M, A and C with Zicsr, Zifencei, Zba and Zbb, in
U-mode, and the encodings of Xqtm (R219).  Their encodings and results are those of the RISC-V architecture, which the
spec names and does not repeat (PRESUMED, log entry 3).  Values are numbers below 2^64. -/

namespace Sys2Proof.Machine

/-- The two-operand operations of the integer, multiply, Zba and Zbb sets. -/
inductive AluOp where
  | add | sub | sll | slt | sltu | xor | srl | sra | or | and
  | mul | mulh | mulhsu | mulhu | div | divu | rem | remu
  | addw | subw | sllw | srlw | sraw | mulw | divw | divuw | remw | remuw
  | andn | orn | xnor | rol | ror | rolw | rorw | min | minu | max | maxu
  | adduw | sh1add | sh2add | sh3add | sh1adduw | sh2adduw | sh3adduw | slliuw
  deriving DecidableEq, Repr

/-- The one-operand operations of Zbb. -/
inductive UnOp where
  | clz | ctz | cpop | clzw | ctzw | cpopw | sextb | sexth | zexth | orcb | rev8
  deriving DecidableEq, Repr

inductive Cond where
  | eq | ne | lt | ge | ltu | geu
  deriving DecidableEq, Repr

inductive AmoOp where
  | swap | add | xor | and | or | min | max | minu | maxu
  deriving DecidableEq, Repr

/-- The instructions of Xqtm (R219). -/
inductive QOp where
  | qpop | qpeek | qtime (sel : Nat) | qhist | qtrig | qemit | qwait | qslice
  deriving DecidableEq, Repr

/-- A decoded instruction; immediates and offsets are 64-bit values. -/
inductive Rv where
  | alu (op : AluOp) (rd rs1 rs2 : Nat)
  | aluImm (op : AluOp) (rd rs1 imm : Nat)
  | unary (op : UnOp) (rd rs1 : Nat)
  | lui (rd imm : Nat)
  | auipc (rd imm : Nat)
  | jal (rd off : Nat)
  | jalr (rd rs1 imm : Nat)
  | branch (c : Cond) (rs1 rs2 off : Nat)
  | load (bytes : Nat) (signed : Bool) (rd rs1 imm : Nat)
  | store (bytes rs1 rs2 imm : Nat)
  | lr (bytes rd rs1 : Nat)
  | sc (bytes rd rs1 rs2 : Nat)
  | amo (op : AmoOp) (bytes rd rs1 rs2 : Nat)
  | fence
  | ecall
  | ebreak
  | csr (rd addr : Nat)
  | xqtm (op : QOp) (rd rs1 rs2 : Nat)
  deriving DecidableEq, Repr

/-! ## Arithmetic -/

def wrap (v : Nat) : Nat := v % 2 ^ 64

/-- A signed value as a 64-bit number. -/
def wrapI (v : Int) : Nat := ofSigned 64 v

/-- Sign-extend the low `w` bits to 64. -/
def sext (w v : Nat) : Nat := ofSigned 64 (toSigned w v)

/-- Ones among the low `n` bits. -/
def ones : Nat → Nat → Nat
  | 0, _ => 0
  | n + 1, v => v % 2 + ones n (v / 2)

/-- Zeros below the lowest one of `n` bits. -/
def trailing : Nat → Nat → Nat
  | 0, _ => 0
  | n + 1, v => if v % 2 = 1 then 0 else 1 + trailing n (v / 2)

/-- Zeros above the highest one of `n` bits. -/
def leading : Nat → Nat → Nat
  | 0, _ => 0
  | n + 1, v => if bitAt v n then 0 else 1 + leading n v

def rotl (w v n : Nat) : Nat := (v % 2 ^ w * 2 ^ (n % w) + v % 2 ^ w / 2 ^ (w - n % w)) % 2 ^ w

/-- Signed division, remainder and their corner cases: by zero all ones and the dividend; overflow wraps. -/
def sdiv (w a b : Nat) : Nat := if b % 2 ^ w = 0 then 2 ^ w - 1 else ofSigned w ((toSigned w a).tdiv (toSigned w b))
def srem (w a b : Nat) : Nat := if b % 2 ^ w = 0 then a % 2 ^ w else ofSigned w ((toSigned w a).tmod (toSigned w b))
def udiv (w a b : Nat) : Nat := if b % 2 ^ w = 0 then 2 ^ w - 1 else a % 2 ^ w / (b % 2 ^ w)
def urem (w a b : Nat) : Nat := if b % 2 ^ w = 0 then a % 2 ^ w else a % 2 ^ w % (b % 2 ^ w)

/-- Arithmetic shift right of the low `w` bits. -/
def asr (w v n : Nat) : Nat := ofSigned w (toSigned w v / (2 ^ n : Nat))

def AluOp.eval (op : AluOp) (a b : Nat) : Nat :=
  let lt := decide (toSigned 64 a < toSigned 64 b)
  match op with
  | .add => wrap (a + b)
  | .sub => wrap (a + 2 ^ 64 - b)
  | .sll => wrap (a * 2 ^ (b % 64))
  | .slt => b1 lt
  | .sltu => b1 (decide (a < b))
  | .xor => a ^^^ b
  | .srl => a / 2 ^ (b % 64)
  | .sra => asr 64 a (b % 64)
  | .or => a ||| b
  | .and => a &&& b
  | .mul => wrap (a * b)
  | .mulh => wrapI (toSigned 64 a * toSigned 64 b / (2 ^ 64 : Nat))
  | .mulhsu => wrapI (toSigned 64 a * b / (2 ^ 64 : Nat))
  | .mulhu => a * b / 2 ^ 64
  | .div => sdiv 64 a b
  | .divu => udiv 64 a b
  | .rem => srem 64 a b
  | .remu => urem 64 a b
  | .addw => sext 32 (a + b)
  | .subw => sext 32 (a + 2 ^ 64 - b)
  | .sllw => sext 32 (a * 2 ^ (b % 32))
  | .srlw => sext 32 (a % 2 ^ 32 / 2 ^ (b % 32))
  | .sraw => sext 32 (asr 32 a (b % 32))
  | .mulw => sext 32 (a * b)
  | .divw => sext 32 (sdiv 32 a b)
  | .divuw => sext 32 (udiv 32 a b)
  | .remw => sext 32 (srem 32 a b)
  | .remuw => sext 32 (urem 32 a b)
  | .andn => a &&& (2 ^ 64 - 1 - b)
  | .orn => a ||| (2 ^ 64 - 1 - b)
  | .xnor => 2 ^ 64 - 1 - (a ^^^ b)
  | .rol => rotl 64 a (b % 64)
  | .ror => rotl 64 a (64 - b % 64)
  | .rolw => sext 32 (rotl 32 a (b % 32))
  | .rorw => sext 32 (rotl 32 a (32 - b % 32))
  | .min => if lt then a else b
  | .minu => Nat.min a b
  | .max => if lt then b else a
  | .maxu => Nat.max a b
  | .adduw => wrap (a % 2 ^ 32 + b)
  | .sh1add => wrap (2 * a + b)
  | .sh2add => wrap (4 * a + b)
  | .sh3add => wrap (8 * a + b)
  | .sh1adduw => wrap (2 * (a % 2 ^ 32) + b)
  | .sh2adduw => wrap (4 * (a % 2 ^ 32) + b)
  | .sh3adduw => wrap (8 * (a % 2 ^ 32) + b)
  | .slliuw => wrap (a % 2 ^ 32 * 2 ^ (b % 64))

def UnOp.eval (op : UnOp) (a : Nat) : Nat :=
  match op with
  | .clz => leading 64 a
  | .ctz => trailing 64 a
  | .cpop => ones 64 a
  | .clzw => leading 32 (a % 2 ^ 32)
  | .ctzw => trailing 32 a
  | .cpopw => ones 32 a
  | .sextb => sext 8 a
  | .sexth => sext 16 a
  | .zexth => a % 2 ^ 16
  | .orcb => ofBytes ((toBytes 8 a).map fun b => if b = 0 then 0 else 255)
  | .rev8 => ofBytes (toBytes 8 a).reverse

def Cond.eval (c : Cond) (a b : Nat) : Bool :=
  match c with
  | .eq => a == b
  | .ne => a != b
  | .lt => decide (toSigned 64 a < toSigned 64 b)
  | .ge => decide (toSigned 64 b ≤ toSigned 64 a)
  | .ltu => decide (a < b)
  | .geu => decide (b ≤ a)

/-- The value an AMO stores, `w` bits wide. (PRESUMED, log entry 3) -/
def AmoOp.eval (op : AmoOp) (w a b : Nat) : Nat :=
  let a := a % 2 ^ w
  let b := b % 2 ^ w
  let lt := decide (toSigned w a < toSigned w b)
  match op with
  | .swap => b
  | .add => (a + b) % 2 ^ w
  | .xor => a ^^^ b
  | .and => a &&& b
  | .or => a ||| b
  | .min => if lt then a else b
  | .max => if lt then b else a
  | .minu => Nat.min a b
  | .maxu => Nat.max a b

/-! ## Decoding of 32-bit instructions -/

def immI (w : Nat) : Nat := sext 12 (bits w 31 20)
def immS (w : Nat) : Nat := sext 12 (bits w 31 25 * 32 + bits w 11 7)
def immB (w : Nat) : Nat :=
  sext 13 (bits w 31 31 * 4096 + bits w 7 7 * 2048 + bits w 30 25 * 32 + bits w 11 8 * 2)
def immU (w : Nat) : Nat := sext 32 (bits w 31 12 * 4096)
def immJ (w : Nat) : Nat :=
  sext 21 (bits w 31 31 * 2 ^ 20 + bits w 19 12 * 4096 + bits w 20 20 * 2048 + bits w 30 21 * 2)

/-- Register-register operations (major opcode 0x33), by funct7 and funct3. -/
def opOf (f7 f3 : Nat) : Option AluOp :=
  match f7, f3 with
  | 0x00, 0 => some .add | 0x00, 1 => some .sll | 0x00, 2 => some .slt | 0x00, 3 => some .sltu
  | 0x00, 4 => some .xor | 0x00, 5 => some .srl | 0x00, 6 => some .or | 0x00, 7 => some .and
  | 0x20, 0 => some .sub | 0x20, 5 => some .sra | 0x20, 7 => some .andn | 0x20, 6 => some .orn | 0x20, 4 => some .xnor
  | 0x01, 0 => some .mul | 0x01, 1 => some .mulh | 0x01, 2 => some .mulhsu | 0x01, 3 => some .mulhu
  | 0x01, 4 => some .div | 0x01, 5 => some .divu | 0x01, 6 => some .rem | 0x01, 7 => some .remu
  | 0x10, 2 => some .sh1add | 0x10, 4 => some .sh2add | 0x10, 6 => some .sh3add
  | 0x05, 4 => some .min | 0x05, 5 => some .minu | 0x05, 6 => some .max | 0x05, 7 => some .maxu
  | 0x30, 1 => some .rol | 0x30, 5 => some .ror
  | _, _ => none

/-- Word operations (major opcode 0x3B). -/
def op32Of (f7 f3 : Nat) : Option AluOp :=
  match f7, f3 with
  | 0x00, 0 => some .addw | 0x00, 1 => some .sllw | 0x00, 5 => some .srlw
  | 0x20, 0 => some .subw | 0x20, 5 => some .sraw
  | 0x01, 0 => some .mulw | 0x01, 4 => some .divw | 0x01, 5 => some .divuw | 0x01, 6 => some .remw | 0x01, 7 => some .remuw
  | 0x04, 0 => some .adduw
  | 0x10, 2 => some .sh1adduw | 0x10, 4 => some .sh2adduw | 0x10, 6 => some .sh3adduw
  | 0x30, 1 => some .rolw | 0x30, 5 => some .rorw
  | _, _ => none

/-- Immediate operations (major opcode 0x13). -/
def decodeImm (w rd rs1 : Nat) : Option Rv :=
  let i := immI w
  let f6 := bits w 31 26
  let sh := bits w 25 20
  match bits w 14 12 with
  | 0 => some (.aluImm .add rd rs1 i)
  | 2 => some (.aluImm .slt rd rs1 i)
  | 3 => some (.aluImm .sltu rd rs1 i)
  | 4 => some (.aluImm .xor rd rs1 i)
  | 6 => some (.aluImm .or rd rs1 i)
  | 7 => some (.aluImm .and rd rs1 i)
  | 1 =>
    if f6 = 0 then some (.aluImm .sll rd rs1 sh)
    else match bits w 31 20 with
      | 0x600 => some (.unary .clz rd rs1)
      | 0x601 => some (.unary .ctz rd rs1)
      | 0x602 => some (.unary .cpop rd rs1)
      | 0x604 => some (.unary .sextb rd rs1)
      | 0x605 => some (.unary .sexth rd rs1)
      | _ => none
  | _ =>
    if f6 = 0 then some (.aluImm .srl rd rs1 sh)
    else if f6 = 0x10 then some (.aluImm .sra rd rs1 sh)
    else if f6 = 0x18 then some (.aluImm .ror rd rs1 sh)
    else match bits w 31 20 with
      | 0x287 => some (.unary .orcb rd rs1)
      | 0x6B8 => some (.unary .rev8 rd rs1)
      | _ => none

/-- Word immediate operations (major opcode 0x1B). -/
def decodeImm32 (w rd rs1 : Nat) : Option Rv :=
  let f7 := bits w 31 25
  let sh := bits w 24 20
  match bits w 14 12 with
  | 0 => some (.aluImm .addw rd rs1 (immI w))
  | 1 =>
    if f7 = 0 then some (.aluImm .sllw rd rs1 sh)
    else if bits w 31 26 = 2 then some (.aluImm .slliuw rd rs1 (bits w 25 20))
    else match bits w 31 20 with
      | 0x600 => some (.unary .clzw rd rs1)
      | 0x601 => some (.unary .ctzw rd rs1)
      | 0x602 => some (.unary .cpopw rd rs1)
      | _ => none
  | 5 =>
    if f7 = 0 then some (.aluImm .srlw rd rs1 sh)
    else if f7 = 0x20 then some (.aluImm .sraw rd rs1 sh)
    else if f7 = 0x30 then some (.aluImm .rorw rd rs1 sh)
    else none
  | _ => none

/-- Atomic operations (major opcode 0x2F). -/
def decodeAmo (w rd rs1 rs2 : Nat) : Option Rv :=
  let f3 := bits w 14 12
  if f3 ≠ 2 ∧ f3 ≠ 3 then none
  else
    let n := if f3 = 2 then 4 else 8
    let amo (op : AmoOp) : Option Rv := some (.amo op n rd rs1 rs2)
    match bits w 31 27 with
    | 0x02 => if rs2 = 0 then some (.lr n rd rs1) else none
    | 0x03 => some (.sc n rd rs1 rs2)
    | 0x01 => amo .swap
    | 0x00 => amo .add
    | 0x04 => amo .xor
    | 0x0C => amo .and
    | 0x08 => amo .or
    | 0x10 => amo .min
    | 0x14 => amo .max
    | 0x18 => amo .minu
    | 0x1C => amo .maxu
    | _ => none

/-- The user counters, read-only (R216): an access that would write them is illegal. -/
def decodeCsr (w rd rs1 : Nat) : Option Rv :=
  let f3 := bits w 14 12 % 4
  let a := bits w 31 20
  if (f3 = 2 ∨ f3 = 3) ∧ rs1 = 0 ∧ (a = 0xC00 ∨ a = 0xC01 ∨ a = 0xC02) then some (.csr rd a) else none

/-- The custom-0 encodings (R219). -/
def decodeXqtm (w rd rs1 rs2 : Nat) : Option Rv :=
  let f7 := bits w 31 25
  let f3 := bits w 14 12
  let q (op : QOp) (ok : Bool) : Option Rv := if ok then some (.xqtm op rd rs1 rs2) else none
  match f3 with
  | 0 => q .qpop (f7 == 0 && rs2 == 0 && rs1 == 0)
  | 1 => q .qpeek (f7 == 0 && rs2 == 0)
  | 2 => q (.qtime f7) (decide (f7 ≤ 4) && rs2 == 0 && rs1 == 0)
  | 3 => q .qhist (f7 == 0)
  | 4 => q .qtrig (f7 == 0)
  | 5 => q .qemit (f7 == 0 && rs2 == 0 && rd == 0)
  | 6 => q .qwait (f7 == 0 && rs2 == 0)
  | _ => q .qslice (f7 == 0 && rs2 == 0 && rs1 == 0)

/-- A 32-bit instruction; none is an illegal instruction. (PRESUMED, log entry 3) -/
def decode32 (w : Nat) : Option Rv :=
  let rd := bits w 11 7
  let rs1 := bits w 19 15
  let rs2 := bits w 24 20
  let f3 := bits w 14 12
  let f7 := bits w 31 25
  match w % 128 with
  | 0x37 => some (.lui rd (immU w))
  | 0x17 => some (.auipc rd (immU w))
  | 0x6F => some (.jal rd (immJ w))
  | 0x67 => if f3 = 0 then some (.jalr rd rs1 (immI w)) else none
  | 0x63 =>
    match f3 with
    | 0 => some (.branch .eq rs1 rs2 (immB w))
    | 1 => some (.branch .ne rs1 rs2 (immB w))
    | 4 => some (.branch .lt rs1 rs2 (immB w))
    | 5 => some (.branch .ge rs1 rs2 (immB w))
    | 6 => some (.branch .ltu rs1 rs2 (immB w))
    | 7 => some (.branch .geu rs1 rs2 (immB w))
    | _ => none
  | 0x03 =>
    match f3 with
    | 0 => some (.load 1 true rd rs1 (immI w))
    | 1 => some (.load 2 true rd rs1 (immI w))
    | 2 => some (.load 4 true rd rs1 (immI w))
    | 3 => some (.load 8 false rd rs1 (immI w))
    | 4 => some (.load 1 false rd rs1 (immI w))
    | 5 => some (.load 2 false rd rs1 (immI w))
    | 6 => some (.load 4 false rd rs1 (immI w))
    | _ => none
  | 0x23 => if f3 ≤ 3 then some (.store (2 ^ f3) rs1 rs2 (immS w)) else none
  | 0x13 => decodeImm w rd rs1
  | 0x1B => decodeImm32 w rd rs1
  | 0x33 => (opOf f7 f3).map fun op => .alu op rd rs1 rs2
  | 0x3B =>
    if f7 = 0x04 ∧ f3 = 4 ∧ rs2 = 0 then some (.unary .zexth rd rs1)
    else (op32Of f7 f3).map fun op => .alu op rd rs1 rs2
  | 0x0F => if f3 ≤ 1 then some .fence else none
  | 0x73 =>
    if f3 = 0 then (if w = 0x00000073 then some .ecall else if w = 0x00100073 then some .ebreak else none)
    else if f3 = 4 then none
    else decodeCsr w rd rs1
  | 0x2F => decodeAmo w rd rs1 rs2
  | 0x0B => decodeXqtm w rd rs1 rs2
  | _ => none

/-! ## Decoding of 16-bit instructions -/

/-- A 16-bit instruction; none is an illegal instruction. (PRESUMED, log entry 3) -/
def decode16 (h : Nat) : Option Rv :=
  let f3 := bits h 15 13
  let rd := bits h 11 7
  let rs2 := bits h 6 2
  let rdp := 8 + bits h 4 2
  let rs1p := 8 + bits h 9 7
  let imm6 := sext 6 (bits h 12 12 * 32 + rs2)
  let sh := bits h 12 12 * 32 + rs2
  let uw := bits h 12 10 * 8 + bits h 6 6 * 4 + bits h 5 5 * 64
  let ud := bits h 12 10 * 8 + bits h 6 5 * 64
  match h % 4, f3 with
  | 0, 0 =>
    let u := bits h 12 11 * 16 + bits h 10 7 * 64 + bits h 6 6 * 4 + bits h 5 5 * 8
    if u = 0 then none else some (.aluImm .add rdp 2 u)
  | 0, 2 => some (.load 4 true rdp rs1p uw)
  | 0, 3 => some (.load 8 false rdp rs1p ud)
  | 0, 6 => some (.store 4 rs1p rdp uw)
  | 0, 7 => some (.store 8 rs1p rdp ud)
  | 1, 0 => some (.aluImm .add rd rd imm6)
  | 1, 1 => if rd = 0 then none else some (.aluImm .addw rd rd imm6)
  | 1, 2 => some (.aluImm .add rd 0 imm6)
  | 1, 3 =>
    if rd = 2 then
      let v := bits h 12 12 * 512 + bits h 6 6 * 16 + bits h 5 5 * 64 + bits h 4 3 * 128 + bits h 2 2 * 32
      if v = 0 then none else some (.aluImm .add 2 2 (sext 10 v))
    else if imm6 = 0 then none
    else some (.lui rd (wrap (imm6 * 4096)))
  | 1, 4 =>
    match bits h 11 10 with
    | 0 => some (.aluImm .srl rs1p rs1p sh)
    | 1 => some (.aluImm .sra rs1p rs1p sh)
    | 2 => some (.aluImm .and rs1p rs1p imm6)
    | _ =>
      match bits h 12 12, bits h 6 5 with
      | 0, 0 => some (.alu .sub rs1p rs1p rdp)
      | 0, 1 => some (.alu .xor rs1p rs1p rdp)
      | 0, 2 => some (.alu .or rs1p rs1p rdp)
      | 0, 3 => some (.alu .and rs1p rs1p rdp)
      | 1, 0 => some (.alu .subw rs1p rs1p rdp)
      | 1, 1 => some (.alu .addw rs1p rs1p rdp)
      | _, _ => none
  | 1, 5 =>
    let v := bits h 12 12 * 2048 + bits h 11 11 * 16 + bits h 10 9 * 256 + bits h 8 8 * 1024 + bits h 7 7 * 64
      + bits h 6 6 * 128 + bits h 5 3 * 2 + bits h 2 2 * 32
    some (.jal 0 (sext 12 v))
  | 1, n =>
    let v := bits h 12 12 * 256 + bits h 11 10 * 8 + bits h 6 5 * 64 + bits h 4 3 * 2 + bits h 2 2 * 32
    some (.branch (if n = 6 then .eq else .ne) rs1p 0 (sext 9 v))
  | 2, 0 => some (.aluImm .sll rd rd sh)
  | 2, 2 => if rd = 0 then none else some (.load 4 true rd 2 (bits h 12 12 * 32 + bits h 6 4 * 4 + bits h 3 2 * 64))
  | 2, 3 => if rd = 0 then none else some (.load 8 false rd 2 (bits h 12 12 * 32 + bits h 6 5 * 8 + bits h 4 2 * 64))
  | 2, 4 =>
    if bits h 12 12 = 0 then
      if rs2 = 0 then (if rd = 0 then none else some (.jalr 0 rd 0)) else some (.alu .add rd 0 rs2)
    else if rs2 = 0 then (if rd = 0 then some .ebreak else some (.jalr 1 rd 0))
    else some (.alu .add rd rd rs2)
  | 2, 6 => some (.store 4 2 rs2 (bits h 12 9 * 4 + bits h 8 7 * 64))
  | 2, 7 => some (.store 8 2 rs2 (bits h 12 10 * 8 + bits h 9 7 * 64))
  | _, _ => none

/-- The registers an instruction reads. -/
def Rv.reads : Rv → List Nat
  | .alu _ _ a b => [a, b]
  | .aluImm _ _ a _ => [a]
  | .unary _ _ a => [a]
  | .lui _ _ | .auipc _ _ | .jal _ _ | .fence | .ebreak | .csr _ _ => []
  | .jalr _ a _ => [a]
  | .branch _ a b _ => [a, b]
  | .load _ _ _ a _ => [a]
  | .store _ a b _ => [a, b]
  | .lr _ _ a => [a]
  | .sc _ _ a b => [a, b]
  | .amo _ _ _ a b => [a, b]
  | .ecall => [10, 11, 12, 17]
  | .xqtm op _ a b =>
    match op with
    | .qpeek | .qemit | .qwait => [a]
    | .qhist | .qtrig => [a, b]
    | _ => []

end Sys2Proof.Machine
end

