-- ==== Sys2Proof/Machine/ConcEng.lean ====
section
/-! DEFINITION. The engines: contexts and pre-emption (R222, R223), instructions (R216-R221), faults (R232, R233), services
(R229), slice feeds (R230, R231). -/

namespace Sys2Proof.Machine

/-! ## Engines and contexts (R213, R214, R222) -/

/-- The physical cluster that hosts a logical cluster. -/
def Conc.cluster (c : Conc) (k : Nat) : Nat :=
  match Bank.get 0 c.eng.clusterMap k with
  | 0 => k
  | v => v - 1

def Ctx.reg (x : Ctx) (r : Nat) : Nat := if r = 0 then 0 else Bank.get 0 x.regs r

/-- Results on their way to register `r` no longer reach it. (DEDUCED, log entry 30) -/
def Ctx.cancel (x : Ctx) (r : Nat) : Ctx :=
  { x with results := x.results.map fun p => if p.rd = r then { p with rd := 0 } else p }

def Ctx.setReg (x : Ctx) (r v : Nat) : Ctx :=
  if r = 0 then x else { x.cancel r with regs := Bank.set 0 x.regs r (v % 2 ^ 64) }

/-- A result that reaches its register later (R221). (DEDUCED, log entry 30) -/
def Ctx.later (x : Ctx) (rd value kind : Nat) : Ctx :=
  let y := if rd = 0 then x else x.cancel rd
  { y with results := y.results ++ [{ rd := rd, value := value, kind := kind }] }

/-- Results of a kind outstanding over an engine's four contexts. -/
def Conc.opsInFlight (c : Conc) (e kind : Nat) : Nat :=
  (List.range 4).foldl (fun n k => n + ((c.ctx (4 * e + k)).results.filter fun p => p.kind = kind).length) 0

/-- A debugger has halted the context (R502). -/
def Conc.halted (c : Conc) (i : Nat) : Bool := c.tap.halted.contains i

/-- The context is runnable or running. -/
def Conc.runnable (c : Conc) (i : Nat) : Bool := (c.ctx i).st == 2 && !c.halted i

/-- The physical cluster of a context's engine. -/
def Conc.ctxCluster (c : Conc) (i : Nat) : Nat := c.cluster (i / 32)

/-- The context that an engine runs: the runnable one of the lowest class (R222); none while its cluster sleeps. -/
def Conc.current (c : Conc) (e : Nat) : Option Nat :=
  if (c.engine e).isNone ∨ (c.clusterPw (c.cluster (e / 8))).asleep then none
  else ((List.range 4).find? fun k => c.runnable (4 * e + k)).map fun k => 4 * e + k

/-- The engine runs class `k`: the context switched out loses its reservation (R216), a switch to a lower class counts as a
pre-emption (R236). -/
def Conc.switchTo (c : Conc) (e k : Nat) : Conc :=
  match Bank.get 0 c.eng.running e with
  | 0 => { c with eng := { c.eng with running := Bank.set 0 c.eng.running e (k + 1) } }
  | r =>
    if r = k + 1 then c
    else
      let c := c.updCtx (4 * e + (r - 1)) fun x => { x with resv := none }
      let c := { c with eng := { c.eng with running := Bank.set 0 c.eng.running e (k + 1) } }
      if k + 1 < r then c.count O.preemptions else c

/-- A context becomes runnable, and its cluster wakes (R215). -/
def Conc.makeRunnable (c : Conc) (i : Nat) : Conc :=
  (c.updCtx i fun x => { x with st := 2, wait := none }).wakeCluster (c.ctxCluster i)

/-! ## Faults (R233) -/

/-- A fault of a context: FAULTED, recorded, counted and posted. -/
def Conc.trap (c : Conc) (i cause value : Nat) : Conc :=
  let x := c.ctx i
  let c := c.setCtx i { x with st := 7, cause := cause, faults := satAdd 16 x.faults 1, faultPc := x.pc, faultVal := value }
  (c.count O.taskFaults).post 0 0 0x20 (ownerCode 0x03 i) value

/-! ## Memory accesses -/

/-- The physical addresses of an access, or its cause and faulting address: page faults, then access faults (R233, R237). -/
def Ctx.access (x : Ctx) (va n : Nat) (need : Need) : Except (Nat × Nat) (List Nat) :=
  let vas := addrs va n
  let code (page : Bool) : Nat :=
    match need with
    | .r => if page then 13 else 5
    | .w => if page then 15 else 7
    | .x => if page then 12 else 1
  match vas.find? fun a => (x.translate a need).isNone with
  | some a => .error (code true, a)
  | none =>
    let pas := x.space.phys need vas
    match (vas.zip pas).find? fun p => !isRam p.2 with
    | some p =>
      -- a register page takes aligned 8-byte loads and stores
      match memKind p.2 with
      | .page _ => if n = 8 ∧ va % 8 = 0 ∧ need ≠ .x then .ok pas else .error (code false, p.1)
      | _ => .error (code false, p.1)
    | none => .ok pas

/-- Load a number: its value and poison. -/
def Conc.loadNum (c : Conc) (pas : List Nat) : Nat × Bool × Conc :=
  match pas with
  | [] => (0, false, c)
  | a :: _ =>
    match memKind a with
    | .page ch => let r := c.moverLoad ch (a % 4096); (r.1, false, r.2)
    | _ => let r := c.readAt pas; (ofBytes (r.1.map Prod.fst), r.1.any Prod.snd, r.2)

/-- Store a number. -/
def Conc.storeNum (c : Conc) (i : Nat) (pas : List Nat) (v : Nat) : Conc :=
  match pas with
  | [] => c
  | a :: _ =>
    match memKind a with
    | .page ch => c.moverStore ch (a % 4096) v
    | _ => c.writeAt (some i) (pas.zip ((toBytes pas.length v).map fun b => (b, false)))

/-! ## Fetch -/

/-- Fetch a half-word: cause and address of a fault, or its value. -/
def Conc.fetchHalf (c : Conc) (x : Ctx) (va : Nat) : Except (Nat × Nat) Nat × Conc :=
  match x.access va 2 .x with
  | .error e => (.error e, c)
  | .ok pas =>
    let r := c.loadNum pas
    (if r.2.1 then .error (0x20, va) else .ok r.1, r.2.2)

/-- What stands at a context's pc: a fault, or the instruction's length, its bits and its decoding. -/
def Conc.fetch (c : Conc) (x : Ctx) : Except (Nat × Nat) (Nat × Nat × Option Rv) × Conc :=
  let a := c.fetchHalf x x.pc
  match a.1 with
  | .error e => (.error e, a.2)
  | .ok lo =>
    if lo % 4 ≠ 3 then (.ok (2, lo, decode16 lo), a.2)
    else
      let b := a.2.fetchHalf x ((x.pc + 2) % 2 ^ 64)
      match b.1 with
      | .error e => (.error e, b.2)
      | .ok hi => let w := lo + hi * 2 ^ 16; (.ok (4, w, decode32 w), b.2)

/-- The instruction retires and the pc moves on. -/
def Ctx.retire (x : Ctx) (len : Nat) : Ctx := { x with pc := (x.pc + len) % 2 ^ 64, instret := (x.instret + 1) % 2 ^ 64 }

/-! ## Ordinary instructions (R216) -/

/-- A load: it retires when issued; its register gets the value later (R221). -/
def Conc.doLoad (c : Conc) (i len n : Nat) (signed reserve : Bool) (rd va : Nat) : Conc :=
  let x := c.ctx i
  if 8 ≤ c.opsInFlight (i / 4) 0 then c
  else if reserve ∧ va % n ≠ 0 then c.trap i 4 va
  else match x.access va n .r with
    | .error e => c.trap i e.1 e.2
    | .ok pas =>
      if reserve ∧ !(pas.all isRam) then c.trap i 5 va
      else
        let r := c.loadNum pas
        if r.2.1 then r.2.2.trap i 0x20 va
        else
          let v := if signed then sext (8 * n) r.1 else r.1
          r.2.2.updCtx i fun y => (if reserve then { y with resv := pas.head? } else y).later rd v 0 |>.retire len

def Conc.doStore (c : Conc) (i len n va v : Nat) : Conc :=
  match (c.ctx i).access va n .w with
  | .error e => c.trap i e.1 e.2
  | .ok pas => (c.storeNum i pas v).updCtx i fun y => y.retire len

/-- SC: it stores and gives 0 while the context's reservation on the address stands, and 1 otherwise. -/
def Conc.doSc (c : Conc) (i len n rd va v : Nat) : Conc :=
  let x := c.ctx i
  if va % n ≠ 0 then c.trap i 6 va
  else match x.access va n .w with
    | .error e => c.trap i e.1 e.2
    | .ok pas =>
      if !(pas.all isRam) then c.trap i 7 va
      else if x.resv.isSome ∧ x.resv = pas.head? then
        (c.storeNum i pas v).updCtx i fun y => { y with resv := none }.setReg rd 0 |>.retire len
      else c.updCtx i fun y => { y with resv := none }.setReg rd 1 |>.retire len

def Conc.doAmo (c : Conc) (i len n : Nat) (op : AmoOp) (rd va v : Nat) : Conc :=
  let x := c.ctx i
  if 8 ≤ c.opsInFlight (i / 4) 0 then c
  else if va % n ≠ 0 then c.trap i 6 va
  else match x.access va n .r, x.access va n .w with
    | .error e, _ => c.trap i (if e.1 = 13 then 15 else 7) e.2
    | _, .error e => c.trap i e.1 e.2
    | .ok _, .ok pas =>
      if !(pas.all isRam) then c.trap i 7 va
      else
        let r := c.loadNum pas
        if r.2.1 then r.2.2.trap i 0x20 va
        else
          (r.2.2.storeNum i pas (op.eval (8 * n) r.1 v)).updCtx i fun y => (y.later rd (sext (8 * n) r.1) 0).retire len

/-- A user counter (R216): cycles of the engine's clock, base ticks since reset, instructions retired.
(PRESUMED, log entry 3) -/
def Conc.counterCsr (c : Conc) (i addr : Nat) : Nat :=
  if addr = 0xC00 then (c.clusterPw (c.ctxCluster i)).clk / 3 % 2 ^ 64
  else if addr = 0xC01 then c.baseTicks % 2 ^ 64
  else (c.ctx i).instret

/-- A debugger holds the engines: their scope is open and the debug module is active (R216, R502). -/
def Conc.debugHeld (c : Conc) : Bool := bitAt c.sec.unlocked 0 && bitAt (Bank.get 0 c.tap.dm 0x10) 0

/-! ## Slice feeds (R230, R231) -/

/-- The first condition of qwait that holds lets it return. -/
def Ctx.feedReady (x : Ctx) : Bool :=
  match x.slices with
  | [] => false
  | s :: rest => !s.buffer.isEmpty || s.ended || !rest.isEmpty

/-- What qwait gives. -/
def Ctx.feedStatus (x : Ctx) : Nat :=
  match x.slices with
  | [] => 0
  | s :: rest => s.buffer.length + b1 s.ended * 2 ^ 16 + b1 (!rest.isEmpty) * 2 ^ 17

/-- A WAITING context whose condition holds runs on. -/
def Conc.wakeWaiting (c : Conc) (i : Nat) : Conc :=
  if (c.ctx i).st = 4 ∧ (c.ctx i).feedReady then c.makeRunnable i else c

/-- A slice was read beyond what the ring holds (R231). -/
def Conc.countOverrun (c : Conc) (s : FeedSlice) : Conc := c.countEntry O.sliceCounters 32 (4 * s.sub + 3)

/-- The first key that has not been released into the main stream. -/
def Conc.releasedTo (c : Conc) : Nat :=
  let g := c.gather
  let w := match g.store.head? with | some x => min (g.h + 1) x.key | none => g.h + 1
  match g.nextMark with | some m => min w (mergeKey m.1 (m.2 * 2 ^ 34)) | none => w

/-- FEED_DATA_ARRIVAL: up to `n` words of the current slice reach the feed buffer.  The feed stands in the first sub-slot that
it has not drained: where that is no longer held, or an index error has lost a bucket before the next word, the slice ends
there with the overrun flag; it ends when its whole span has been released and read (R231). (DEDUCED, log entry 30) -/
def Conc.feedArrival (c : Conc) (i n : Nat) : Conc :=
  let x := c.ctx i
  match x.slices with
  | [] => c
  | s :: rest =>
    if s.ended ∨ (c.clusterPw (c.ctxCluster i)).asleep then c
    else
      let gone := c.caro.running = false ∨ bucketOf s.readKey < c.caro.tail
      let limit := min s.span c.releasedTo
      let hole := c.caro.lost.find? fun b => decide (bucketOf s.readKey ≤ b) && decide (b < limit)
      let all := if gone then [] else c.caro.main.filter fun w =>
        s.readOff ≤ w.off ∧ s.start ≤ w.key ∧ w.key < min s.span (hole.getD s.span)
      let now := all.take (min n (512 - s.buffer.length))
      let left := all.drop now.length
      let c := now.foldl (fun c w => c.ringRead w.off 1) c
      let words := now.map fun w => match c.caro.main.find? fun y => y.off = w.off with | some y => y.word | none => w.word
      let ends := decide gone || (left.isEmpty && hole.isSome)
      let y := { s with buffer := s.buffer ++ words,
                        readOff := match now.getLast? with | some w => w.off + 1 | none => s.readOff,
                        readKey := max s.readKey (match left.head? with | some w => subSlotOf w.key | none => subSlotOf limit),
                        poisoned := s.poisoned || now.any fun w => c.ringPoisoned w.off,
                        overrun := s.overrun || ends, ended := ends || (left.isEmpty && decide (s.span ≤ c.releasedTo)) }
      let c := c.setCtx i { x with slices := y :: rest }
      (if ends then c.countOverrun s else c).wakeWaiting i

/-! ## Xqtm (R220) -/

def sentinelEnd : Nat := 2 ^ 64 - 1
def sentinelNone : Nat := 2 ^ 64 - 2

/-- A key whose second is given by its low 24 bits, resolved next to H (R220). -/
def Conc.resolveKey (c : Conc) (k : Nat) : Nat :=
  let h := keySecond c.gather.h
  mergeKey (h + toSigned 24 (k / 2 ^ 40 + 2 ^ 24 - h % 2 ^ 24)).toNat (keyFine k)

/-- A key with 24 bits of its second. -/
def key24 (k : Nat) : Nat := keyFine k + keySecond k % 2 ^ 24 * 2 ^ 40

/-- The counter of a qhist: aligned, in the scratchpad or cluster window. -/
def qhistWindow (va : Nat) : Bool :=
  decide (va % 4 = 0) && (decide (0x1000000000 ≤ va ∧ va < 0x1000040000) || decide (0x1100000000 ≤ va ∧ va < 0x1100400000))

/-- qemit words of an engine that wait for the egress queue. -/
def Conc.emitsWaiting (c : Conc) (e : Nat) : Nat :=
  (c.egr.held.filter fun w => c0op w.2 = 0x25 ∧ bits w.2.toNat 55 47 / 4 = e).length

def Conc.qpop (c : Conc) (i rd : Nat) : Conc :=
  let x := c.ctx i
  match x.slices with
  | [] => c.setCtx i ((x.setReg rd sentinelNone).retire 4)
  | s :: rest =>
    match s.buffer with
    | w :: ws => c.setCtx i (({ x with slices := { s with buffer := ws } :: rest }.setReg rd w.toNat).retire 4)
    | [] => if s.ended then c.setCtx i ((x.setReg rd sentinelEnd).retire 4) else c

def Conc.qpeek (c : Conc) (i rd n : Nat) : Conc :=
  let x := c.ctx i
  if 255 < n then c.trap i 0x21 n
  else match x.slices with
    | [] => c.setCtx i ((x.setReg rd sentinelNone).retire 4)
    | s :: _ =>
      match s.buffer[n]? with
      | some w => c.setCtx i ((x.setReg rd w.toNat).retire 4)
      | none => if s.ended then c.setCtx i ((x.setReg rd sentinelEnd).retire 4) else c

def Conc.qtime (c : Conc) (i rd sel : Nat) : Conc :=
  let x := c.ctx i
  let v := match x.slices with
    | [] => 2 ^ 64 - 1
    | s :: _ =>
      match sel with
      | 0 => key24 s.start
      | 1 => key24 s.stop
      | 2 => key24 s.span
      | 3 => s.number
      | _ => b1 s.overrun + 2 * b1 s.passedOn + 4 * b1 s.poisoned
  c.setCtx i ((x.setReg rd v).retire 4)

def Conc.qhist (c : Conc) (i rd va add : Nat) : Conc :=
  let x := c.ctx i
  if qhistWindow va = false then c.trap i 0x21 va
  else match x.access va 4 .w with
    | .error _ => c.trap i 0x21 va
    | .ok pas =>
      let r := c.loadNum pas
      if r.2.1 then r.2.2.trap i 0x20 va
      else (r.2.2.storeNum i pas (min (r.1 + add % 2 ^ 32) (2 ^ 32 - 1))).updCtx i fun y => (y.later rd r.1 1).retire 4

def Conc.qtrigIns (c : Conc) (i rd key arg : Nat) : Conc :=
  if 8 ≤ c.opsInFlight (i / 4) 2 then c
  else if arg % 4 = 3 then c.trap i 0x21 arg
  else
    let r := c.qtrig (arg % 4) (bits arg 4 2) (c.resolveKey key)
    let v := r.1 + if r.1 ≤ 1 then r.2.1 * 2 ^ 32 else 0
    r.2.2.updCtx i fun y => (y.later rd v 2).retire 4

def Conc.qemit (c : Conc) (i v raw : Nat) : Conc :=
  if i % 4 ≠ 0 then c.trap i 2 raw
  else if 8 ≤ c.emitsWaiting (i / 4) then c
  else (c.emit0 (BitVec.ofNat 64 (0x25 * 2 ^ 56 + i * 2 ^ 47 + v % 2 ^ 47))).updCtx i fun y => y.retire 4

def Conc.qwait (c : Conc) (i rd limit : Nat) : Conc :=
  let x := c.ctx i
  if x.feedReady then c.setCtx i ((x.setReg rd x.feedStatus).retire 4)
  else c.setCtx i { x with st := 4, wait := some (if limit = 0 then none else some (c.tick + limit), rd) }

def Conc.qslice (c : Conc) (i rd : Nat) : Conc :=
  let x := c.ctx i
  match x.slices with
  | [] => c.setCtx i ((x.setReg rd (2 ^ 64 - 1)).retire 4)
  | s :: rest => c.setCtx i (({ x with slices := rest }.setReg rd s.buffer.length).retire 4)

/-- QWAIT_LIMIT_EXPIRY: a qwait returns with the limit bit, unless its condition holds by then; feed data of the tick of the
expiry counts as arrived (R145, R235). -/
def Conc.qwaitExpiry (c : Conc) (i : Nat) : Conc :=
  let x := c.ctx i
  match x.st, x.wait with
  | 4, some (some t, rd) =>
    if t < c.tick ∧ x.feedReady = false then
      (c.setCtx i ((x.setReg rd (x.feedStatus + 2 ^ 18)).retire 4)).makeRunnable i
    else c
  | _, _ => c

/-- RESULT_RETURN: the oldest result for register `rd` of a context reaches it. (DEDUCED, log entry 30) -/
def Conc.resultReturn (c : Conc) (i rd : Nat) : Conc :=
  let x := c.ctx i
  match x.results.find? fun p => p.rd = rd with
  | none => c
  | some p =>
    let y := { x with results := x.results.erase p }
    c.setCtx i (if rd = 0 then y else { y with regs := Bank.set 0 y.regs rd (p.value % 2 ^ 64) })

/-! ## Services (R229) -/

/-- The trap of an ECALL: a known service puts the context in SERVICE. -/
def Conc.enterService (c : Conc) (i : Nat) : Conc := (c.updCtx i fun x => { x with st := 5 }).count O.serviceCalls

/-- A log entry (R229, R289), at most 1,000 a second per instance; beyond that it waits. -/
def Conc.postLog (c : Conc) (i time : Nat) : Conc :=
  let x := c.ctx i
  let n := if x.logSecond = c.seconds then x.logs else 0
  if 1000 ≤ n then c.setCtx i { x with logDue := some time }
  else
    let c := c.setCtx i { x with logSecond := c.seconds, logs := n + 1, logDue := none }
    c.queueBulk 2 i ([time, x.reg 10, x.reg 11, x.reg 12].map (BitVec.ofNat 64))

/-- SET_RESTART: both addresses must be mapped. -/
def Ctx.setRestart (x : Ctx) : Ctx :=
  let mapped (va : Nat) : Bool := canonicalVa va && x.table.any fun l => l.holds va
  if mapped (x.reg 10) ∧ mapped (x.reg 11) then { x with restartPc := x.reg 10, restartSp := x.reg 11 }.setReg 10 0
  else x.setReg 10 1

/-! ## Execution -/

/-- Execute an Xqtm instruction. -/
def Conc.execXqtm (c : Conc) (i raw : Nat) (op : QOp) (rd rs1 rs2 : Nat) : Conc :=
  let x := c.ctx i
  match op with
  | .qpop => c.qpop i rd
  | .qpeek => c.qpeek i rd (x.reg rs1)
  | .qtime s => c.qtime i rd s
  | .qhist => c.qhist i rd (x.reg rs1) (x.reg rs2)
  | .qtrig => c.qtrigIns i rd (x.reg rs1) (x.reg rs2)
  | .qemit => c.qemit i (x.reg rs1) raw
  | .qwait => c.qwait i rd (x.reg rs1)
  | .qslice => c.qslice i rd

/-- Execute an ordinary instruction of length `len` in context `i`; ECALL and Xqtm have operations of their own.
(PRESUMED, log entry 3) -/
def Conc.execRv (c : Conc) (i len : Nat) (ins : Rv) : Conc :=
  let x := c.ctx i
  let set (rd v : Nat) : Conc := c.setCtx i ((x.setReg rd v).retire len)
  let jump (rd target : Nat) : Conc :=
    let y := x.setReg rd ((x.pc + len) % 2 ^ 64)
    c.setCtx i { y with pc := target / 2 * 2, instret := (y.instret + 1) % 2 ^ 64 }
  match ins with
  | .alu op rd a b => set rd (op.eval (x.reg a) (x.reg b))
  | .aluImm op rd a m => set rd (op.eval (x.reg a) m)
  | .unary op rd a => set rd (op.eval (x.reg a))
  | .lui rd m => set rd m
  | .auipc rd m => set rd (x.pc + m)
  | .jal rd o => jump rd ((x.pc + o) % 2 ^ 64)
  | .jalr rd a m => jump rd ((x.reg a + m) % 2 ^ 64)
  | .branch k a b o =>
    if k.eval (x.reg a) (x.reg b) then c.setCtx i { x with pc := (x.pc + o) % 2 ^ 64, instret := (x.instret + 1) % 2 ^ 64 }
    else c.setCtx i (x.retire len)
  | .load n s rd a m => c.doLoad i len n s false rd ((x.reg a + m) % 2 ^ 64)
  | .store n a b m => c.doStore i len n ((x.reg a + m) % 2 ^ 64) (x.reg b)
  | .lr n rd a => c.doLoad i len n true true rd (x.reg a)
  | .sc n rd a b => c.doSc i len n rd (x.reg a) (x.reg b)
  | .amo op n rd a b => c.doAmo i len n op rd (x.reg a) (x.reg b)
  | .fence => c.setCtx i (x.retire len)
  | .ebreak =>
    if c.debugHeld then { c with tap := { c.tap with halted := i :: c.tap.halted } }
    else c.trap i 3 x.pc
  | .csr rd a => set rd (c.counterCsr i a)
  | .ecall | .xqtm _ _ _ _ => c

/-- The commands that execute an instruction: which one they take. -/
inductive Take where
  | ordinary
  | xqtm (f3 : Nat)
  | service (code : Nat)
  deriving DecidableEq, Repr

/-- funct3 of an Xqtm instruction (R219). -/
def QOp.f3 : QOp → Nat
  | .qpop => 0 | .qpeek => 1 | .qtime _ => 2 | .qhist => 3 | .qtrig => 4 | .qemit => 5 | .qwait => 6 | .qslice => 7

/-- A service that the command of a code takes; the ordinary command takes those that no service has. -/
def Take.takesService (t : Take) (code : Nat) : Bool :=
  match t with
  | .service k => code == k
  | .ordinary => decide (2 < code)
  | .xqtm _ => false

/-- One instruction of a logical engine: that of the context it runs.  It is executed when it is of the command's kind and its
source registers have no result outstanding; `service` does what the Ringmaster does for an ECALL. -/
def Conc.engineStep (c : Conc) (e : Nat) (t : Take) (service : Nat → Nat → Conc → Conc) : Conc :=
  match c.current e with
  | none => c
  | some i =>
    let c := c.switchTo e (i % 4)
    let x := c.ctx i
    let f := c.fetch x
    match f.1 with
    | .error v => if t = .ordinary then f.2.trap i v.1 v.2 else c
    | .ok (len, raw, ins) =>
      match ins with
      | none => if t = .ordinary then f.2.trap i 2 raw else c
      | some ins =>
        if ins.reads.any fun r => r ≠ 0 ∧ x.results.any fun p => p.rd = r then c
        else match ins with
          | .xqtm op rd a b => if t = .xqtm op.f3 then f.2.execXqtm i raw op rd a b else c
          | .ecall =>
            let code := x.reg 17
            if t.takesService code then
              if 2 < code then (f.2.enterService i).trap i 0x22 code else service code i (f.2.enterService i)
            else c
          | _ => if t = .ordinary then f.2.execRv i len ins else c

/-! ## Status objects (R236) -/

def Conc.engineMap (c : Conc) : Nat :=
  (List.range 96).foldl (fun v e => v + (match c.engine e with | some p => p | none => 0xFF) * 2 ^ (8 * e)) 0

def Conc.clusterMap (c : Conc) : Nat := (List.range 12).foldl (fun v k => v + c.cluster k * 2 ^ (8 * k)) 0

def Conc.clusterAwake (c : Conc) : Nat :=
  (List.range 13).foldl (fun v k =>
    let used := (List.range 12).any fun l => c.cluster l = k
    v + b1 (used && !(c.clusterPw k).asleep) * 2 ^ k) 0

/-- `InstanceState`: the context that its engine runs reads RUNNING. -/
def Conc.instanceStates (c : Conc) : Nat :=
  c.eng.ctxs.foldl (fun v x =>
    let st := if x.2.st = 2 ∧ c.current (x.1 / 4) = some x.1 then 3 else x.2.st
    v + st * 2 ^ (8 * x.1)) 0

def Conc.instanceFaults (c : Conc) : Nat :=
  c.eng.ctxs.foldl (fun v p =>
    let x := p.2
    v + (x.cause % 2 ^ 16 + x.faults % 2 ^ 16 * 2 ^ 16 + x.faultPc % 2 ^ 64 * 2 ^ 64 + x.faultVal % 2 ^ 64 * 2 ^ 128) * 2 ^ (192 * p.1)) 0

def Conc.engineCycles (c : Conc) : Nat := c.eng.cycles.foldl (fun v p => v + p.2 / 3 % 2 ^ 64 * 2 ^ (64 * p.1)) 0

end Sys2Proof.Machine
end

