-- ==== Sys2Proof/Machine/Crypto.lean ====
section
/-! DEFINITION. SHA-512 and the verification of RSASSA-PSS signatures that R395 names (RFC 8017, with MGF1 over SHA-512, a salt of
64 bytes and exponent 65,537).  SHA-512 is that of FIPS 180-4, which the spec names and does not repeat (PRESUMED, log
entry 4).  Byte strings are lists, first byte first. -/

namespace Sys2Proof.Machine

/-! ## SHA-512 -/

/-- The integer `k`-th root of `n` below `2 ^ b`, bit by bit. -/
def rootBits (k n : Nat) : Nat → Nat → Nat
  | 0, r => r
  | b + 1, r => rootBits k n b (if (r + 2 ^ b) ^ k ≤ n then r + 2 ^ b else r)

/-- The first 80 primes. -/
def shaPrimes : List Nat :=
  [2, 3, 5, 7, 11, 13, 17, 19, 23, 29, 31, 37, 41, 43, 47, 53, 59, 61, 67, 71, 73, 79, 83, 89, 97, 101, 103, 107, 109,
   113, 127, 131, 137, 139, 149, 151, 157, 163, 167, 173, 179, 181, 191, 193, 197, 199, 211, 223, 227, 229, 233, 239,
   241, 251, 257, 263, 269, 271, 277, 281, 283, 293, 307, 311, 313, 317, 331, 337, 347, 349, 353, 359, 367, 373, 379,
   383, 389, 397, 401, 409]

/-- The round constants: fractional bits of the cube roots of the primes. -/
def shaK : List Nat := shaPrimes.map fun p => rootBits 3 (p * 2 ^ 192) 68 0 % 2 ^ 64

/-- The initial hash value: fractional bits of the square roots of the first eight primes. -/
def shaInit : List Nat := (shaPrimes.take 8).map fun p => rootBits 2 (p * 2 ^ 128) 70 0 % 2 ^ 64

def rotr64 (v n : Nat) : Nat := (v / 2 ^ n + v * 2 ^ (64 - n)) % 2 ^ 64

/-- The big-endian number of bytes. -/
def ofBytesBe (bs : List Nat) : Nat := bs.foldl (fun v b => v * 256 + b % 256) 0

/-- The `n` bytes of a number, most significant first. -/
def toBytesBe (n v : Nat) : List Nat := (toBytes n v).reverse

/-- The words of a block, eight bytes each. -/
def shaWords : Nat → List Nat → List Nat
  | 0, _ => []
  | n + 1, bs => ofBytesBe (bs.take 8) :: shaWords n (bs.drop 8)

/-- Extend the schedule, held newest first. -/
def shaSchedule : Nat → List Nat → List Nat
  | 0, w => w
  | n + 1, w =>
    let a := (w[1]?).getD 0
    let b := (w[14]?).getD 0
    let s1 := rotr64 a 19 ^^^ rotr64 a 61 ^^^ a / 2 ^ 6
    let s0 := rotr64 b 1 ^^^ rotr64 b 8 ^^^ b / 2 ^ 7
    shaSchedule n (((s1 + (w[6]?).getD 0 + s0 + (w[15]?).getD 0) % 2 ^ 64) :: w)

/-- The working variables. -/
structure ShaState where
  a : Nat
  b : Nat
  c : Nat
  d : Nat
  e : Nat
  f : Nat
  g : Nat
  h : Nat

/-- One round with its constant and schedule word. -/
def ShaState.round (s : ShaState) (kw : Nat × Nat) : ShaState :=
  let s1 := rotr64 s.e 14 ^^^ rotr64 s.e 18 ^^^ rotr64 s.e 41
  let ch := (s.e &&& s.f) ^^^ ((2 ^ 64 - 1 - s.e) &&& s.g)
  let t1 := s.h + s1 + ch + kw.1 + kw.2
  let s0 := rotr64 s.a 28 ^^^ rotr64 s.a 34 ^^^ rotr64 s.a 39
  let maj := (s.a &&& s.b) ^^^ (s.a &&& s.c) ^^^ (s.b &&& s.c)
  { a := (t1 + s0 + maj) % 2 ^ 64, b := s.a, c := s.b, d := s.c, e := (s.d + t1) % 2 ^ 64, f := s.e, g := s.f, h := s.g }

def ShaState.add (s t : ShaState) : ShaState :=
  { a := (s.a + t.a) % 2 ^ 64, b := (s.b + t.b) % 2 ^ 64, c := (s.c + t.c) % 2 ^ 64, d := (s.d + t.d) % 2 ^ 64,
    e := (s.e + t.e) % 2 ^ 64, f := (s.f + t.f) % 2 ^ 64, g := (s.g + t.g) % 2 ^ 64, h := (s.h + t.h) % 2 ^ 64 }

def ShaState.start : ShaState :=
  let v (i : Nat) : Nat := (shaInit[i]?).getD 0
  { a := v 0, b := v 1, c := v 2, d := v 3, e := v 4, f := v 5, g := v 6, h := v 7 }

/-- One block of 128 bytes. -/
def ShaState.block (s : ShaState) (bs : List Nat) : ShaState :=
  let w := (shaSchedule 64 (shaWords 16 bs).reverse).reverse
  s.add ((shaK.zip w).foldl ShaState.round s)

/-- Whole blocks, `n` of them. -/
def ShaState.blocks : Nat → ShaState → List Nat → ShaState
  | 0, s, _ => s
  | n + 1, s, bs => ShaState.blocks n (s.block (bs.take 128)) (bs.drop 128)

/-- SHA-512 of bytes: 64 bytes. (PRESUMED, log entry 4) -/
def sha512 (bs : List Nat) : List Nat :=
  let n := bs.length
  let pad := (239 - n % 128) % 128
  let m := bs ++ 0x80 :: List.replicate pad 0 ++ toBytesBe 16 (8 * n)
  let s := ShaState.blocks (m.length / 128) ShaState.start m
  [s.a, s.b, s.c, s.d, s.e, s.f, s.g, s.h].flatMap (toBytesBe 8)

/-! ## RSASSA-PSS -/

/-- `b ^ 65537 mod n`. -/
def pow65537 (b n : Nat) : Nat := (List.range 16).foldl (fun v _ => v * v % n) (b % n) * b % n

/-- MGF1 with SHA-512. (PRESUMED, log entry 4) -/
def mgf1 (seed : List Nat) (len : Nat) : List Nat :=
  ((List.range ((len + 63) / 64)).flatMap fun i => sha512 (seed ++ toBytesBe 4 i)).take len

/-- The verification of a PSS encoding of a message, `bits` bits wide. (PRESUMED, log entry 4) -/
def pssEncodes (msg em : List Nat) (bits : Nat) : Bool :=
  let n := em.length
  let db := em.take (n - 65)
  let h := (em.drop (n - 65)).take 64
  let top := 8 * n - bits
  let plain := (db.zip (mgf1 h (n - 65))).map fun x => x.1 ^^^ x.2
  let plain := match plain with | b :: rest => b % 2 ^ (8 - top) :: rest | [] => []
  let zeros := n - 130
  let salt := plain.drop (zeros + 1)
  decide (130 ≤ n) && em.getLast? == some 0xBC && decide (db.headD 0 < 2 ^ (8 - top)) && (plain.take zeros).all (· == 0)
    && (plain[zeros]?).getD 0 == 1 && h == sha512 (List.replicate 8 0 ++ sha512 msg ++ salt)

/-- A signature of a message verifies under a modulus; all byte strings have the most significant byte first.
(PRESUMED, log entry 4) -/
def pssVerify (modulus signature msg : List Nat) : Bool :=
  let n := ofBytesBe modulus
  let s := ofBytesBe signature
  let bits := Nat.log2 n
  let len := (bits + 7) / 8
  let e := pow65537 s n
  decide (s < n) && decide (e < 2 ^ (8 * len)) && pssEncodes msg (toBytesBe len e) bits

end Sys2Proof.Machine
end

