-- ==== Sys2Proof/Machine/ConcSec.lean ====
section
/-! DEFINITION. Secure boot and attestation (chapter 18): signed envelopes (R396, R397), owner enrolment (R398), anti-rollback
(R399), firmware update (R400-R403), attestation (R404), the debug unlock (R405). -/

namespace Sys2Proof.Machine

def Conc.withSec (c : Conc) (f : Sec → Sec) : Conc := { c with sec := f c.sec }

/-- Block `b` of R341 is gated. -/
def Conc.gated (c : Conc) (b : Nat) : Bool := bitAt c.pwr.gated b

/-- The abort of a feature that needs a gated block (R341). -/
def gateAbort : Abort := Abort.owned (ownerCode 0x02 5)

/-- Why an envelope is refused. -/
inductive EnvBad where
  | format | signature | version
  deriving DecidableEq, Repr

/-- An accepted envelope: version, measurement, payload, and whether the owner signed it. -/
structure Envelope where
  version : Nat
  measurement : Nat
  payload : List Nat
  byOwner : Bool
  notAfter : Nat
  binding : Nat
  deriving DecidableEq, Repr

/-- The floor of a kind (R399). -/
def Conc.floorOf (c : Conc) (kind : Nat) : Nat := if kind = 1 then c.sec.fwFloor else if kind = 4 ∨ kind = 5 then 0 else c.sec.ownerFloor

/-- The current seconds are at or below a not-after (R397). -/
def Conc.inTime (c : Conc) (notAfter : Nat) : Bool :=
  notAfter == 0 || (decide (c.time.state ≠ 0) && decide (c.seconds ≤ notAfter))

/-- Judge an envelope (R397) of `kind`; `root` and `owner` say which keys the kind takes. -/
def Conc.judgeEnvelope (c : Conc) (kind : Nat) (root owner : Bool) (bs : List Nat) : Except EnvBad Envelope :=
  let field (o n : Nat) : Nat := ofBytes ((bs.drop o).take n)
  let payload := bs.drop 1120
  let modulus := (bs.drop 96).take 512
  let key := ofBytes (sha512 modulus)
  let byRoot := root && key == c.sec.rootHash
  let byOwner := owner && c.sec.owner == 1 && key == c.sec.ownerHash
  let e : Envelope := { version := field 8 4, measurement := field 32 64, payload := payload, byOwner := byOwner && !byRoot,
                        notAfter := field 24 8, binding := field 16 8 }
  if bs.length < 1120 ∨ field 0 4 ≠ 0xD3E751A9 ∨ field 4 2 ≠ 1 ∨ field 6 1 ≠ kind ∨ field 12 4 ≠ payload.length then .error .format
  else if ofBytes (sha512 payload) ≠ e.measurement ∨ (!byRoot && !byOwner) then .error .signature
  else if pssVerify modulus ((bs.drop 608).take 512) (bs.take 608) = false then .error .signature
  else if e.version < c.floorOf kind then .error .version
  else if (e.binding ≠ 0 ∧ e.binding ≠ c.sec.serial) ∨ c.inTime e.notAfter = false then .error .signature
  else .ok e

/-! ## Owner enrolment and floors (R398, R399) -/

/-- `OwnerKeyHash` behaves as const: the seal is burnt. -/
def Conc.sealedHash (c : Conc) (index sub : Nat) : Bool := index == 0x3000 && sub == 2 && c.sec.owner == 1

/-- OWNER_KEY_ENROL: `cut` says that power fails before the seal is burnt. -/
def Conc.enrolOwner (c : Conc) (hash : Nat) (cut : Bool) : Res Conc :=
  let s := c.sec
  if s.owner = 1 then .error Abort.writeOfRo
  else if hash = 0 ∨ hash = 2 ^ 512 - 1 then .error Abort.range
  else if s.owner = 2 ∧ hash ≠ s.ownerHash then .error Abort.general
  else .ok (c.withSec fun s => { s with ownerHash := hash, owner := if cut then 2 else 1 })

/-- FIRMWARE_FLOOR_COMMIT: the firmware floor rises to the running version. -/
def Conc.commitFirmwareFloor (c : Conc) (v : Nat) : Res Conc :=
  let s := c.sec
  let run := if s.running = 0 then s.slotA.version else s.slotB.version
  if v ≠ 1 ∨ run ≤ s.fwFloor ∨ 40 < run ∨ s.running = 0xFF then .error Abort.range
  else
    let judge (x : FwSlot) : FwSlot := if x.version < run then { x with valid := false } else x
    .ok (c.withSec fun s => { s with fwFloor := run, slotA := judge s.slotA, slotB := judge s.slotB })

/-- OWNER_FLOOR_COMMIT. -/
def Conc.commitOwnerFloor (c : Conc) (n : Nat) : Res Conc :=
  if n ≤ c.sec.ownerFloor ∨ 24 < n then .error Abort.range else .ok (c.withSec fun s => { s with ownerFloor := n })

/-! ## Firmware update (R403) -/

def Sec.slot (s : Sec) (k : Nat) : FwSlot := if k = 0 then s.slotA else s.slotB
def Sec.setSlot (s : Sec) (k : Nat) (x : FwSlot) : Sec := if k = 0 then { s with slotA := x } else { s with slotB := x }

/-- The slot that is not running: an update writes it. -/
def Sec.other (s : Sec) : Nat := if s.running = 0 then 1 else 0

/-- A segment of an image arrives: the inactive slot is invalid. -/
def Conc.firmwareSegment (c : Conc) : Conc := c.withSec fun s => { s.setSlot s.other {} with update := 2 }

/-- FIRMWARE_IMAGE_VERIFY: the last segment has arrived and the image is judged. -/
def Conc.firmwareVerify (c : Conc) (bs : List Nat) : Res Conc × Conc :=
  if c.gated 9 ∨ c.gated 11 then (.error gateAbort, c)
  else
    let c := c.firmwareSegment
    let bad (n : Nat) : Res Conc × Conc := (.error Abort.general, c.withSec fun s => { s with update := n })
    match c.judgeEnvelope 1 true false bs with
    | .error .format => bad 5
    | .error .signature => bad 4
    | .error .version => bad 6
    | .ok e =>
      let d := c.withSec fun s =>
        let x : FwSlot := { valid := true, version := e.version, measurement := e.measurement, notAfter := e.notAfter }
        { s.setSlot s.other x with update := 3 }
      (.ok d, d)

/-- FIRMWARE_ACTIVATE. -/
def Conc.firmwareActivate (c : Conc) (v : Nat) : Res Conc :=
  if v ≠ 1 then .ok c
  else if c.sec.update ≠ 3 then .error (Abort.owned 0)
  else if c.gated 11 then .error gateAbort
  else .ok (c.withSec fun s => { s with preferred := s.other, trial := true, tried := false })

/-- The slot the boot ROM selects (R401), and whether it is on trial; 0xFF is RECOVERY.  `inTime` judges a slot's not-after
(R397). -/
def Sec.select (s : Sec) (inTime : Nat → Bool) : Nat × Sec :=
  let fall := s.trial && s.tried
  let p := if fall then 1 - s.preferred else s.preferred
  let q := 1 - p
  let mark (k : Nat) : Sec := if s.trial && k == s.preferred then { s with tried := true } else s
  let ok (k : Nat) : Bool := (s.slot k).valid && inTime (s.slot k).notAfter
  if ok p then (p, mark p) else if ok q then (q, mark q) else (0xFF, s)

/-- `BootFlags`. -/
def Sec.flags (s : Sec) : Nat := b1 s.fellBack + 2 * b1 s.trial + 4 * b1 (!(s.slot s.other).valid)

/-- The version a slot shows. -/
def FwSlot.shown (x : FwSlot) : Nat := if x.valid then x.version else 0xFFFFFFFF

/-! ## Attestation (R404) -/

/-- ATTEST_RUN: the report takes the nonce in force. (DEDUCED, log entry 48) -/
def Conc.attestRun (c : Conc) (v : Nat) : Res Conc :=
  if v ≠ 1 then .ok c
  else if c.gated 9 then .error gateAbort
  else .ok (c.withSec fun s => { s with attest := some (c.get O.attestNonce), attestReady := false })

/-- The report's bytes 0-4,783 with a nonce; `counts` are those of `ResourceCounts`. (DEDUCED, log entry 48) -/
def Conc.attestBody (c : Conc) (nonce : Nat) (counts : List Nat) (bundle : Nat) (slots : List (Nat × Nat)) : List Nat :=
  let s := c.sec
  let run := s.slot (if s.running = 0xFF then 0 else s.running)
  toBytes 4 0xD3E7A77E ++ toBytes 4 1 ++ toBytes 8 s.serial ++ toBytes 6 c.seconds ++ toBytes 2 c.time.state
    ++ toBytes 64 nonce ++ toBytes 64 run.measurement ++ toBytes 4 run.version ++ [s.running % 256, s.unlocked % 256] ++ [0, 0]
    ++ toBytes 64 (Config.fuseHash s.ownerHash s.owner s.fwFloor s.ownerFloor) ++ toBytes 64 (if s.owner = 0 then 0 else s.ownerHash)
    ++ toBytes 64 (Config.repairHash c.free) ++ counts ++ toBytes 64 bundle
    ++ slots.flatMap fun x => toBytes 4 x.1 ++ toBytes 64 x.2

/-- ATTEST_COMPLETE: the report is signed and published. (DEDUCED, log entry 48) -/
def Conc.attestComplete (c : Conc) (counts : List Nat) (bundle : Nat) (slots : List (Nat × Nat)) : Conc :=
  match c.sec.attest with
  | none => c
  | some nonce =>
    if c.gated 9 then c
    else
      let body := ofBytes (c.attestBody nonce counts bundle slots)
      { c.withSec fun s => { s with attest := none, attestReady := true,
                                    report := body + Config.deviceSign body % 2 ^ 4096 * 2 ^ (8 * 4784) } with free := c.free + 1 }

/-! ## Debug unlock (R405) -/

/-- A new challenge is drawn. (DESIGN CHOICE, log entry 6) -/
def Sec.redraw (s : Sec) : Sec := { s with draws := s.draws + 1, challenge := (Config.challenge (s.draws + 1)).toNat }

/-- A token opens the scopes it names: DEBUG_TOKEN, and TOKEN at Update-DR (R500). (DEDUCED, log entry 32) -/
def Conc.debugToken (c : Conc) (bs : List Nat) : Res Conc × Conc :=
  if c.gated 9 then (.error gateAbort, c)
  else
    let refused : Res Conc × Conc := (.error Abort.general, c.count O.tokenFailures)
    match c.judgeEnvelope 4 true true bs with
    | .error _ => refused
    | .ok e =>
      let scope := (e.payload[8]?).getD 0
      if e.payload.length ≠ 16 ∨ ofBytes (e.payload.take 8) ≠ c.sec.challenge ∨ e.binding ≠ c.sec.serial
          ∨ e.notAfter = 0 ∨ (e.byOwner ∧ bitAt scope 1) then refused
      else
        let c := c.withSec fun s => { s.redraw with unlocked := orBits s.unlocked (scope % 4) }
        let c := c.postEntry 6 0x21 0 0 0 0 0
        (.ok c, c)

/-- DEBUG_LOCK: every scope is locked and a new challenge drawn. (DEDUCED, log entry 32) -/
def Conc.debugLock (c : Conc) (v : Nat) : Conc := if v = 1 then c.withSec fun s => { s.redraw with unlocked := 0 } else c

end Sys2Proof.Machine
end

