-- ==== Sys2Proof/Machine/ConcTask.lean ====
section
/-! DEFINITION. Task images and instances (R224-R228, R236), their services' ends (R229), the distribution of slices (R187,
R230), drains (R262), cluster sleep (R215), parity restarts (R232). -/

namespace Sys2Proof.Machine

/-! ## Images (R224, R225) -/

/-- The width of the resource header before its segments, and of a segment.  The spec gives the fields in order without
their offsets; they are taken packed (DESIGN CHOICE, log entry 40). -/
def taskHdrBytes : Nat := 38
def segBytes : Nat := 32

/-- A segment from its 32 bytes: address 8, size 8, image offset 4, file size 4, flags 4. (DESIGN CHOICE, log entry 40) -/
def segOf (bs : List Nat) : SegHdr :=
  let f (o n : Nat) : Nat := ofBytes ((bs.drop o).take n)
  let k := f 24 4
  { va := f 0 8, size := f 8 8, offset := f 16 4, fileSize := f 20 4, r := bitAt k 0, w := bitAt k 1, x := bitAt k 2 }

/-- The segments: up to eight, ended by one of size 0. -/
def segsOf : Nat → List Nat → List SegHdr
  | 0, _ => []
  | n + 1, bs =>
    if bs.length < segBytes then []
    else
      let s := segOf (bs.take segBytes)
      if s.size = 0 then [] else s :: segsOf n (bs.drop segBytes)

/-- A resource header from a payload. (DESIGN CHOICE, log entry 40) -/
def hdrOf (bs : List Nat) : TaskHdr :=
  let f (o n : Nat) : Nat := ofBytes ((bs.drop o).take n)
  { entry := f 0 8, classes := f 8 1, channels := f 9 1, stack := f 10 4, scratch := f 14 4, cluster := f 18 4, priv := f 22 8,
    shared := f 30 8, segs := segsOf 8 (bs.drop taskHdrBytes) }

/-- A segment lies in the image range, is not both writable and executable, and its file bytes lie in the payload. -/
def SegHdr.ok (s : SegHdr) (len : Nat) : Bool :=
  !(s.w && s.x) && decide (s.fileSize ≤ s.size) && decide (s.offset + s.fileSize ≤ len) && decide (0x10000 ≤ s.va)
    && decide (s.va + s.size ≤ 0x1000000000)

/-- The header's fields are within R225. -/
def TaskHdr.ok (h : TaskHdr) (len : Nat) : Bool :=
  decide (h.channels ≤ 2) && decide (h.stack % 4096 = 0 ∧ h.stack ≤ 67108864) && decide (h.scratch % 4096 = 0)
    && decide (h.cluster % 4096 = 0) && decide (h.priv % 4096 = 0) && !h.segs.isEmpty && h.segs.all fun s => s.ok len

def Conc.taskSlot (c : Conc) (k : Nat) : Option TaskSlot := Bank.get none c.eng.slots k

/-- TASK_LOAD into slot `k`: the staged image is judged; a failure installs nothing. (DEDUCED, log entry 29) -/
def Conc.taskLoad (c : Conc) (k : Nat) : Res Conc × Conc :=
  if c.gated 9 then (.error gateAbort, c)
  else
    let bad (n : Nat) : Res Conc × Conc := (.error Abort.general, c.put O.taskLoadStatus n)
    if c.sec.owner ≠ 1 then bad 6
    else match c.lowestInstance k with
      | some i => (.error (Abort.owned (ownerCode 0x03 i)), c)
      | none =>
        match c.judgeEnvelope 2 false true (toBytes c.eng.staged.1 c.eng.staged.2) with
        | .error .version => bad 5
        | .error _ => bad 3
        | .ok e =>
          let h := hdrOf e.payload
          if h.ok e.payload.length = false then bad 4
          else
            let s : TaskSlot := { version := e.version, measurement := e.measurement, hdr := h, image := ofBytes e.payload }
            let d := ({ c with eng := { c.eng with slots := Bank.set none c.eng.slots k (some s) } } : Conc).touch.put O.taskLoadStatus 2
            (.ok d, d)

/-- The active partner, with an ACTIVE peer lane (R16), pushes the image of an installed slot to its partner (R386): at most 24 MiB in all.
(DEDUCED, log entry 29) -/
def Conc.pushImage (c : Conc) : Conc :=
  let used := c.pair.pushedImages.foldl (fun n p => n + p.1) 0
  if c.pair.state = 1 ∧ [162, 163].any (fun i => decide ((c.lane i).st = .active)) ∧ used + c.eng.staged.1 ≤ 25165824 then
    { c with pair := { c.pair with pushedImages := c.pair.pushedImages ++ [c.eng.staged] } }
  else c

/-- TASK_UNLOAD of slot `k`. -/
def Conc.taskUnload (c : Conc) (k : Nat) : Res Conc :=
  match c.lowestInstance k with
  | some i => .error (Abort.owned (ownerCode 0x03 i))
  | none => .ok ({ c with eng := { c.eng with slots := Bank.set none c.eng.slots k none } } : Conc).touch

/-- `TaskSlots`. -/
def Conc.taskSlots (c : Conc) : Nat :=
  c.eng.slots.foldl (fun v p =>
    match p.2 with
    | none => v
    | some s =>
      let n := (c.eng.ctxs.filter fun x => x.2.st ≠ 0 && x.2.slot = p.1).length
      v + (1 + n * 2 ^ 16 + s.version % 2 ^ 32 * 2 ^ 32 + s.measurement % 2 ^ 64 * 2 ^ 64) * 2 ^ (128 * p.1)) 0

/-! ## Distribution of slices (R187, R230) -/

/-- The enable bit, the policy and the members of a subscription. -/
def Conc.subscription (c : Conc) (s : Nat) : Bool × Bool × List Nat :=
  let v := entryGet 1600 (c.get O.subscriptions) s
  (v % 256 = 1, bits v 23 16 = 1, (List.range (min 96 (bits v 15 8))).map fun k => bits v (64 + 16 * k + 15) (64 + 16 * k))

/-- A member takes slices: it is runnable, running or waiting. -/
def Conc.takesSlices (c : Conc) (i : Nat) : Bool := let st := (c.ctx i).st; st == 2 || st == 4

/-- A member has room: fewer than four slices queued. -/
def Conc.hasRoom (c : Conc) (i : Nat) : Bool := decide ((c.ctx i).slices.length < 4)

/-- A slice joins a context's queue. -/
def Conc.giveSlice (c : Conc) (i : Nat) (x : FeedSlice) (passed : Bool) : Conc :=
  let y := { x with passedOn := x.passedOn || passed, buffer := [], readKey := x.start, readOff := 0, ended := false }
  let c := (c.updCtx i fun z => { z with slices := z.slices ++ [y] }).countEntry O.sliceCounters 32 (4 * x.sub)
  let c := if passed then c.countEntry O.sliceCounters 32 (4 * x.sub + 1) else c
  (c.wakeCluster (c.ctxCluster i)).wakeWaiting i

/-- A slice is skipped. -/
def Conc.skipSlice (c : Conc) (s : Nat) : Conc := c.countEntry O.sliceCounters 32 (4 * s + 2)

/-- The first member with room, in membership order from position `k` on. -/
def Conc.nextWithRoom (c : Conc) (ms : List Nat) (k : Nat) : Option Nat := (ms.drop k ++ ms.take k).find? c.hasRoom

/-- Assign a slice of subscription `s` to the member that R187 names, or as its policy says. -/
def Conc.assignSlice (c : Conc) (s : Nat) (x : FeedSlice) : Conc :=
  let b := c.subscription s
  let ms := b.2.2.filter c.takesSlices
  match ms[x.number % ms.length]? with
  | none => c.skipSlice s
  | some i =>
    if c.hasRoom i then c.giveSlice i x false
    else if b.2.1 then
      match c.nextWithRoom ms (x.number % ms.length + 1) with
      | some j => c.giveSlice j x true
      | none => c.skipSlice s
    else c.skipSlice s

/-- The slices of a member that leaves go to the remaining members in order (R187). (DEDUCED, log entry 29) -/
def Conc.redistribute (c : Conc) (i : Nat) (leaves : FeedSlice → Bool) : Conc :=
  let xs := (c.ctx i).slices.filter leaves
  let c := c.updCtx i fun x => { x with slices := x.slices.filter fun s => !leaves s }
  xs.foldl (fun c x =>
    let ms := (c.subscription x.sub).2.2.filter fun j => j ≠ i && c.takesSlices j
    match c.nextWithRoom ms (x.number % (max 1 ms.length)) with
    | some j => c.giveSlice j x false
    | none => c.skipSlice x.sub) c

/-- SLICE_COMPLETE: when H has reached the end of the next slice's span it is handed to every subscription (R186, R187). -/
def Conc.sliceComplete (c : Conc) : Conc :=
  let c := c.sliceSkip
  match c.nextSlice with
  | none => c
  | some x =>
    if c.gather.h < x.span then c
    else
      let c := (List.range 16).foldl (fun c s =>
        if (c.subscription s).1 then
          let n := Bank.get 0 c.eng.subNext s
          let c := { c with eng := { c.eng with subNext := Bank.set 0 c.eng.subNext s (n + 1) } }
          c.assignSlice s { sub := s, number := n, start := x.start, stop := x.stop, span := x.span, readKey := x.start }
        else c) c
      c.sliceStep

/-- A table of subscriptions is refused when a member stands twice or there are more than 96 (R236), or when an enable, a
policy or a member is no code of the card. (DEDUCED, log entry 29) -/
def subscriptionsOk (v : Nat) : Bool :=
  (List.range 16).all fun s =>
    let x := entryGet 1600 v s
    let n := bits x 15 8
    let ms := (List.range n).map fun k => bits x (64 + 16 * k + 15) (64 + 16 * k)
    decide (n ≤ 96) && decide (ms.eraseDups.length = ms.length) && decide (x % 256 ≤ 1) && decide (bits x 23 16 ≤ 1)
      && ms.all fun m => decide (m < 384)

/-- A write of `Subscriptions`: a subscription that starts counts from 0; slices of members that left move on. -/
def Conc.writeSubscriptions (c : Conc) (v : Nat) : Res Conc :=
  if subscriptionsOk v = false then .error Abort.range
  else
    let old := c
    let c := c.put O.subscriptions v
    let c := (List.range 16).foldl (fun c s =>
      if (c.subscription s).1 ∧ (old.subscription s).1 = false then
        { c with eng := { c.eng with subNext := Bank.set 0 c.eng.subNext s 0 } }
      else c) c
    .ok ((c.eng.ctxs.map Prod.fst).foldl (fun c i =>
      c.redistribute i fun x => let b := c.subscription x.sub; b.1 && !b.2.2.contains i) c)

/-! ## Instances (R226-R228) -/

/-- A context's entry of `InstanceConfig`: slot, subscription, argument. -/
def Conc.instanceCfg (c : Conc) (i : Nat) : Nat × Nat × Nat :=
  let v := entryGet 64 (c.get O.instanceConfig) i
  (v % 256, bits v 15 8, v / 2 ^ 32)

/-- The slots and subscriptions of a table of instances are codes of its card. -/
def instanceConfigOk (v : Nat) : Bool :=
  (List.range 384).all fun i =>
    let x := entryGet 64 v i
    (decide (x % 256 < 64) || x % 256 == 0xFF) && (decide (bits x 15 8 < 16) || bits x 15 8 == 0xFF)

/-- A write of `InstanceConfig` leaves every context that is not IDLE as it was; a code that the card does not give refuses it.
(DEDUCED, log entry 29) -/
def Conc.writeInstanceConfig (c : Conc) (v : Nat) : Res Conc :=
  if instanceConfigOk v = false then .error Abort.range
  else match (List.range 384).find? fun i =>
    (c.ctx i).st ≠ 0 ∧ entryGet 64 (c.get O.instanceConfig) i ≠ entryGet 64 v i with
  | some i => .error (Abort.owned (ownerCode 0x03 i))
  | none => .ok (c.put O.instanceConfig v)

/-- Free ranges of `n` bytes in all, lowest first, from `lo` on and below `hi`, between ranges in use; they need not adjoin. -/
def freeRanges (used : List (Nat × Nat)) (hi : Nat) : Nat → Nat → Nat → Option (List (Nat × Nat))
  | 0, _, _ => none
  | fuel + 1, lo, n =>
    if n = 0 then some []
    else if hi ≤ lo then none
    else match used.find? fun r => decide (r.1 ≤ lo) && decide (lo < r.1 + r.2) with
      | some r => freeRanges used hi fuel (r.1 + r.2) n
      | none =>
        let next := used.foldl (fun m r => if lo < r.1 then min m r.1 else m) hi
        let k := min n (next - lo)
        (freeRanges used hi fuel (lo + k) (n - k)).map fun rs => (lo, k) :: rs

/-- Whole pages. -/
def pages (n : Nat) : Nat := (n + 4095) / 4096 * 4096

/-- The regions of a holder in some ranges. -/
def regionsOf (holder : Nat) (rs : List (Nat × Nat)) : List Region :=
  rs.map fun r => { holder := holder, start := r.1, size := r.2 }

/-- Take `n` bytes of the task pool, zero-filled (R245). -/
def Conc.takePool (c : Conc) (holder n : Nat) : Option (List (Nat × Nat) × Conc) :=
  let used := (c.mem.pool.map fun r => (r.start, r.size)) ++ c.heldFrames.map fun f => (f * 4096, 4096)
  (freeRanges used (2 ^ 37) (2 * used.length + 2) c.poolStart n).map fun rs =>
    (rs, (rs.foldl (fun c r => c.fill r.1 (r.1 + r.2)) c).withMem fun m => { m with pool := m.pool ++ regionsOf holder rs })

/-- Take `n` bytes of a local memory of `size` bytes from `base`. -/
def takeLocal (rs : List Region) (holder base size n : Nat) : Option (List (Nat × Nat) × List Region) :=
  let used := rs.map fun r => (r.start, r.size)
  (freeRanges used (base + size) (2 * used.length + 2) base n).map fun new => (new, rs ++ regionsOf holder new)

/-- The Ringmaster fills ranges of physical cluster `k`'s memories: an access to a sleeping cluster wakes it and waits (R215). -/
def Conc.fillLocal (c : Conc) (k : Nat) (rs : List (Nat × Nat)) : Conc :=
  if (c.clusterPw k).asleep then
    ({ c with eng := { c.eng with fills := c.eng.fills ++ rs.map fun r => (k, r.1, r.1 + r.2) } } : Conc).wakeCluster k
  else rs.foldl (fun c r => c.fill r.1 (r.1 + r.2)) c

/-- The channels of 0-27 that an instance may get: those free, or in the Ringmaster's use. (DEDUCED, log entry 26) -/
def Conc.freeChannels (c : Conc) : List Nat :=
  (List.range 28).filter fun k => (c.mover k).owner = 0xFFFF ∨ (c.mover k).owner = 0xFFFE

/-- The Ringmaster uses the lowest free channel in physical mode while an instance is STARTING (R251). (DESIGN CHOICE, log entry 52) -/
def Conc.takeFiller (c : Conc) : Conc :=
  match (List.range 28).find? fun k => (c.mover k).owner = 0xFFFF with
  | some ch => c.setMover ch { owner := 0xFFFE }
  | none => c

/-- With no instance STARTING the Ringmaster's channels are free again. -/
def Conc.dropFiller (c : Conc) : Conc :=
  if c.eng.ctxs.any fun x => x.2.st = 1 then c
  else (List.range 28).foldl (fun c k => if (c.mover k).owner = 0xFFFE then c.setMover k {} else c) c

def stackTop : Nat := 0x3FFFFFF000

/-- Map ranges one behind the other from `va` on. -/
def Conc.mapRanges (c : Conc) (i va : Nat) (rs : List (Nat × Nat)) (r w x uncached : Bool) : Conc :=
  let leaves := (rs.foldl (fun (q : Nat × List Leaf) p =>
    (q.1 + p.2, q.2 ++ leavesOf r w x uncached (p.2 / 4096 + 1) q.1 p.1 p.2)) (va, [])).2
  c.updCtx i fun y => { y with table := y.table ++ leaves }

/-- Map `n` pool bytes at `va` for the instance, with the ranges taken; nothing is mapped for none. -/
def Conc.mapPool (c : Conc) (i holder va n : Nat) (r w x uncached : Bool) : Res (List (Nat × Nat) × Conc) :=
  if n = 0 then .ok ([], c)
  else match c.takePool holder n with
    | none => .error (Abort.owned (ownerCode 0x0B (2 ^ 16)))
    | some (rs, c) => .ok (rs, c.mapRanges i va rs r w x uncached)

/-- Put the bytes of an image into ranges, `skip` bytes from their start on. -/
def Conc.loadRanges (c : Conc) : List (Nat × Nat) → Nat → List Nat → Conc
  | [], _, _ => c
  | r :: rest, skip, bs =>
    let k := r.2 - skip
    let c := if bs.take k = [] then c else c.loadImage (r.1 + skip) (bs.take k)
    c.loadRanges rest (skip - r.2) (bs.drop k)

/-- A segment's pages, with its file bytes written. (DEDUCED, log entry 29) -/
def Conc.mapSegment (c : Conc) (i : Nat) (image : Nat) (s : SegHdr) : Res Conc := do
  let lo := s.va / 4096 * 4096
  let q ← c.mapPool i i lo (pages (s.va + s.size - lo)) s.r s.w s.x false
  pure (q.2.loadRanges q.1 (s.va - lo) (toBytes s.fileSize (image / 2 ^ (8 * s.offset))))

/-- Map the shared window of a task, uncacheable: the one that stands, or a new one. -/
def Conc.mapShared (c : Conc) (i k va n : Nat) : Res Conc :=
  match (c.mem.pool.filter fun r => r.holder = 1000 + k) with
  | [] => (c.mapPool i (1000 + k) va n true true false true).map Prod.snd
  | rs => .ok (c.mapRanges i va (rs.map fun r => (r.start, r.size)) true true false true)

/-- The scratchpad share. -/
def Conc.mapScratch (c : Conc) (i n : Nat) : Res Conc :=
  if n = 0 then .ok c
  else
    let e := i / 4
    let base := scratchBase + ((c.engine e).getD 0) * 0x40000
    let mine := c.mem.scratch.filter fun r => base ≤ r.start ∧ r.start < base + 0x40000
    let rest := c.mem.scratch.filter fun r => ¬(base ≤ r.start ∧ r.start < base + 0x40000)
    match takeLocal mine i base 0x40000 n with
    | none => .error (Abort.owned (ownerCode 0x0B (2 * 2 ^ 16 + e)))
    | some (new, rs) =>
      .ok (((c.withMem fun m => { m with scratch := rest ++ rs }).fillLocal (((c.engine e).getD 0) / 8) new).mapRanges i
        0x1000000000 new true true false true)

/-- The task's cluster region. -/
def Conc.mapCluster (c : Conc) (i k n : Nat) : Res Conc :=
  if n = 0 then .ok c
  else
    let p := c.ctxCluster i
    let base := clusterBase + p * 0x400000
    let here (r : Region) : Bool := decide (base ≤ r.start) && decide (r.start < base + 0x400000)
    let map (c : Conc) (rs : List (Nat × Nat)) : Conc := c.mapRanges i 0x1100000000 rs true true false true
    match c.mem.cluster.filter fun r => r.holder = 2000 + k && here r with
    | [] =>
      match takeLocal (c.mem.cluster.filter here) (2000 + k) base 0x400000 n with
      | none => .error (Abort.owned (ownerCode 0x0B (3 * 2 ^ 16 + p)))
      | some (new, rs) =>
        .ok (map ((c.withMem fun m => { m with cluster := (m.cluster.filter fun r => !here r) ++ rs }).fillLocal p new) new)
    | rs => .ok (map c (rs.map fun r => (r.start, r.size)))

/-- The registers of a context as it begins (R228). -/
def Ctx.begin (x : Ctx) (i pc sp : Nat) (again : Bool) : Ctx :=
  let y := { x with regs := [], pc := pc, results := [], resv := none, wait := none, logDue := none, parity := false }
  ((((y.setReg 2 sp).setReg 10 i).setReg 11 x.sub).setReg 12 (b1 again)).setReg 13 x.arg

/-- INSTANCE_START of context `i`: resources are checked in the order of R226 and taken. -/
def Conc.startInstance (c : Conc) (i : Nat) : Res Conc := do
  let busy := Abort.owned (ownerCode 0x03 i)
  if (c.ctx i).st ≠ 0 then .error busy
  else
    let (k, sub, arg) := c.instanceCfg i
    match c.taskSlot k with
    | none => .error busy
    | some s =>
      let h := s.hdr
      if bitAt h.classes (i % 4) = false then .error Abort.range
      else
        let x : Ctx := { st := 1, slot := k, sub := sub, arg := arg, restartPc := h.entry, restartSp := stackTop, cause := (c.ctx i).cause,
                         faults := (c.ctx i).faults, faultPc := (c.ctx i).faultPc, faultVal := (c.ctx i).faultVal,
                         instret := (c.ctx i).instret }
        let c ← (c.setCtx i x).mapScratch i h.scratch
        let c ← c.mapCluster i k h.cluster
        let chans := c.freeChannels.take h.channels
        if chans.length < h.channels then .error (Abort.owned (ownerCode 0x0A 0))
        else
          let c := chans.foldl (fun c ch => c.setMover ch { owner := i }) c
          let regs := chans.zipIdx.map fun p => leafOf (0x3000000000 + 0x1000 * p.2) (pageBase + 0x1000 * p.1) 0 true true false true
          let c := c.updCtx i fun y => { y with channels := chans, table := y.table ++ regs }
          let c ← h.segs.foldlM (fun c g => c.mapSegment i s.image g) c
          let c ← (c.mapPool i i 0x2000000000 h.priv true true false false).map Prod.snd
          let c ← if h.shared = 0 then .ok c else c.mapShared i k 0x2800000000 (pages h.shared)
          let c ← (c.mapPool i i (stackTop - h.stack) h.stack true true false false).map Prod.snd
          pure (c.takeFiller.updCtx i fun y => y.begin i h.entry stackTop false)

/-- INSTANCE_RUNNABLE: once the fills that wait for its cluster are done. -/
def Conc.instanceRunnable (c : Conc) (i : Nat) : Conc :=
  if (c.ctx i).st = 1 ∧ !(c.eng.fills.any fun f => f.1 = c.ctxCluster i) then (c.makeRunnable i).dropFiller else c

/-- Free what an instance holds: its frames, local memories and, with its last instance, the task's shared regions (R262). -/
def Conc.freeInstance (c : Conc) (i : Nat) : Conc :=
  let x := c.ctx i
  let c := x.channels.foldl (fun c ch => c.moverFree ch) c
  let c := c.setCtx i { st := if (c.engine (i / 4)).isNone then 9 else 0, cause := x.cause, faults := x.faults, faultPc := x.faultPc, faultVal := x.faultVal, instret := x.instret }
  let others := c.eng.ctxs.filter fun y => y.2.st ≠ 0 && y.2.slot = x.slot
  let here := others.any fun y => c.ctxCluster y.1 = c.ctxCluster i
  let base := clusterBase + c.ctxCluster i * 0x400000
  (c.withMem fun m =>
    { m with pool := m.pool.filter fun r => r.holder ≠ i && !(r.holder = 1000 + x.slot && others.isEmpty),
             scratch := m.scratch.filter fun r => r.holder ≠ i,
             cluster := m.cluster.filter fun r => !(r.holder = 2000 + x.slot && !here && decide (base ≤ r.start) && decide (r.start < base + 0x400000)) }).dropFiller

/-- DRAIN_COMPLETE: every channel of a draining instance has drained. -/
def Conc.drainComplete (c : Conc) (i : Nat) : Conc :=
  if (c.ctx i).st = 8 then
    let c := (c.ctx i).channels.foldl (fun c ch => c.descriptorComplete ch) c
    c.freeInstance i
  else c

/-- A kill or an exit (R262): the channels drain; with none at work the instance is IDLE at once. -/
def Conc.endInstance (c : Conc) (i : Nat) : Conc :=
  let x := c.ctx i
  let c := c.setCtx i { x with st := 8, wait := none, results := [], logDue := none }
  let c := c.redistribute i fun _ => true
  let c := { c with tap := { c.tap with halted := c.tap.halted.filter (· ≠ i) } }
  let c := x.channels.foldl (fun c ch => c.moverDrain ch) c
  if x.channels.all fun ch => (c.mover ch).ended.isNone then c.drainComplete i else c

/-- A restart at the restart point (R228): the current slice is fed again from its first word. -/
def Conc.restart (c : Conc) (i : Nat) : Conc :=
  let x := c.ctx i
  let slices := match x.slices with
    | s :: rest => { s with buffer := [], readKey := s.start, readOff := 0, ended := false } :: rest
    | [] => []
  (c.setCtx i { x.begin i x.restartPc x.restartSp true with slices := slices }).makeRunnable i

/-- One instance command on one context (R236): 1 start, 2 suspend, 3 resume, 4 kill, 5 restart. (DEDUCED, log entry 29) -/
def Conc.instanceOne (c : Conc) (cmd i : Nat) : Res Conc :=
  let x := c.ctx i
  let refuse : Res Conc := .error (Abort.owned (ownerCode 0x03 i))
  match cmd with
  | 1 => c.startInstance i
  | 2 => if x.st = 2 ∨ x.st = 4 then .ok (c.setCtx i { x with st := 6, before := x.st }) else refuse
  | 3 =>
    if x.st = 7 then .ok (c.makeRunnable i)
    else if x.st = 6 then
      if x.before = 4 then .ok ((c.setCtx i { x with st := 4 }).wakeWaiting i) else .ok (c.makeRunnable i)
    else refuse
  | 4 => if x.st = 0 ∨ x.st = 8 then refuse else .ok (c.endInstance i)
  | _ => if x.st = 2 ∨ x.st = 4 ∨ x.st = 6 ∨ x.st = 7 then .ok (c.restart i) else refuse

/-- A write of `InstanceCommand`: on the context selected, or on every configured context where it applies.
(DEDUCED, log entry 29) -/
def Conc.instanceCommand (c : Conc) (cmd : Nat) : Res Conc :=
  let s := c.get O.instanceSelect
  if s = 0xFFFF then
    .ok ((List.range 384).foldl (fun c i =>
      if (c.instanceCfg i).1 = 0xFF then c
      else match c.instanceOne cmd i with
        | .ok d => d
        | .error _ => c) c)
  else if s < 384 then c.instanceOne cmd s
  else .error Abort.range

/-! ## Services and restarts (R229, R232) -/

/-- What a service does as it is entered. -/
def Conc.service (code i : Nat) (c : Conc) : Conc :=
  let x := c.ctx i
  match code with
  | 0 =>
    let c := c.setCtx i { x with cause := 0x30, faultPc := x.pc, faultVal := x.reg 10 }
    (c.post 0 0 0x20 (ownerCode 0x03 i) (x.reg 10)).endInstance i
  | 1 => c.setCtx i x.setRestart
  | _ => c.postLog i (c.baseTicks % 2 ^ 64)

/-- SERVICE_COMPLETE: the context goes on behind its ECALL; a LOG that waits for the next second waits on. -/
def Conc.serviceComplete (c : Conc) (i : Nat) : Conc :=
  if (c.ctx i).st ≠ 5 then c
  else
    let c := match (c.ctx i).logDue with
      | some t => c.postLog i t
      | none => c
    if (c.ctx i).logDue.isSome then c
    else (c.updCtx i fun x => x.retire 4).makeRunnable i

/-- A register-file parity error that has been read restarts the instance (R232). -/
def Conc.parityRead (c : Conc) (i : Nat) : Conc :=
  let x := c.ctx i
  let c := (c.setCtx i { x with cause := 0x23, faults := satAdd 16 x.faults 1, faultPc := x.pc, faultVal := 0 }).count O.parityRestarts
  let c := match c.engine (i / 4) with
    | some p => c.faultEvent 0x03 p 0x0B false (ownerCode 0x03 i)
    | none => c
  c.restart i

/-- PARITY_RESTART: a parity error arises in a context's register file.  The engine that runs the context reads it at once; in
any other context it is found on the next read, when the context runs again (R235). (DEDUCED, log entry 29) -/
def Conc.parityRestart (c : Conc) (i : Nat) : Conc :=
  let x := c.ctx i
  if x.st = 0 ∨ x.st = 1 ∨ x.st = 8 ∨ x.st = 9 then c
  else if c.current (i / 4) = some i then c.parityRead i
  else c.setCtx i { x with parity := true }

/-- One instruction of an engine for a command: a parity error that waits in the context it runs is found first. -/
def Conc.engineCommand (c : Conc) (e : Nat) (t : Take) : Conc :=
  match c.current e with
  | some i => if (c.ctx i).parity then (c.switchTo e (i % 4)).parityRead i else c.engineStep e t Conc.service
  | none => c.engineStep e t Conc.service

/-! ## Cluster sleep (R215) -/

/-- A physical cluster is at work: a context is runnable, an operation outstanding, or a mover of its instances running. -/
def Conc.clusterBusy (c : Conc) (k : Nat) : Bool :=
  c.eng.ctxs.any fun p =>
    c.ctxCluster p.1 == k && (p.2.st == 2 || !p.2.results.isEmpty || p.2.channels.any fun ch => let m := c.mover ch; m.state == 1 || m.state == 3 || m.state == 4)

/-- Note since when the listed clusters are idle. -/
def Conc.noteIdle (c : Conc) : Conc :=
  (List.range 13).foldl (fun c k =>
    let x := c.clusterPw k
    if x.asleep then c
    else if c.clusterBusy k then (if x.idleSince.isSome then c.setClusterPw k { x with idleSince := none } else c)
    else match x.idleSince with
      | some _ => c
      | none => c.setClusterPw k { x with idleSince := some c.tick }) c

/-- CLUSTER_IDLE_TIMEOUT. -/
def Conc.clusterSleep (c : Conc) (k : Nat) : Conc :=
  let x := c.clusterPw k
  match x.idleSince with
  | some t =>
    let d := c.get O.clusterIdle
    if d = 0 ∨ x.asleep ∨ c.clusterBusy k ∨ c.tick < t + d * 375 / 4 then c
    else c.setClusterPw k { x with asleep := true, waking := none, idleSince := none }
  | none => c

/-- CLUSTER_WAKE_COMPLETE: the cluster runs on the clock that `EngineClock` sets (R342), and the fills that waited are done. -/
def Conc.clusterWake (c : Conc) (k : Nat) : Conc :=
  let x := c.clusterPw k
  if x.asleep ∧ x.waking.isSome then
    let c := (c.setClusterPw k { x with asleep := false, waking := none, speed := c.get O.engineClock }).count O.clusterWakes
    let mine := c.eng.fills.filter fun f => f.1 = k
    let c := { c with eng := { c.eng with fills := c.eng.fills.filter fun f => f.1 ≠ k } }
    mine.foldl (fun c f => c.fill f.2.1 f.2.2) c
  else c

/-- Thirds of engine cycles in a base tick, by the code of `EngineClock`. -/
def cycleThirds (code : Nat) : Nat := (96 - 16 * (code % 5))

/-- One base tick of the engines: clocks and the cycles of the classes they run. (DEDUCED, log entry 30) -/
def Conc.engineTick (c : Conc) : Conc :=
  let c := (List.range 13).foldl (fun c k =>
    let x := c.clusterPw k
    if x.asleep ∨ ((List.range 12).all fun l => c.cluster l ≠ k) then c
    else c.setClusterPw k { x with clk := x.clk + cycleThirds x.speed }) c
  (List.range 96).foldl (fun c e =>
    match c.current e with
    | some i => { c with eng := { c.eng with cycles := Bank.upd 0 c.eng.cycles i (· + cycleThirds (c.clusterPw (c.cluster (e / 8))).speed) } }
    | none => c) c

end Sys2Proof.Machine
end

