-- ==== Sys2Proof/Machine/ConcFault.lean ====
section
/-! DEFINITION. Fault accounting, repair and degraded operation at the concentrator (chapter 16): self-tests (R352, R355),
spares (R356-R360), moves of logical clusters (R214), the Annealer (R362, R363), the Roustabout (R365-R367), the fault log
(R369-R371). -/

namespace Sys2Proof.Machine

def Conc.withFaults (c : Conc) (f : Faults → Faults) : Conc := { c with faults := f c.faults }

/-! ## Engines and clusters (R213, R214) -/

/-- A physical engine is in service: it and its cluster are not RETIRED. -/
def Conc.engineLives (c : Conc) (p : Nat) : Bool :=
  decide ((c.health 0x03 p).st ≠ .retired) && decide ((c.health 0x04 (p / 8)).st ≠ .retired)

/-- A physical cluster that hosts no logical cluster. -/
def Conc.clusterUnused (c : Conc) (k : Nat) : Bool := (List.range 12).all fun l => c.cluster l ≠ k

/-- The HEALTHY engines of a physical cluster. -/
def Conc.healthyEngines (c : Conc) (k : Nat) : List Nat :=
  if (c.health 0x04 k).st = .retired then []
  else (List.range 8).filterMap fun j => if (c.health 0x03 (8 * k + j)).st = .healthy then some (8 * k + j) else none

def Conc.mapEngine (c : Conc) (e : Nat) (p : Option Nat) : Conc :=
  let v := match p with | some p => if p = e then 0 else p + 1 | none => 256
  { c with eng := { c.eng with map := Bank.set 0 c.eng.map e v } }

/-- A context whose logical engine is lost: LOST, with cause 0x25 recorded and posted for an instance (R233). -/
def Conc.loseContext (c : Conc) (i : Nat) : Conc :=
  let x := c.ctx i
  if x.st = 9 then c
  else
    let y := { x with st := 9, before := x.st, resv := none }
    if x.st = 0 then c.setCtx i y
    else
      let c := c.setCtx i { y with cause := 0x25, faults := satAdd 16 x.faults 1, faultPc := x.pc, faultVal := 0 }
      ((c.count O.taskFaults).post 0 0 0x20 (ownerCode 0x03 i)).redistribute i fun _ => true

/-- A logical engine is lost (R214, R356): its contexts are LOST and their slices go to the other members; the unit that
served it is remembered for a move that waits. -/
def Conc.loseEngine (c : Conc) (e : Nat) : Conc :=
  let c := match c.engine e with
    | some p => { c with eng := { c.eng with servedBy := Bank.set 0 c.eng.servedBy e (p + 1) } }
    | none => c
  (List.range 4).foldl (fun c k => c.loseContext (4 * e + k)) (c.mapEngine e none)

/-- Copy a range of memory with its stored errors. -/
def MemSt.copyRange (m : MemSt) (src dst len : Nat) : MemSt :=
  let m := m.zero dst (dst + len)
  let bytes := (m.bytes.filter fun p => decide (src ≤ p.1) && decide (p.1 < src + len)).foldl
    (fun b p => Bank.insert b (p.1 - src + dst) p.2) m.bytes
  let errs := (m.errs.filter fun p => decide (src / 8 ≤ p.1) && decide (p.1 < (src + len) / 8)).foldl
    (fun b p => Bank.insert b (p.1 - src / 8 + dst / 8) p.2) m.errs
  { m with bytes := bytes, errs := errs }

/-- An address that lies in a range moves with it. -/
def moved (src dst len a : Nat) : Nat := if src ≤ a ∧ a < src + len then a - src + dst else a

/-- A range of local memory is read through its code before it is copied (R247, R248): words corrected, sectors poisoned,
reads of poisoned sectors counted. -/
def Conc.readRange (c : Conc) (src len : Nat) : Conc :=
  let hit := (c.mem.errs.map fun p => p.1 / 4).eraseDups.filter fun s => decide (src ≤ 32 * s) && decide (32 * s < src + len)
  hit.foldl (fun c s => (c.touchSector (32 * s) 32).2) c

/-- A range of local memory moves: contents, regions, mappings and the fills that wait for it. -/
def Conc.moveRange (c : Conc) (src dst len : Nat) : Conc :=
  if src = dst then c
  else
    let go (r : Region) : Region := { r with start := moved src dst len r.start }
    let c := (c.readRange src len).withMem fun m =>
      { m.copyRange src dst len with scratch := m.scratch.map go, cluster := m.cluster.map go }
    let c := c.flipRange dst (dst + len)
    { c with eng := { c.eng with
        ctxs := c.eng.ctxs.map fun p =>
          (p.1, { p.2 with resv := none, table := p.2.table.map fun l => l.repoint (moved src dst len l.pa) }),
        fills := c.eng.fills.map fun x =>
          let lo := moved src dst len x.2.1
          ((clusterOf lo).getD x.1, lo, lo + (x.2.2 - x.2.1)) } }

/-- A logical cluster moves to physical cluster `u`: its memory, the scratchpads of its engines, its contexts (R214); the
channels at work on those memories are paused (R263).  The live engines come first; a lost one that waited for the move and
finds no engine stays lost.  Clusters that sleep are woken, and what lies on them waits for the wake (R215).
(DEDUCED, log entry 33) -/
def Conc.moveCluster (c : Conc) (l u : Nat) : Conc :=
  let old := c.cluster l
  let healthy := c.healthyEngines u
  let c := (c.pauseMovers (clusterBase + old * 0x400000) 0x400000).pauseMovers (scratchBase + old * 0x200000) 0x200000
  let c := c.moveRange (clusterBase + old * 0x400000) (clusterBase + u * 0x400000) 0x400000
  let lost := (List.range 8).filter fun j => (c.engine (8 * l + j)).isNone && !c.faults.lostForGood.contains (8 * l + j)
  let all := ((List.range 8).filter fun j => (c.engine (8 * l + j)).isSome) ++ lost
  let c := (c.wakeCluster old).wakeCluster u
  let c := (all.zip healthy).foldl (fun c x =>
    let e := 8 * l + x.1
    let from' := match c.engine e with
      | some p => p
      | none => match Bank.get 0 c.eng.servedBy e with | 0 => 8 * old + x.1 | v => v - 1
    let c := (c.moveRange (scratchBase + from' * 0x40000) (scratchBase + x.2 * 0x40000) 0x40000).mapEngine e (some x.2)
    (List.range 4).foldl (fun c k =>
      let y := c.ctx (4 * e + k)
      if y.st = 9 then c.setCtx (4 * e + k) { y with st := y.before } else c) c) c
  let c := (all.drop healthy.length).foldl (fun (c : Conc) j =>
    (c.withFaults fun x => { x with lostForGood := x.lostForGood ++ [8 * l + j] }).post 0x03
      (match Bank.get 0 c.eng.servedBy (8 * l + j) with | 0 => 8 * old + j | v => v - 1) 0x14) c
  let v := if u = l then 0 else u + 1
  { c with eng := { c.eng with clusterMap := Bank.set 0 c.eng.clusterMap l v,
                               movePending := c.eng.movePending.filter (· ≠ l) } }

/-- The unused physical cluster to which a logical cluster with `n` live engines may move (R214). -/
def Conc.moveTarget (c : Conc) (n : Nat) : Option Nat :=
  (List.range 13).find? fun k => c.clusterUnused k && decide (n ≤ (c.healthyEngines k).length)

/-- The logical engines that physical engines served which are out of service: their cluster moves, or they are lost
(R214, R356). (DEDUCED, log entry 33) -/
def Conc.settleCluster (c : Conc) (l : Nat) : Conc :=
  let here := (List.range 8).map fun j => 8 * l + j
  let dead := here.filter fun e => match c.engine e with | some p => !c.engineLives p | none => false
  if dead = [] then c
  else
    let live := (here.filter fun e => (c.engine e).isSome).length
    match c.moveTarget live with
    | some u =>
      if c.get O.migrateLive = 1 then (c.moveCluster l u).post 0x04 u 0x13
      else
        let c := dead.foldl (fun c e => c.loseEngine e) c
        { c with eng := { c.eng with movePending := if c.eng.movePending.contains l then c.eng.movePending else c.eng.movePending ++ [l] } }
    | none =>
      dead.foldl (fun c e => ((c.loseEngine e).withFaults fun x => { x with lostForGood := x.lostForGood ++ [e] }).post 0x03
        ((c.engine e).getD 0) 0x14) c

def Conc.settleClusters (c : Conc) : Conc := (List.range 12).foldl (fun c l => c.settleCluster l) c

/-- The moves that waited for a sleep window (R362). -/
def Conc.deferredMoves (c : Conc) : Conc :=
  c.eng.movePending.foldl (fun c l =>
    let here := (List.range 8).map fun j => 8 * l + j
    let n := (here.filter fun e => !c.faults.lostForGood.contains e).length
    match c.moveTarget n with
    | some u => (c.moveCluster l u).post 0x04 u 0x13
    | none =>
      let lost := here.filter fun e => (c.engine e).isNone && !c.faults.lostForGood.contains e
      let c := { c with eng := { c.eng with movePending := c.eng.movePending.filter (· ≠ l) } }
      lost.foldl (fun c e => (c.withFaults fun x => { x with lostForGood := x.lostForGood ++ [e] }).post 0x03 e 0x14) c) c

/-! ## Lanes (R357) -/

/-- The lowest ACTIVE spare back-end lane other than physical lane `m`, which leaves service (R357). -/
def Conc.activeSpare (c : Conc) (m : Nat) : Option Nat :=
  (List.range 18).find? fun n => n ≠ m && c.logical n = 255 && decide ((c.lane (laneBe n)).st = .active)

/-- A spare takes logical lane `l`: it re-enters CAPS and announces the number (R111). -/
def Conc.assignSpare (c : Conc) (n l : Nat) : Conc :=
  ((c.updLane (laneBe n) fun x => { x.enterCaps c.tick with announced := some l }).setLogical n l).post 0x01 (laneBe n) 0x13

/-- Physical back-end lane `n` gives up its logical number: a spare takes it, or it is lost.  Before the lanes are up the
power-up pass makes the assignments (R362). -/
def Conc.replaceLane (c : Conc) (n : Nat) : Conc :=
  if c.boot.step < 10 then c
  else
  let l := c.logical n
  let c := (c.recordLosses (laneBe n)).updLane (laneBe n) fun x => { x with announced := none }
  if l = 255 then c
  else
    let c := c.setLogical n 255
    match c.activeSpare n with
    | some k => c.assignSpare k l
    | none => c.post 0x01 (laneBe n) 0x14

/-- A lane as its retirement leaves it (R355): no unpark ends in DETECT (R113). -/
def Lane.retired (l : Lane) (now : Nat) : Lane := { l with st := .retired, since := now, unparkDue := none, parkReq := none }

/-- A lane leaves service for good (R355). -/
def Conc.retireLane (c : Conc) (i : Nat) : Conc :=
  match laneKind i with
  | .backEnd =>
    let c := c.replaceLane (i - 144)
    c.updLane i fun l => l.retired c.tick
  | .downlink =>
    let c := c.updLane i fun l => l.retired c.tick
    let g := c.gport i
    c.setGport i { g with st := .absent, epoch := none }
  | .ingress => (c.laneLost i .retired)
  | .peer => c.updLane i fun l => l.retired c.tick

/-! ## Retirement (R352, R355) -/

/-- Mark a resource RETIRED, with its entry. -/
def Conc.markRetired (c : Conc) (kind num : Nat) : Conc :=
  let h := c.health kind num
  if h.st = .retired then c
  else ((c.setHealth kind num { h with st := .retired, pending := false, testing := none }).post kind num 0x12)

/-- An HBM row without a spare: its frames are removed for the life of the part (R359). -/
def Conc.removeFrames (c : Conc) (num : Nat) : Conc :=
  let r := Bank.get {} c.faults.rows num
  c.withFaults fun x =>
    { x with retiredFrames := x.retiredFrames ++ r.frames.filter (fun f => !x.retiredFrames.contains f),
             rows := Bank.upd {} x.rows num fun r => { r with scheduled := false, heldOut := false } }

/-- What a retirement does. -/
def Conc.retire (c : Conc) (kind num : Nat) : Conc :=
  let c := c.markRetired kind num
  let c := match kind with
    | 0x01 => c.retireLane num
    | 0x02 =>
      let c := c.setQuad num { c.quad num with retired := true }
      (List.range 164).foldl (fun (c : Conc) i => if quadOf i = num then (c.markRetired 0x01 i).retireLane i else c) c
    | 0x03 => c.settleClusters
    | 0x04 => ((List.range 8).foldl (fun (c : Conc) j => c.markRetired 0x03 (8 * num + j)) c).settleClusters
    | 0x06 => c.removeFrames num
    | 0x07 =>
      match macroUnit num with
      | some (0x03, e) => (c.markRetired 0x03 e).settleClusters
      | some (0x04, k) => ((List.range 8).foldl (fun (c : Conc) j => c.markRetired 0x03 (8 * k + j)) (c.markRetired 0x04 k)).settleClusters
      | some (_, u) => c.markRetired 0x05 u
      | none => c
    | 0x08 => ((List.range 8).foldl (fun (c : Conc) j => c.markRetired 0x03 (8 * (num - 18) + j)) (c.markRetired 0x04 (num - 18))).settleClusters
    | _ => c
  c.saveRepair

/-! ## Self-tests (R352, R355, R358-R360) -/

/-- An essential clock PLL (R360): any but those of the clusters. -/
def essential (kind num : Nat) : Bool := kind == 0x08 && !(decide (18 ≤ num) && decide (num ≤ 30))

/-- The spare rows left in the bank of an HBM row. -/
def Conc.bankSpares (c : Conc) (num : Nat) : Nat :=
  (Config.hbmSpares (num / 2 ^ 14)).val - Bank.get 0 c.faults.spareRowsUsed (num / 2 ^ 14)

/-- A test passes: HEALTHY with the counter halved. -/
def Conc.testPassed (c : Conc) (kind num : Nat) : Conc :=
  let h := c.health kind num
  let c := (c.setHealth kind num { h.heal c.tick with failedTest := false }).post kind num 0x11
  let c := if kind = 0x06 then
      c.withFaults fun x => { x with rows := Bank.upd {} x.rows num fun r => { r with heldOut := false } }
    else c
  c.saveRepair

/-- The spares of a concentrator macro: 4 rows and 2 columns (R358). (DEDUCED, log entry 33) -/
def macroSpareCount : Nat := 6

/-- A test fails (R352): a row is scheduled for repair, a macro takes a spare, an essential PLL stays in service, anything
else is RETIRED. (DEDUCED, log entry 33) -/
def Conc.testFailed (c : Conc) (kind num : Nat) : Conc :=
  let h := c.health kind num
  if kind = 0x06 then
    ((c.setHealth kind num { h with pending := true, testing := none }).withFaults fun x =>
      { x with rows := Bank.upd {} x.rows num fun r => { r with scheduled := true, heldOut := true } }).saveRepair
  else if kind = 0x07 ∧ Bank.get 0 c.faults.macroSpares num < macroSpareCount then
    let c := c.withFaults fun x => { x with macroSpares := Bank.upd 0 x.macroSpares num (· + 1) }
    ((c.setHealth kind num (h.heal c.tick)).post kind num 0x13).saveRepair
  else if essential kind num then
    let c := c.setHealth kind num { h with st := .suspect, failedTest := true, pending := true, testing := none }
    ((if h.st = .healthy then c.post kind num 0x10 else c).post kind num 0x16).saveRepair
  else c.retire kind num

/-- Bytes of a frame that something holds. -/
def Conc.frameUsed (c : Conc) (f : Nat) : Bool :=
  let lo := 4096 * f
  if lo < 2 ^ 32 then false
  else if lo < c.poolStart then c.caro.running
  else c.mem.pool.any fun r => decide (r.start < lo + 4096) && decide (lo < r.start + r.size)

/-- A SUSPECT resource is, or can now be, drained in service (R355). -/
def Conc.drainedNow (c : Conc) (kind num : Nat) : Bool :=
  match kind with
  | 0x01 =>
    match laneKind num with
    | .backEnd => c.logical (num - 144) == 255 || (c.activeSpare (num - 144)).isSome
    | .ingress => (c.lane (48 + ((num - 48) ^^^ 1))).delivering
    | .peer => decide ((c.lane (162 + ((num - 162) ^^^ 1))).st = .active)
    | .downlink => false
  | 0x03 => c.clusterUnused (num / 8)
  | 0x04 => c.clusterUnused num
  | 0x05 => !bitAt c.unitBusy num
  | 0x06 => (Bank.get {} c.faults.rows num).frames.all fun f => !c.frameUsed f
  | 0x07 =>
    match macroUnit num with
    | some (0x03, e) => c.clusterUnused (e / 8)
    | some (0x04, k) => c.clusterUnused k
    | some (_, u) => !bitAt c.unitBusy u
    | none => false
  | 0x08 => decide (18 ≤ num ∧ num ≤ 30) && c.clusterUnused (num - 18)
  | _ => false

/-- A SUSPECT resource can be tested: drained in service, or in an Annealer pass that goes on (R355, R362). -/
def Conc.drained (c : Conc) (kind num : Nat) : Bool :=
  c.drainedNow kind num || (c.faults.annealEnd.isSome && !c.faults.annealStop)

/-- The base ticks that a self-test lasts. -/
def testTicks (kind : Nat) : Nat :=
  match kind with
  | 0x01 => 100 * msTicks | 0x02 => 10 * msTicks | 0x03 => 50 * msTicks | 0x04 => 200 * msTicks | 0x05 => 5 * msTicks
  | 0x06 => msTicks | _ => 10 * msTicks

/-- RESOURCE_SELF_TEST_START. -/
def Conc.selfTestStart (c : Conc) (kind num : Nat) : Conc :=
  let h := c.health kind num
  if h.st = .suspect ∧ h.testing = none ∧ c.drained kind num then
    let c := c.setHealth kind num { h with testing := some (c.tick + testTicks kind), pending := true }
    match kind with
    | 0x01 =>
      match laneKind num with
      | .backEnd => (c.replaceLane (num - 144)).updLane num fun l => l.parkTrained c.tick
      | .ingress => c.laneLost num .parked
      | _ => c.updLane num fun l => l.parkTrained c.tick
    | _ => c
  else c

/-- RESOURCE_SELF_TEST_COMPLETE: a lane that passes comes back, a back-end lane as a spare (R357). -/
def Conc.selfTestComplete (c : Conc) (kind num : Nat) (passed : Bool) : Conc :=
  match (c.health kind num).testing with
  | none => c
  | some t =>
    if t ≤ c.tick then
      if passed then
        let c := c.testPassed kind num
        if kind = 0x01 then c.bringUp num else c
      else c.testFailed kind num
    else c

/-! ## The Annealer (R362, R363) -/

/-- The resources that are SUSPECT. -/
def Conc.suspects (c : Conc) : List (Nat × Nat) :=
  (c.faults.health.filterMap fun p => if p.2.st = .suspect ∧ 1 ≤ p.1 / 2 ^ 24 ∧ p.1 / 2 ^ 24 ≤ 8 then some (p.1 / 2 ^ 24, p.1 % 2 ^ 24) else none)
    ++ c.faults.rows.filterMap fun p => if p.2.health.st = .suspect ∧ p.2.scheduled = false then some (0x06, p.1) else none

/-- Tests and repairs that wait (`AnnealPending`). -/
def Conc.annealPending (c : Conc) : Nat :=
  min 65535 (c.suspects.length + (c.faults.rows.countP fun p => p.2.scheduled) + c.eng.movePending.length)

/-- A sleep pass starts with the moves that waited (R362).  Its tests run one by one as they are started, or at its end. -/
def Conc.startPass (c : Conc) (toSleep : Bool) : Conc :=
  let c := c.withFaults fun x =>
    { x with annealEnd := some (c.tick + c.get O.annealBudget * secTicks), annealSleep := toSleep, annealStop := false }
  (c.put O.annealState 2).deferredMoves

/-- ANNEAL_RUN: in STANDBY only. -/
def Conc.annealRun (c : Conc) (v : Nat) : Res Conc :=
  if v ≠ 1 then .error Abort.range
  else if c.pwr.state ≠ 3 then .error (Abort.owned 0x02000006)
  else .ok (if c.faults.annealEnd.isSome then c else c.startPass false)

/-- One post-package repair: a spare row of the bank, zero-filled, or the frames are removed (R359).
(DEDUCED, log entry 33) -/
def Conc.repairRow (c : Conc) (num : Nat) : Conc :=
  let r := Bank.get {} c.faults.rows num
  if 0 < c.bankSpares num then
    let c := c.withFaults fun x => { x with spareRowsUsed := Bank.upd 0 x.spareRowsUsed (num / 2 ^ 14) (· + 1) }
    let c := c.markRetired 0x06 num
    let c := c.post 0x06 num 0x13
    let c := r.frames.foldl (fun c f => if c.frameUsed f then c else c.fill (4096 * f) (4096 * f + 4096)) c
    c.withFaults fun x => { x with rows := Bank.upd {} x.rows num fun r => { r with scheduled := false, heldOut := false, frames := [] } }
  else c.retire 0x06 num

/-- The tests of a pass: `failing` names the resources that fail. -/
def Conc.passTest (failing : List (Nat × Nat)) (c : Conc) (r : Nat × Nat) : Conc :=
  if failing.contains r then c.testFailed r.1 r.2 else c.testPassed r.1 r.2

/-- The rolling BIST of one eighth of the HEALTHY engines, lanes and macros: a failure retires directly (R353), a macro
takes a spare while it has one (R358). -/
def Conc.rollingTest (failing : List (Nat × Nat)) (c : Conc) : Conc :=
  let k := c.faults.rolling % 8
  let c := failing.foldl (fun c r =>
    if (r.1 = 0x01 ∨ r.1 = 0x03 ∨ r.1 = 0x07) ∧ r.2 % 8 = k ∧ (c.health r.1 r.2).st = .healthy then
      let c := c.post r.1 r.2 0x0D
      if r.1 = 0x07 then c.testFailed r.1 r.2 else c.retire r.1 r.2
    else c) c
  c.withFaults fun x => { x with rolling := (k + 1) % 8 }

/-- The rows whose repair is scheduled. -/
def Conc.scheduledRows (c : Conc) : List Nat := c.faults.rows.filterMap fun p => if p.2.scheduled then some p.1 else none

/-- The work that a sleep pass has not done yet, in the order of R362. -/
def Conc.sleepPass (c : Conc) (failing : List (Nat × Nat)) : Conc :=
  let c := c.deferredMoves
  let c := c.suspects.foldl (Conc.passTest failing) c
  let c := c.scheduledRows.foldl (fun c n => c.repairRow n) c
  Conc.rollingTest failing c

/-- A pass that stops early has made some of its post-package repairs, in their order and only behind its tests; how many, the
spec leaves to the time they took.  One that runs is completed (R363, R372). (DESIGN CHOICE, log entry 53) -/
def Conc.repairsDone (c : Conc) : Conc :=
  if c.suspects ≠ [] then c
  else
    (c.scheduledRows.foldl (fun (x : Bool × Conc) n =>
      if x.1 then
        let d := x.2.drawBool
        if d.1 then (true, d.2.repairRow n) else (false, d.2)
      else x) (true, c)).2

def Conc.passEnds (c : Conc) : Conc :=
  (c.withFaults fun x => { x with annealEnd := none, annealSleep := false, annealStop := false }).put O.annealState 0

/-- The tests of the pass in progress: of resources that could not be drained in service. -/
def Conc.passTests (c : Conc) : List (Nat × Nat) :=
  c.suspects.filter fun r => (c.health r.1 r.2).testing.isSome && !c.drainedNow r.1 r.2

/-- A test is abandoned: its resource stays SUSPECT (R363), and a lane comes up again. -/
def Conc.abandonTest (c : Conc) (r : Nat × Nat) : Conc :=
  let c := c.setHealth r.1 r.2 { c.health r.1 r.2 with testing := none }
  if r.1 = 0x01 then c.bringUp r.2 else c

/-- A wake source stops the pass at the next test boundary (R363): at once where no test runs. -/
def Conc.stopPass (c : Conc) : Conc :=
  if c.faults.annealEnd.isNone then c
  else if c.passTests = [] then c.repairsDone.passEnds.saveRepair
  else c.withFaults fun x => { x with annealStop := true }

/-- ANNEAL_PASS_COMPLETE. -/
def Conc.annealComplete (c : Conc) (failing : List (Nat × Nat)) : Conc :=
  match c.faults.annealEnd with
  | none => c
  | some _ => (((c.sleepPass failing).passEnds).withFaults fun x => { x with lastPass := some c.tick }).saveRepair

/-- ANNEAL_BUDGET_EXPIRY: a test in progress is abandoned, and the work that has not run stays pending (R363). -/
def Conc.annealBudget (c : Conc) : Conc :=
  match c.faults.annealEnd with
  | some t => if t ≤ c.tick then (c.passTests.foldl (fun c r => c.abandonTest r) c.repairsDone).passEnds.saveRepair else c
  | none => c

/-! ## The Roustabout (R365-R367) -/

/-- The bucket whose region holds a poisoned ring address gets its poison bit (R192, R367). -/
def Conc.poisonBucketAt (c : Conc) (pa : Nat) : Conc :=
  let hit (off : Nat) : Bool := decide (c.caro.ringAddr off / 32 = pa / 32)
  match (c.caro.main.find? fun w => hit w.off).map (fun w => w.off), c.caro.runs.find? fun r =>
      (List.range (r.run.words.length + 1)).any fun i => hit (r.off + i) with
  | some off, _ => c.poisonBucket off
  | none, some r => c.poisonBucket r.off
  | none, none => c

/-- The Roustabout finds word `n` uncorrectable (R367): poison, cause 0x03, the owner told; what the firmware region held is
reloaded or rebuilt, and a checkpoint buffer's checkpoint is pushed again; where in the region such a buffer lies the spec
leaves open: a free choice. (DESIGN CHOICE, log entry 53) -/
def Conc.scrubPoison (c : Conc) (n : Nat) : Conc :=
  let pa := 8 * n
  let c := ((c.poisonSector (n / 4)).count O.scrubUncorrected).memFault pa 0x03 true
  let c := c.poisonBucketAt pa
  if pa < firmwareBytes then
    let c := c.withMem fun m => (List.range 4).foldl (fun m i => m.setErr (n / 4 * 4 + i) (0, 0)) m
    let d := c.drawBool
    if d.1 then d.2.touch else d.2
  else c

/-- Scrub the words of one sector. -/
def Conc.scrubSector (c : Conc) (s : Nat) : Conc :=
  if c.mem.poisoned s then c
  else
    ((List.range 4).foldl (fun (x : Bool × Conc) i =>
      if x.1 then x
      else
        let r := x.2.readWord (4 * s + i)
        if r.1 then (true, r.2.scrubPoison (4 * s + i)) else (false, r.2)) (false, c)).2

/-- Bits of a word that an upset has flipped. -/
def MemSt.upset (m : MemSt) (n data check : Nat) : MemSt :=
  let e := m.err n
  m.setErr n (e.1 ^^^ (data % 2 ^ 64), e.2 ^^^ (check % 256))

def linesPerBlock : Nat := 32768

/-- Progress of the HBM pass in percent: written blocks passed. -/
def Conc.scrubProgress (c : Conc) : Nat :=
  match c.mem.written.length with
  | 0 => 0
  | n => nearest ((c.mem.written.countP fun p => decide (p.1 < c.faults.hbmLine / linesPerBlock)) * 100) n

/-- HBM_SCRUB_LINE: the next line of a written block; `upset` are the bits an upset has flipped in its word `k`, `busy` says
that it has a write pending (R365, R366). (DEDUCED, log entry 28) -/
def Conc.hbmScrub (c : Conc) (busy : Bool) (k data check : Nat) : Conc :=
  if c.pwr.state = 1 ∨ c.pwr.state = 2 ∨ c.pwr.state = 6 then c
  else
    let line := c.faults.hbmLine
    let next : Option Nat :=
      if Bank.get false c.mem.written (line / linesPerBlock) then some line
      else (List.find? (fun p => decide (line / linesPerBlock < p.1)) c.mem.written).map fun p => p.1 * linesPerBlock
    match next with
    | none =>
      if c.mem.written = [] then c
      else (c.withFaults fun x => { x with hbmLine := 0 }).count O.hbmPasses
    | some n =>
      let c := c.withFaults fun x => { x with hbmLine := n + 1 }
      if busy then c.withFaults fun x => { x with retries := Bank.set (0, 0) x.retries n (1, c.tick + msTicks) }
      else
        let c := c.withMem fun m => m.upset (8 * n + k % 8) data check
        (c.scrubSector (2 * n)).scrubSector (2 * n + 1)

/-- SCRUB_LINE_RETRY: after 1 ms; the sixteenth return that finds a write pending leaves the line (R366). -/
def Conc.scrubRetry (c : Conc) (n : Nat) (busy : Bool) : Conc :=
  let r := Bank.get (0, 0) c.faults.retries n
  if r.1 = 0 ∨ c.tick < r.2 then c
  else
    let drop (c : Conc) : Conc := c.withFaults fun x => { x with retries := Bank.set (0, 0) x.retries n (0, 0) }
    if busy then
      if 16 ≤ r.1 then (drop c).count O.linesSkipped
      else c.withFaults fun x => { x with retries := Bank.set (0, 0) x.retries n (r.1 + 1, c.tick + msTicks) }
    else ((drop c).scrubSector (2 * n)).scrubSector (2 * n + 1)

/-- The SRAM words the Roustabout reads (R365), in its order: cluster memories, scratchpads, sort store, bucket index, late
directory, Marver dictionaries, Ringmaster SRAM. -/
def sramSizes : List Nat := [13 * 524288, 104 * 32768, 131072, 524288, 16384, 8 * 65536, 16 * 8192]

/-- The structure of an SRAM word number and the word's number in it. (DEDUCED, log entry 28) -/
def sramPlace : Nat → List Nat → Nat → Nat × Nat
  | k, [], n => (k, n)
  | k, s :: rest, n => if n < s then (k, n) else sramPlace (k + 1) rest (n - s)

def sramWords : Nat := sramSizes.foldl (· + ·) 0

/-- A sort-store word is lost (R367): it is discarded, and every port has a discontinuity from H to the highest key. -/
def Conc.loseSortWord (c : Conc) (n : Nat) : Conc :=
  let g := c.gather
  if g.store.length ≤ n then c
  else
    let hi := g.store.foldl (fun m x => max m x.key) g.h
    let c := { c with gather := { g with store := g.store.eraseIdx n } }
    (List.range 48).foldl (fun c p => let x := c.gport p; c.setGport p { x with disc := (g.h, some hi) :: x.disc }) c

/-- The buckets that the index lists, oldest first. -/
def Carousel.buckets (x : Carousel) : List Nat := x.index.map fun e => e.bucket

/-- A bucket-index entry is lost: its bucket is treated as not held. (DEDUCED, log entry 28) -/
def Conc.loseBucket (c : Conc) (n : Nat) : Conc :=
  match c.caro.buckets[n]? with
  | none => c
  | some b => c.withCaro fun x =>
      { x with main := x.main.filter (fun w => w.bucket ≠ b), runs := x.runs.filter (fun r => r.bucket ≠ b), lost := x.lost ++ [b],
               index := x.index.filter (fun e => e.bucket ≠ b) }

/-- A late-directory entry is lost: its run is unreachable, and records that meet its frame have the gap flag. -/
def Conc.loseLateEntry (c : Conc) (n : Nat) : Conc :=
  match c.caro.dir[n]? with
  | none => c
  | some d =>
    let c := c.withCaro fun x => { x with dir := x.dir.eraseIdx n }
    let x := c.gport d.port
    c.setGport d.port { x with disc := (d.lo, some d.hi) :: x.disc }

/-- A Marver dictionary word is lost: the unit's job fails; that of an idle unit holds nothing (R367, R277). -/
def Conc.loseDictionary (c : Conc) (u : Nat) : Conc := if bitAt c.unitBusy u then c.marverFault u else c

/-- The owner of the data in a structure (R324): the Carousel's bucket index and late directory; the rest has none there. -/
def structureOwner (k : Nat) : Nat := if k = 3 ∨ k = 4 then ownerCode 0x02 2 else 0

/-- An upset in a structure that has no address in the map of R237: 1 correctable, 2 uncorrectable; of more flipped bits no verdict is
stated. -/
def Conc.structureUpset (c : Conc) (k n bits : Nat) : Conc :=
  let d : Nat × Conc := if 3 ≤ bits then let x := c.drawNat; (x.1 % 3, x.2) else (bits, c)
  let c := d.2
  let m := (Config.sramMacro (2 ^ 40 + k * 2 ^ 24 + n)).val
  match d.1 with
  | 0 => c
  | 1 =>
    let c := if k = 5 then c.count O.dictCorrected else c
    (c.count O.sramCorrected).macroEvent m 0x01 false (structureOwner k)
  | _ =>
    let c := (c.count O.scrubUncorrected).macroEvent m 0x03 true (structureOwner k)
    match k with
    | 2 => c.loseSortWord n
    | 3 => c.loseBucket n
    | 4 => c.loseLateEntry n
    | 5 => c.loseDictionary (n / 65536)
    | _ => c.touch

/-- SRAM_SCRUB_WORD: the next word of the cycle, with the bits an upset has flipped in it; what macros lost have moved into HBM is
scrubbed there (R358). (DEDUCED, log entry 28) -/
def Conc.sramScrub (c : Conc) (data check : Nat) : Conc :=
  let n := c.faults.sramWord
  let c := c.withFaults fun x => { x with sramWord := (n + 1) % sramWords }
  let c := if n + 1 = sramWords then c.count O.sramPasses else c
  let p := sramPlace 0 sramSizes n
  if p.1 = 6 ∧ c.ringCapacity ≤ 8 * p.2 then c
  else
  let scrub (c : Conc) (w : Nat) : Conc :=
    let c := c.withMem fun m => m.upset w data check
    if c.mem.poisoned (w / 4) then c
    else
      let r := c.readWord w
      if r.1 then r.2.scrubPoison w else r.2
  match p.1 with
  | 0 => scrub c (clusterBase / 8 + p.2)
  | 1 => scrub c (scratchBase / 8 + p.2)
  | k => c.structureUpset k p.2 (popcount 64 (data % 2 ^ 64) + popcount 8 (check % 256))

/-! ## FE_FAULT and the log (R369-R371) -/

/-- FE_FAULT from port `p`: posted, forwarded (R291), and a lost configuration object written again (R368).  A front-end
resource's fault may have cost channels: `ChannelLive` is read anew (R38, R373). (DESIGN CHOICE, log entry 52) -/
def Conc.feFault (c : Conc) (p w at_ : Nat) : Conc :=
  let kind := bits w 47 40
  let cause := bits w 39 32
  let num := bits w 31 16
  let st := bits w 15 8
  let c := c.postEntry (causeClass cause) cause (if kind = 0 then 0 else kind * 2 ^ 24 + p * 2 ^ 16 + num) (w % 256) st 0 0
  let c := c.emitAt at_ (BitVec.ofNat 64 (0x29 * 2 ^ 56 + p % 64 * 2 ^ 48 + w % 2 ^ 48))
  let c :=
    if kind = 0x10 ∧ st = 2 then
      let serial := (c.lease p).serial
      if serial = 0 then c
      else
        let r := c.flash.repair
        c.writeRepair { r with feSlots := Bank.upd 0 r.feSlots serial fun m => setBit m num true }
    else c
  let c := if 0x10 ≤ kind ∧ c.acts p then c.feRequest p 1 O.channelLive.index O.channelLive.sub 0 0 else c
  if cause = 0x23 ∧ c.acts p then
    feObjs.foldl (fun c o => if o.index = num ∧ o.persist ∧ o.access = .rw then
      (List.range o.count).foldl (fun c i => c.writeCopy p o i) c else c) c
  else c

/-- FAULT_LOG_ACK (R370): the acknowledged point only advances. (DEDUCED, log entry 34) -/
def Conc.faultLogAck (c : Conc) (v : Nat) : Conc :=
  c.withFaults fun x => { x with acked := max x.acked (min (v + 1) x.next) }

/-! ## What is read (R373) -/

def Conc.healthTable (c : Conc) (kind n : Nat) : Nat := packEntries 32 ((List.range n).map fun i => (c.health kind i).entry)

def HbmRow.entry (num : Nat) (r : HbmRow) : Nat :=
  num % 2 ^ 24 + r.health.counter % 256 * 2 ^ 24 + r.health.st.code * 2 ^ 32
    + (b1 r.scheduled + 2 * b1 r.heldOut + 4 * b1 r.uncorrectable) * 2 ^ 40 + r.health.events % 2 ^ 16 * 2 ^ 48

/-- A row's frames are held out while it is SUSPECT (R359). -/
def HbmRow.shown (r : HbmRow) : HbmRow := { r with heldOut := r.heldOut || decide (r.health.st = .suspect) }

def Conc.hbmRowTable (c : Conc) : Nat := packEntries 64 (c.faults.rows.map fun p => p.2.shown.entry p.1)

def LogEntry.val (e : LogEntry) : Nat :=
  e.number % 2 ^ 32 + e.seconds % 2 ^ 48 * 2 ^ 32 + e.cls % 256 * 2 ^ 80 + e.cause % 256 * 2 ^ 88 + e.resource % 2 ^ 32 * 2 ^ 96
    + e.counter % 256 * 2 ^ 128 + e.state % 256 * 2 ^ 136 + e.owner % 2 ^ 32 * 2 ^ 160 + e.detail % 2 ^ 64 * 2 ^ 192

def Conc.faultLog (c : Conc) : Nat := packEntries 256 (c.faults.log.map LogEntry.val)

/-- `ResourceCounts`, sub-indices 01 to 09. -/
def Conc.resourceCount (c : Conc) (sub : Nat) : Nat :=
  match sub with
  | 1 => c.liveEngines
  | 2 => ((List.range 16).filter fun l => (c.physical l).isSome).length
  | 3 => ((List.range 18).filter fun n => c.logical n = 255 && decide ((c.lane (laneBe n)).st ≠ .retired)).length
  | 4 => ((List.range 96).filter fun l => decide ((c.lane (laneIn l)).st ≠ .retired)).length
  | 5 => c.get O.channelsLive
  | 6 => c.sortCapacity
  | 7 => c.bucketCapacity
  | 8 => c.faults.retiredFrames.length
  | _ =>
    let left (s : Nat) : Nat := (List.range 512).foldl (fun n b =>
      n + ((Config.hbmSpares (512 * s + b)).val - Bank.get 0 c.faults.spareRowsUsed (512 * s + b))) 0
    left 0 % 2 ^ 16 + left 1 % 2 ^ 16 * 2 ^ 16

end Sys2Proof.Machine
end

