-- ==== Sys2Proof/Machine/ConcAdc.lean ====
section
/-! DEFINITION. The sensor crosspoint and the housekeeping converter (chapter 19): pin roles and setups (R409-R413),
resistance and temperature (R414-R416), ranges (R417, R418), conversions and their priority (R419-R422), open inputs
(R423). -/

namespace Sys2Proof.Machine

def Conc.withAdc (c : Conc) (f : Adc → Adc) : Conc := { c with adc := f c.adc }
def Conc.loop (c : Conc) (l : Nat) : Loop := Bank.get {} c.ctl.loops l
def Conc.setLoop (c : Conc) (l : Nat) (x : Loop) : Conc := { c with ctl := { c.ctl with loops := Bank.set {} c.ctl.loops l x } }
def Conc.updLoop (c : Conc) (l : Nat) (f : Loop → Loop) : Conc := c.setLoop l (f (c.loop l))

/-! ## Tables -/

/-- A pin's entry of `AinRole`, and its role. -/
def ainEntry (v p : Nat) : Nat := entryGet 8 v p
def ainRole (v p : Nat) : Nat := ainEntry v p % 8

/-- A setup as its 8 bytes give it: kind, positive pin, negative pin (255 ground), range. -/
structure Setup where
  kind : Nat
  pos : Nat
  neg : Nat
  range : Nat
  deriving DecidableEq, Repr

def setupOf (v k : Nat) : Setup :=
  let e := entryGet 64 v k
  { kind := bits e 7 0, pos := bits e 15 8, neg := bits e 23 16, range := bits e 26 24 }

def Conc.setup (c : Conc) (k : Nat) : Setup := setupOf (c.get O.sensorSetup) k

/-- The pins a setup reads. -/
def Setup.pins (s : Setup) : List Nat := if s.kind = 0 then [] else if s.neg = 0xFF then [s.pos] else [s.pos, s.neg]

/-- A setup that uses an excitation source. -/
def Setup.uses (s : Setup) (source : Nat) : Bool := s.kind == 3 || (s.kind == 2 && source == 0)

/-- The 16 bytes of a loop in `LoopSetup`. -/
def Conc.loopCfg (c : Conc) (l : Nat) : Nat := entryGet 128 (c.get O.loopSetup) l

/-- The setups a loop names: feedback, the input voltage of a bias loop, the temperature of its schedule. -/
def loopSetups (cfg l : Nat) : List Nat :=
  bits cfg 15 8 :: ((if l < 12 ∧ bits cfg 23 16 ≠ 0xFF then [bits cfg 23 16] else [])
    ++ (if bits cfg 31 24 = 1 then [bits cfg 39 32] else []))

/-- A loop works: it is in RUN or TUNING (R436). -/
def Loop.running (x : Loop) : Bool := x.st == 1 || x.st == 4

/-- The lowest running loop that names a setup (R410, R440). -/
def Conc.setupOwner (c : Conc) (k : Nat) : Option Nat :=
  (List.range 16).find? fun l => (c.loop l).running && (loopSetups (c.loopCfg l) l).contains k

/-- The abort that names a loop (R324). -/
def loopAbort (l : Nat) : Abort := Abort.owned (ownerCode 0x09 l)

/-- The owned setups with their owners. -/
def Conc.ownedSetups (c : Conc) : List (Nat × Nat) :=
  (List.range 32).filterMap fun k => (c.setupOwner k).map fun l => (k, l)

/-- The limits of R409 and R426 on a table of roles. -/
def rolesOk (v : Nat) : Bool :=
  let n (r : Nat) := (List.range 32).countP fun p => ainRole v p = r
  (List.range 32).all (fun p => decide (ainRole v p ≤ 4) && !(ainRole v p == 0 && bitAt (ainEntry v p) 3))
    && decide (n 2 ≤ 1) && decide (n 3 ≤ 1) && decide (n 4 ≤ 2)

/-- A write of `AinRole` (R409, R410). -/
def Conc.writeAinRole (c : Conc) (v : Nat) : Res Conc :=
  if rolesOk v = false then .error Abort.range
  else
    let old := c.get O.ainRole
    match c.ownedSetups.find? fun p => (c.setup p.1).pins.any fun q => ainRole v q ≠ ainRole old q with
    | some p => .error (loopAbort p.2)
    | none => .ok (c.put O.ainRole v)

/-- The pin that carries an excitation source. -/
def Conc.excitationPin (c : Conc) (source : Nat) : Option Nat :=
  (List.range 32).find? fun p => ainRole (c.get O.ainRole) p = 2 + source

/-- The set current of an excitation source, in 10 uA. -/
def Conc.excitation (c : Conc) (source : Nat) : Nat := if source = 0 then c.get O.excitation0Current else c.get O.excitation1Current

/-- A write of an excitation current: 3-wire pairs restart (R425). (DEDUCED, log entry 43) -/
def Conc.writeExcitation (c : Conc) (source v : Nat) : Res Conc :=
  match c.ownedSetups.find? fun p => (c.setup p.1).uses source with
  | some p => .error (loopAbort p.2)
  | none =>
    if v = c.excitation source then .ok c
    else
      let c := if source = 0 then c.put O.excitation0Current v else c.put O.excitation1Current v
      .ok (c.withAdc fun a => { a with results := Bank.mapVals {} (fun _ r => { r with pairA := none, pairB := none }) a.results })

/-- Whether R413 accepts a setup. -/
def Conc.setupOk (c : Conc) (s : Setup) : Bool :=
  let roles := c.get O.ainRole
  let on (p : Nat) : Bool := decide (p < 32) && ainRole roles p != 0
  if s.kind = 0 then true
  else decide (s.kind ≤ 3) && on s.pos && (s.neg == 0xFF || on s.neg)
    && (s.kind != 2 || c.excitation 0 != 0)
    && (s.kind != 3 || (c.excitationPin 0 == some s.pos && c.excitationPin 1 == some s.neg && c.excitation 0 == c.excitation 1))

/-- A write of `SensorSetup` (R413, R418): of a setup that a loop owns only the range may change. -/
def Conc.writeSetups (c : Conc) (v : Nat) : Res Conc :=
  let old := c.get O.sensorSetup
  let strip (s : Setup) : Setup := { s with range := 0 }
  match c.ownedSetups.find? fun p => strip (setupOf v p.1) ≠ strip (setupOf old p.1) with
  | some p => .error (loopAbort p.2)
  | none =>
    if (List.range 32).all (fun k => c.setupOk (setupOf v k)) = false then .error Abort.range
    else
      let c := c.put O.sensorSetup v
      .ok ((List.range 32).foldl (fun c k =>
        if (setupOf v k).range = (setupOf old k).range then c
        else c.withAdc fun a => { a with results := Bank.upd {} a.results k fun r => { r with ranged := true } }) c)

/-! ## Resistance and temperature -/

/-- The input voltage of a code in nV (R417). -/
def codeVolts (code : Int) (range : Nat) : Rat := (code * 2500000000 : Int) / ((8192 * 2 ^ range : Nat) : Int)

/-- The trimmed current of a source in pA (R411). -/
def Conc.drive (c : Conc) (source : Nat) : Int := c.excitation source * 10 * (999500 + (Config.excitationTrim source).val : Nat)

/-- The burn-out current that flows from a pin through the sensor, in pA (R412). -/
def Conc.burnOut (c : Conc) (p : Nat) : Int :=
  let e := ainEntry (c.get O.ainRole) p
  if bitAt e 3 then (if bitAt e 4 then -1000000 else 1000000) else 0

/-- R(T) of R416 in 10^-21 mOhm, T in m°C. -/
def cvd (t : Int) : Int :=
  10 ^ 27 + 39083 * t * 10 ^ 17 - 5775 * t * t * 10 ^ 11 - (if t < 0 then 4183 * (t - 100000) * t * t * t else 0)

/-- The highest T, from `t` on in steps from 2^`n` down, whose resistance is at most `x`. -/
def cvdSearch (x : Int) : Nat → Int → Int
  | 0, t => t
  | n + 1, t =>
    let u := t + 2 ^ n
    cvdSearch x n (if u ≤ 160000 ∧ cvd u ≤ x then u else t)

/-- The temperature of a resistance in mOhm, in m°C, and whether it lies outside -60 to 160 degrees (R416).
(DEDUCED, log entry 43) -/
def temperature (r : Rat) : Int × Bool :=
  let x : Int := (r.num * 10 ^ 21) / r.den
  if x < cvd (-60000) then (-60000, true)
  else if cvd 160000 < x then (160000, true)
  else
    let t := cvdSearch x 18 (-60000)
    (if t < 160000 ∧ cvd (t + 1) - x ≤ x - cvd t then t + 1 else t, false)

/-- A rational rounded to nearest, halves toward plus infinity (R505). (DEDUCED, log entry 43) -/
def roundRat (x : Rat) : Int := roundDiv x.num x.den

/-- The resistance of a setup from its results, in mOhm (R414, R415). (DEDUCED, log entry 43) -/
def Conc.resistance (c : Conc) (s : Setup) (x : SetupRes) : Option Rat :=
  if s.kind = 2 then
    let i := c.drive 0 + c.burnOut s.pos
    if i ≤ 0 then none else some (codeVolts x.code x.range * 1000000 / (i : Rat))
  else if s.kind = 3 then
    match x.pairA, x.pairB with
    | some a, some b =>
      let i := c.drive 0 + c.drive 1 + 2 * c.burnOut s.pos
      if i ≤ 0 then none else some ((codeVolts a.1 a.2 + codeVolts b.1 b.2) * 1000000 / (i : Rat))
    | _, _ => none
  else none

/-- The results of a setup with its resistance and temperature computed anew; a negative resistance has no stated code. -/
def Conc.recompute (c : Conc) (s : Setup) (x : SetupRes) : SetupRes × Conc :=
  match c.resistance s x with
  | none => (x, c)
  | some r =>
    let t := temperature r
    let x := { x with milliC := t.1, outOfRange := t.2 }
    if r < 0 then
      let d := c.drawNat
      ({ x with milliOhm := d.1 % 2 ^ 32 }, d.2)
    else ({ x with milliOhm := min (roundRat r).toNat (2 ^ 32 - 1) }, c)

/-! ## Conversions -/

/-- Converter clocks in so many base ticks: 20 MHz, or 5 MHz in ASLEEP (R419). (DEDUCED, log entry 43) -/
def Conc.adcClocks (c : Conc) (ticks : Nat) : Nat := if c.pwr.state = 1 then ticks * 4 / 75 else ticks * 16 / 75

/-- The base ticks of one converter clock, rounded up. -/
def Conc.adcClock (c : Conc) : Nat := if c.pwr.state = 1 then 19 else 5

/-- An edge of the converter clock lies in the present base tick. (DEDUCED, log entry 43) -/
def Conc.adcEdge (c : Conc) : Bool := decide (c.adcClocks c.tick < c.adcClocks (c.tick + 1))

/-- The converter starts on a setup (R418, R419): what the conversion will carry is settled now, and a 3-wire setup swaps its
sources at the end of the sample clock. (DEDUCED, log entry 43) -/
def Conc.convert (c : Conc) (asker : Asker) (k : Nat) : Conc :=
  let s := c.setup k
  let x := Bank.get {} c.adc.results k
  let early : Bool := s.kind == 3 && (match x.swapAt with
    | some t => decide (c.tick * 4 < t * 4 + c.get O.swapSettle * 375)
    | none => false)
  let three : Bool := s.kind == 3
  let v : Conversion := { asker := asker, setup := k, start := c.tick, range := s.range, orientB := three && c.adc.swapped,
                          settling := x.ranged || early }
  let x := { x with ranged := false, swapAt := if three then some (c.tick + c.adcClock) else x.swapAt }
  c.withAdc fun a => { a with conv := some v, swapped := if three then !a.swapped else a.swapped,
                              results := Bank.set {} a.results k x }

/-- At an edge of its clock the converter, when free, takes a loop request first, then the host's, then a calibration (R422, R425).
In CLOCK_LOST its clock stands still (R337). -/
def Conc.adcNext (c : Conc) : Conc :=
  if c.adcEdge = false ∨ c.adc.conv.isSome ∨ c.gated 5 ∨ c.pwr.state = 6 then c
  else match c.adc.loops with
    | q :: rest =>
      let delay := min 9 (c.adcClocks (c.tick + 1) - c.adcClocks q.tick - 1)
      let c := c.withAdc fun a => { a with loops := rest, maxDelay := max a.maxDelay delay }
      let c := if delay = 0 then c else c.count O.loopDelayed
      c.convert (.loop q.loop q.input) q.setup
    | [] =>
      match c.adc.host with
      | some k => (c.withAdc fun a => { a with host := none }).convert .host k
      | none =>
        if c.adc.calLeft = 0 then c
        else c.withAdc fun a =>
          { a with calLeft := a.calLeft - 1,
                   conv := some { asker := .calibration, setup := 0, start := c.tick, range := 0, orientB := false,
                                  settling := false } }

/-- A host conversion is pending or in progress. -/
def Adc.hostBusy (a : Adc) : Bool := a.host.isSome || (match a.conv with | some v => v.asker == .host | none => false)

/-- A write of `AdcSelect` (R421, R427). (DEDUCED, log entry 43) -/
def Conc.writeAdcSelect (c : Conc) (k : Nat) : Res Conc :=
  match c.setupOwner k with
  | some l => .error (loopAbort l)
  | none => if (c.setup k).kind = 0 then .error Abort.range else .ok (c.put O.adcSelect k)

/-- ADC_START (R421). (DEDUCED, log entry 43) -/
def Conc.adcStart (c : Conc) (v : Nat) : Res Conc :=
  let k := c.get O.adcSelect
  if v ≠ 1 then .error Abort.range
  else if c.adc.hostBusy then .ok (c.count O.startsIgnored)
  else if (c.setup k).kind = 0 then .error Abort.range
  else match c.setupOwner k with
    | some l => .error (loopAbort l)
    | none => .ok (c.withAdc fun a => { a with host := some k })

/-- ADC_CALIBRATION (R420): every 10 s, while no request is pending. -/
def Conc.adcCalibration (c : Conc) : Conc :=
  let a := c.adc
  if c.tick < a.calDue ∨ a.conv.isSome ∨ a.host.isSome ∨ a.loops ≠ [] ∨ a.calLeft ≠ 0 ∨ c.gated 5 then c
  else c.withAdc fun a => { a with calLeft := 2, calDue := c.tick + 10 * secTicks }

/-- LOOP_CONVERSION_REQUEST (R422, R429): a working loop asks once per period for its feedback and, a bias loop, for its
input voltage. -/
def loopPeriod (l : Nat) : Nat := if l < 12 then 9375 else 9375000

/-- The present period of a loop, counted from 1. -/
def Conc.periodOf (c : Conc) (l : Nat) : Nat := c.now / loopPeriod l + 1

def Conc.loopRequest (c : Conc) (l : Nat) (input : Bool) : Conc :=
  let x := c.loop l
  let p := c.periodOf l
  if x.running = false ∨ 16 ≤ l ∨ c.gated 5 then c
  else if input then
    if 12 ≤ l ∨ p ≤ x.askedV then c
    else
      let q : LoopReq := { loop := l, input := true, setup := bits (c.loopCfg l) 23 16, tick := c.tick }
      (c.setLoop l { x with askedV := p }).withAdc fun a => { a with loops := a.loops ++ [q] }
  else if p ≤ x.askedF then c
  else
    let q : LoopReq := { loop := l, input := false, setup := bits (c.loopCfg l) 15 8, tick := c.tick }
    (c.setLoop l { x with askedF := p }).withAdc fun a => { a with loops := a.loops ++ [q] }

/-- The pins of a setup found open (R423): `rails` are the pins within 50 mV of the rail that their burn-out source selects.
(DEDUCED, log entry 43) -/
def Conc.openPins (c : Conc) (s : Setup) (outside rails : Nat) : List Nat :=
  let lost := [0, 1].any fun k => s.uses k && bitAt outside k
  s.pins.filter fun p => lost || (bitAt (ainEntry (c.get O.ainRole) p) 3 && bitAt rails p)

/-- A result of a setup is stored with its flags (R415, R417, R423). (DEDUCED, log entry 43) -/
def Conc.storeResult (c : Conc) (v : Conversion) (code : Int) (rails : Nat) : SetupRes × Conc :=
  let s := c.setup v.setup
  let found := c.openPins s (v.outside.getD c.adc.outside) rails
  let open' := !found.isEmpty
  let atEnd : Bool := decide (code = -8192 ∨ code = 8191)
  let clean := !open' && !atEnd && !v.settling
  let x := Bank.get {} c.adc.results v.setup
  let fromLoop : Bool := match v.asker with | .loop _ _ => true | _ => false
  let x := { x with code := code, range := v.range, settling := v.settling, open? := open', atEnd := atEnd, fromLoop := fromLoop,
                    orientB := v.orientB, count := satAdd 32 x.count 1 }
  let x := if open' then { x with pairA := none, pairB := none }
    else if clean ∧ s.kind = 3 then
      (if v.orientB then { x with pairB := some (code, v.range) } else { x with pairA := some (code, v.range) })
    else x
  let r : SetupRes × Conc := if clean then c.recompute s x else (x, c)
  let c := if open' then r.2.count O.openInputEvents else r.2
  let opens := s.pins.foldl (fun m p => setBit m p (found.contains p)) c.adc.opens
  (r.1, c.withAdc fun a => { a with results := Bank.set {} a.results v.setup r.1, opens := opens })

/-- The value of `AdcData` after a host result (R421, R427). -/
def adcDataOf (old k : Nat) (x : SetupRes) : Nat :=
  ofSigned 16 x.code + x.range % 8 * 2 ^ 16 + b1 x.settling * 2 ^ 19 + b1 x.open? * 2 ^ 20 + b1 x.atEnd * 2 ^ 21 + 2 ^ 22
    + b1 (bitAt old 22 || bitAt old 23) * 2 ^ 23 + k % 32 * 2 ^ 24 + b1 x.orientB * 2 ^ 29

/-- The measurement of a loop from a result (R430): a bias loop takes the voltage in mV times its divider, a thermal loop the
temperature. -/
def Conc.measure (c : Conc) (l : Nat) (input : Bool) (x : SetupRes) : Sample :=
  let cfg := c.loopCfg l
  if x.settling ∨ x.open? ∨ x.atEnd then { open? := x.open? }
  else if 12 ≤ l then { value := some (x.milliC : Rat) }
  else
    let divider := if input then bits cfg 79 64 else bits cfg 63 48
    { value := some (codeVolts x.code x.range * (divider : Rat) / 100000000) }

/-- ADC_DATA_READ: what a read of `AdcData` leaves (R421). -/
def Conc.adcDataRead (c : Conc) : Conc :=
  (c.put O.adcData (setBit (setBit (c.get O.adcData) 22 false) 23 false)).withAdc fun a => { a with readAt := some c.tick }

/-- ADC_CONVERSION_COMPLETE (R419, R421): 9 converter clocks after its start.  A host result in the tick of a read of `AdcData`
counts as arrived before it (R425). -/
def Conc.adcComplete (c : Conc) (code : Int) (rails : Nat) : Conc :=
  match c.adc.conv with
  | none => c
  | some v =>
    if c.adcClocks (c.tick - v.start + 1) < 9 ∨ c.gated 5 ∨ c.pwr.state = 6 then c
    else
      let c := c.withAdc fun a => { a with conv := none }
      let code := max (-8192) (min 8191 code)
      match v.asker with
      | .calibration => c
      | .host =>
        let r := c.storeResult v code rails
        let c := r.2
        let old := c.get O.adcData
        let c := if bitAt old 22 then c.count O.overruns else c
        let c := (c.put O.adcData (adcDataOf old v.setup r.1)).count O.hostConversions
        if c.adc.readAt = some c.tick then c.adcDataRead else c
      | .loop l input =>
        let r := c.storeResult v code rails
        let c := r.2.count O.loopConversions
        let m := c.measure l input r.1
        c.updLoop l fun x => if input then { x with input := some m } else { x with feedback := some m }

/-- EXCITATION_COMPLIANCE_CHANGE: source 0 or 1, or 2 for an overload of the bias pins (R411, R426). -/
def Conc.excitationCompliance (c : Conc) (k : Nat) (lost : Bool) : Conc :=
  if k = 2 then c.withAdc fun a => { a with overload := lost }
  else if k < 2 then
    let sampled (v : Conversion) : Conversion :=
      if v.start + c.adcClock ≤ c.tick then { v with outside := some (v.outside.getD c.adc.outside) } else v
    c.withAdc fun a => { a with outside := setBit a.outside k lost, conv := a.conv.map sampled }
  else c

/-! ## What is read -/

/-- The sources are swapped now: a 3-wire conversion swaps them at the end of its sample clock (R415). -/
def Conc.swappedNow (c : Conc) : Bool :=
  match c.adc.conv with
  | some v => if v.asker ≠ .calibration ∧ (c.setup v.setup).kind = 3 ∧ c.tick < v.start + c.adcClock then v.orientB else c.adc.swapped
  | none => c.adc.swapped

def Conc.excitationStatus (c : Conc) : Nat := c.adc.outside % 4 + b1 c.adc.overload * 4 + b1 c.swappedNow * 8

def Conc.adcStatus (c : Conc) : Nat :=
  match c.adc.conv with
  | none => 0
  | some v => 1 + (match v.asker with | .loop _ _ => 2 | .calibration => 4 | .host => 0)

def SetupRes.entry (x : SetupRes) : Nat :=
  ofSigned 16 x.code
    + (x.range % 8 + b1 x.settling * 8 + b1 x.open? * 16 + b1 x.atEnd * 32 + b1 x.fromLoop * 64 + b1 x.orientB * 128) * 2 ^ 16
    + b1 x.outOfRange * 2 ^ 24 + x.milliOhm % 2 ^ 32 * 2 ^ 32 + ofSigned 32 x.milliC * 2 ^ 64 + x.count % 2 ^ 32 * 2 ^ 96

def Conc.sensorResults (c : Conc) : Nat :=
  packEntries 128 ((List.range 32).map fun k => (Bank.get ({} : SetupRes) c.adc.results k).entry)

end Sys2Proof.Machine
end

