-- ==== Sys2Proof/Machine/ConcLoops.lean ====
section
/-! DEFINITION. The bias and thermal control loops (chapter 20): measurements (R430), the control law (R431-R433), gain
scheduling (R434), ramps (R435), states and faults (R436-R439), PWM generators (R440), auto-tune (R441, R442). -/

namespace Sys2Proof.Machine

/-- Entry `i`, of 32 bits, two's complement. -/
def int32At (v i : Nat) : Int := toSigned 32 (entryGet 32 v i)

/-- A two's complement number kept within 32 bits. -/
def sat32 (x : Int) : Int := max (-2147483648) (min 2147483647 x)

def clampInt (lo hi x : Int) : Int := max lo (min hi x)

/-! ## A loop's objects (R444) -/

def Conc.target (c : Conc) (l : Nat) : Int := int32At (c.get O.loopSetpoint) (2 * l)
def Conc.slew (c : Conc) (l : Nat) : Nat := entryGet 32 (c.get O.loopSetpoint) (2 * l + 1)
def limitOf (v l k : Nat) : Int := int32At v (6 * l + k)

/-- The output limits: those of `LoopLimits` within the output range of R428. (DEDUCED, log entry 44) -/
def Conc.outLimits (c : Conc) (l : Nat) : Int × Int :=
  let v := c.get O.loopLimits
  let lo : Int := if l < 12 then 0 else -65535
  (clampInt lo 65535 (limitOf v l 2), clampInt lo 65535 (limitOf v l 3))

/-- Gains of a region: Kp, Ki, Kd and the time constant in s. -/
structure Gains where
  kp : Rat
  ki : Rat
  kd : Rat
  tau : Rat
  deriving DecidableEq, Repr

def Conc.gains (c : Conc) (l j : Nat) : Gains :=
  let e := entryGet 128 (c.get O.loopGains) (4 * l + j)
  { kp := (int32At e 0 : Rat) / 65536, ki := (int32At e 1 : Rat) / 65536, kd := (int32At e 2 : Rat) / 65536,
    tau := (entryGet 32 e 3 : Rat) / 1000000 }

/-- The period T in s (R428). -/
def loopT (l : Nat) : Rat := if l < 12 then 1 / 10000 else 1 / 10

def Conc.missLimit (c : Conc) (l : Nat) : Nat :=
  match bits (c.loopCfg l) 47 40 with
  | 0 => 16
  | n => n

def Conc.loopEnabled (c : Conc) (l : Nat) : Bool := decide (bits (c.loopCfg l) 7 0 ≠ 0)

/-- The code of a loop in `PwmAssign`. -/
def loopCode (l : Nat) : Nat := if l < 12 then l else 0x10 + (l - 12)

/-! ## States (R436, R437) -/

/-- The Safety Net's output that loop `l` stands behind is off (R451). (DEDUCED, log entry 44) -/
def Conc.biasOff (c : Conc) (l : Nat) : Bool :=
  let k : Nat := match c.safety.bundle with
    | some b => b1 (bitAt b.payload (96 + l))
    | none => 0
  !bitAt c.safety.outputs k

/-- The output stops: the pins low, integrator and D cleared (R437). -/
def Loop.stop (x : Loop) (st : Nat) : Loop :=
  { x with st := st, u := 0, i := 0, d := 0, tune := none, restart := true, atLimit := false, frozen := false, missF := 0,
           missV := 0, outOfBand := 0, feedback := none, input := none }

/-- A loop whose fault stands: in FAULT, or STOPPED while in it.  Only a clear ends that (R439). (DEDUCED, log entry 44) -/
def Loop.faulted (x : Loop) : Bool := x.st == 3 || (x.st == 5 && x.fault != 0)

/-- The state a loop is in or goes to for what now holds (R436). (DEDUCED, log entry 44) -/
def Conc.settleLoop (c : Conc) (l : Nat) : Conc :=
  let x := c.loop l
  let stopped : Bool := c.pair.state == 5 || c.pwr.state == 2 || (decide (l < 12) && (c.pwr.state == 1 || c.pwr.state == 5))
  let want : Nat :=
    if c.loopEnabled l = false then 0
    else if stopped then 5
    else if x.faulted then 3
    else if l < 12 ∧ c.biasOff l then 2
    else if x.st = 4 then 4
    else 1
  if want = x.st then c
  else if want = 1 then c.setLoop l { x with st := 1, restart := true, fault := 0 }
  else
    let tuned : Bool := x.st == 4
    let c := c.setLoop l { x.stop want with fault := if want = 0 ∨ want = 2 then 0 else x.fault }
    if tuned then { c with ctl := { c.ctl with tunes := Bank.upd {} c.ctl.tunes l fun t => { t with status := 0 } } } else c

def Conc.settleLoops (c : Conc) : Conc := (List.range 16).foldl (fun c l => c.settleLoop l) c

def Conc.tune (c : Conc) (l : Nat) : TuneRes := Bank.get {} c.ctl.tunes l
def Conc.setTune (c : Conc) (l : Nat) (t : TuneRes) : Conc := { c with ctl := { c.ctl with tunes := Bank.set {} c.ctl.tunes l t } }

/-- A loop fault (R438): the output stops, an entry is posted, a tune ends with status 3. -/
def Conc.loopFault (c : Conc) (l code : Nat) : Conc :=
  let x := c.loop l
  let c := if x.st = 4 then c.setTune l { c.tune l with status := 3 } else c
  let c := c.setLoop l { x.stop 3 with fault := code }
  (c.countEntry O.loopCounters 32 (4 * l + 1)).postEntry 3 0x28 l 0 0 0 code

/-! ## The control law -/

/-- The region for a schedule variable (R434): it changes only when a boundary is passed by more than the hysteresis. -/
def regionUp (b : Nat → Int) (h v : Rat) : Nat → Nat → Nat
  | 0, j => j
  | n + 1, j => if j < 3 ∧ (b j : Rat) + h < v then regionUp b h v n (j + 1) else j

def regionDown (b : Nat → Int) (h v : Rat) : Nat → Nat → Nat
  | 0, j => j
  | n + 1, j => if 0 < j ∧ v < (b (j - 1) : Rat) - h then regionDown b h v n (j - 1) else j

/-- The region in force at a sample. -/
def Conc.regionNow (c : Conc) (l : Nat) (x : Loop) : Nat :=
  let cfg := c.loopCfg l
  let s := entryGet 128 (c.get O.loopSchedule) l
  let h : Rat := (int32At s 3 : Rat)
  let go (v : Rat) : Nat := regionDown (int32At s) h v 3 (regionUp (int32At s) h v 3 x.region)
  match bits cfg 31 24 with
  | 0 => go (x.u : Rat)
  | 1 => go ((Bank.get ({} : SetupRes) c.adc.results (bits cfg 39 32)).milliC : Rat)
  | _ => 0

/-- One step of the ramp (R435). -/
def rampStep (r target : Rat) (slew : Nat) (t : Rat) : Rat :=
  let s := (slew : Rat) * t
  if slew = 0 then target
  else if target - r ≤ s ∧ r - target ≤ s then target
  else if r < target then r + s else r - s

/-- The feed-forward duty of a bias loop (R433). -/
def feedForward (l : Nat) (vin : Option Rat) (r : Rat) : Int :=
  match vin with
  | none => 0
  | some v => if 12 ≤ l ∨ r ≤ v then 0 else roundRat (65536 * (1 - v / r))

/-- The control law at a sample with measurement `y`, ramp output `x.r` and region `j` (R431-R434).
(DEDUCED, log entry 44) -/
def controlLaw (l : Nat) (g : Gains) (lim : Int × Int) (x : Loop) (y : Rat) (j : Nat) (bump : Bool) : Loop :=
  let t := loopT l
  let e := x.r - y
  let p := g.kp * e
  let a := g.tau / (g.tau + t)
  let d := a * x.d - (1 - a) * g.kd * (y - x.y) / t
  let ff : Rat := (feedForward l x.vin x.r : Rat)
  let lo : Rat := (lim.1 : Rat)
  let hi : Rat := (lim.2 : Rat)
  let i := if bump then max (if l < 12 then 0 else -65535) (min 65535 ((x.u : Rat) - ff - p - d)) else x.i
  let i' := i + g.ki * e * t
  let raw := ff + p + i' + d
  let high : Bool := decide (hi < raw)
  let low : Bool := decide (raw < lo)
  let freeze := (high && decide (0 < e)) || (low && decide (e < 0))
  let u := clampInt lim.1 lim.2 (roundRat raw)
  { x with y := y, d := d, i := if freeze then i else i', u := u, region := j, frozen := freeze,
           atLimit := decide (u = lim.1 ∨ u = lim.2), restart := false, bumpless := false }

/-! ## Auto-tune (R441, R442) -/

/-- The 16 bytes of `TuneConfig` of thermal loop `l`: amplitude, hysteresis, cycles, timeout in s. -/
def Conc.tuneCfg (c : Conc) (l : Nat) : Nat := entryGet 128 (c.get O.tuneConfig) (l - 12)

/-- Pi to twenty places. (DEDUCED, log entry 44) -/
def piRat : Rat := 314159265358979323846 / 100000000000000000000

/-- The gains of accepted cycles in Q16.16: Tu in ms, a in m°C (R442). -/
def tuneGains (h : Nat) (tu a : Rat) : Int × Int × Int :=
  let ku := 4 * (h : Rat) / (piRat * a)
  let kp := ku / (32 / 10)
  let s := tu / 1000
  let q (x : Rat) : Int := sat32 (roundRat (x * 65536))
  (q kp, q (kp / (22 / 10 * s)), q (kp * s / (63 / 10)))

/-- The judgement of the last three cycles. -/
def tuneJudge (h region : Nat) (cycles : List (Nat × Rat)) : TuneRes :=
  let last := cycles.drop (cycles.length - 3)
  let tu : Rat := (last.foldl (fun n p => n + p.1) 0 : Nat) / 3
  let a : Rat := last.foldl (fun n p => n + p.2) 0 / 3
  let near (x m : Rat) (pc : Nat) : Bool := decide ((x - m) * 100 ≤ m * pc) && decide ((m - x) * 100 ≤ m * pc)
  let ok := last.all (fun p => near (p.1 : Rat) tu 10 && near p.2 a 20) && decide (50 ≤ a) && decide (0 < tu)
  if ok then
    let g := tuneGains h tu a
    { status := 1, tu := (roundRat tu).toNat, a := roundRat a, kp := g.1, ki := g.2.1, kd := g.2.2, region := region }
  else { status := 4, region := region }

/-- A tune ends: RUN with the integrator set so that u = u0. (DEDUCED, log entry 44) -/
def Conc.tuneEnd (c : Conc) (l : Nat) (t : Tune) (r : TuneRes) : Conc :=
  (c.updLoop l fun x => { x with st := 1, u := t.u0, tune := none, bumpless := true }).setTune l r

/-- A sample in TUNING: the relay, the crossings, the end after `TuneCycles` cycles. -/
def Conc.tuneSample (c : Conc) (l : Nat) (x : Loop) (t : Tune) (y : Rat) : Conc :=
  let cfg := c.tuneCfg l
  let h := bits cfg 31 0
  let eps : Rat := (bits cfg 63 32 : Rat)
  let e := x.r - y
  let u : Int := if eps < e then t.u0 + h else if e < -eps then t.u0 - h else x.u
  let up : Bool := match t.last with | some z => decide (z < x.r ∧ x.r ≤ y) | none => false
  let t := { t with n := t.n + 1, last := some y }
  let t := if up then
      { t with since := some t.n, top := y, bottom := y,
               cycles := match t.since with
                 | some n0 => t.cycles ++ [((t.n - n0) * 100, (t.top - t.bottom) / 2)]
                 | none => t.cycles }
    else { t with top := max t.top y, bottom := min t.bottom y }
  let c := c.setLoop l { x with y := y, u := u, tune := some t }
  if bits cfg 71 64 ≤ t.cycles.length then c.tuneEnd l t (tuneJudge h t.region t.cycles) else c

/-! ## LOOP_SAMPLE -/

/-- Count a skipped sample. (DEDUCED, log entry 44) -/
def Conc.skipped (c : Conc) (l : Nat) : Conc := c.countEntry O.loopCounters 32 (4 * l)

/-- The value of a sample; a flagged or missing one has none. -/
def sampleValue (m : Option Sample) : Option Rat := m.bind Sample.value

/-- The sample of a bias loop's input voltage. -/
def Conc.takeInput (c : Conc) (l : Nat) : Conc :=
  let x := c.loop l
  if 12 ≤ l then c
  else match sampleValue x.input with
    | some v => c.setLoop l { x with vin := some v, missV := 0, input := none }
    | none => (c.setLoop l { x with missV := x.missV + 1, input := none }).skipped l

/-- The ramp advances (R435); it starts anew at the first measurement after a stop (R437). -/
def Conc.ramp (c : Conc) (l : Nat) (x : Loop) (y : Option Rat) : Loop :=
  if x.restart then
    match y with
    | some v => { x with r := v, y := v, i := 0, d := 0 }
    | none => x
  else if x.st = 4 then x
  else { x with r := rampStep x.r (c.target l : Rat) (c.slew l) (loopT l) }

/-- LOOP_SAMPLE: once per period of a working loop (R429-R438). (DEDUCED, log entry 44) -/
def Conc.loopSample (c : Conc) (l : Nat) : Conc :=
  let x0 := c.loop l
  let p := c.periodOf l
  if x0.running = false ∨ p ≤ x0.sampled ∨ 16 ≤ l then c
  else
    let opened : Bool := match x0.feedback with | some m => m.open? | none => false
    let y := sampleValue x0.feedback
    let c := (c.setLoop l { x0 with sampled := p, feedback := none }).takeInput l
    let x := c.ramp l (c.loop l) y
    let limit := c.missLimit l
    match y with
    | none =>
      let c := (c.setLoop l { x with missF := x.missF + 1 }).skipped l
      if opened then c.loopFault l 1
      else if limit ≤ x.missF + 1 then c.loopFault l 3
      else if l < 12 ∧ limit ≤ x.missV then c.loopFault l 4
      else c
    | some v =>
      let lims := c.get O.loopLimits
      let out : Bool := decide (v < (limitOf lims l 4 : Rat) ∨ (limitOf lims l 5 : Rat) < v)
      let x := { x with missF := 0, outOfBand := if out then x.outOfBand + 1 else 0 }
      let c := c.setLoop l x
      if 3 ≤ x.outOfBand then c.loopFault l 2
      else if l < 12 ∧ limit ≤ x.missV then c.loopFault l 4
      else if l < 12 ∧ x.vin = none then c.setLoop l { x with y := v }
      else match x.tune with
        | some t => if x.st = 4 then c.tuneSample l x t v else c
        | none =>
          let j := c.regionNow l x
          let bump := !x.restart && (x.bumpless || j != x.region)
          let x := controlLaw l (c.gains l j) (c.outLimits l) x v j bump
          let c := c.setLoop l x
          if x.atLimit then c.countEntry O.loopCounters 32 (4 * l + 3) else c

/-! ## Commands (R439, R441, R442, R444) -/

/-- LOOP_CLEAR_FAULT. -/
def Conc.loopClear (c : Conc) (l : Nat) : Conc :=
  let x := c.loop l
  if x.faulted then (c.setLoop l { x with st := 5, fault := 0 }).settleLoop l else c

/-- LOOP_TUNE_START. (DEDUCED, log entry 44) -/
def Conc.tuneStart (c : Conc) (l : Nat) : Res Conc :=
  let x := c.loop l
  let cfg := c.tuneCfg l
  let h : Int := (bits cfg 31 0 : Nat)
  let lim := c.outLimits l
  if l < 12 then .error Abort.range
  else if x.st ≠ 1 ∨ x.restart ∨ x.r ≠ (c.target l : Rat) then .error (loopAbort l)
  else if x.u + h > lim.2 ∨ x.u - h < lim.1 ∨ bits cfg 71 64 < 4 ∨ bits cfg 95 80 < 60 then .error Abort.range
  else
    let t : Tune := { start := c.tick, u0 := x.u, region := x.region, top := x.y, bottom := x.y }
    .ok ((c.setLoop l { x with st := 4, tune := some t }).setTune l { status := 5, region := x.region })

/-- LOOP_TUNE_ABORT. (DEDUCED, log entry 44) -/
def Conc.tuneAbort (c : Conc) (l : Nat) : Res Conc :=
  if l < 12 then .error Abort.range
  else match (c.loop l).tune with
    | some t => .ok (c.tuneEnd l t {})
    | none => .error (loopAbort l)

/-- TUNE_TIMEOUT. -/
def Conc.tuneTimeout (c : Conc) (l : Nat) : Conc :=
  match (c.loop l).tune with
  | some t => if t.start + bits (c.tuneCfg l) 95 80 * secTicks ≤ c.tick then c.tuneEnd l t { status := 2, region := t.region } else c
  | none => c

/-- LOOP_TUNE_ACCEPT: the gains go to the region of the tune's start (R443). (DEDUCED, log entry 44) -/
def Conc.tuneAccept (c : Conc) (l : Nat) : Res Conc :=
  let t := c.tune l
  if l < 12 then .error Abort.range
  else if t.status ≠ 1 then .error (loopAbort l)
  else
    let k := 4 * l + t.region
    let old := entryGet 128 (c.get O.loopGains) k
    let new := ofSigned 32 t.kp + ofSigned 32 t.ki * 2 ^ 32 + ofSigned 32 t.kd * 2 ^ 64 + bits old 127 96 * 2 ^ 96
    let c := c.put O.loopGains (entrySet 128 (c.get O.loopGains) k new)
    .ok (c.updLoop l fun x => if x.region = t.region then { x with bumpless := true } else x)

/-- A write of `LoopCommand`. -/
def Conc.loopCommand (c : Conc) (v : Nat) : Res Conc :=
  let l := v % 16
  match v / 16 with
  | 1 => .ok (c.loopClear l)
  | 2 => c.tuneStart l
  | 3 => c.tuneAccept l
  | 4 => c.tuneAbort l
  | _ => .error Abort.range

/-! ## Writes of the tables -/

/-- LOOP_SETPOINT_WRITE (R435): entries that change are judged against the set-point limits; a new target during a ramp
truncates it. -/
def Conc.writeSetpoints (c : Conc) (v : Nat) : Res Conc :=
  let old := c.get O.loopSetpoint
  let lims := c.get O.loopLimits
  let target (v l : Nat) : Int := int32At v (2 * l)
  let changed (l : Nat) : Bool := decide (target v l ≠ target old l)
  if (List.range 16).any (fun l => changed l && (decide (target v l < limitOf lims l 0) || decide (limitOf lims l 1 < target v l))) then
    .error Abort.range
  else
    .ok ((List.range 16).foldl (fun c l =>
      let x := c.loop l
      if changed l ∧ x.st = 1 ∧ x.restart = false ∧ x.r ≠ (target old l : Rat) then
        (c.setLoop l { x with truncated := true }).countEntry O.loopCounters 32 (4 * l + 2)
      else c) (c.put O.loopSetpoint v))

/-- A write of `LoopLimits`. -/
def Conc.writeLoopLimits (c : Conc) (v : Nat) : Res Conc :=
  if (List.range 48).any (fun k => decide (int32At v (2 * k + 1) < int32At v (2 * k))) then .error Abort.range
  else .ok (c.put O.loopLimits v)

/-- LOOP_GAINS_WRITE: gains in force change bumplessly (R434). -/
def Conc.writeGains (c : Conc) (v : Nat) : Conc :=
  let old := c.get O.loopGains
  (List.range 16).foldl (fun c l =>
    let k := 4 * l + (c.loop l).region
    if entryGet 128 v k = entryGet 128 old k then c else c.updLoop l fun x => { x with bumpless := true }) (c.put O.loopGains v)

/-- A write of `LoopSchedule`: boundaries of entries that change rise strictly. -/
def Conc.writeSchedule (c : Conc) (v : Nat) : Res Conc :=
  let old := c.get O.loopSchedule
  if (List.range 16).any (fun l =>
      let e := entryGet 128 v l
      decide (e ≠ entryGet 128 old l) && !(decide (int32At e 0 < int32At e 1) && decide (int32At e 1 < int32At e 2))) then
    .error Abort.range
  else .ok (c.put O.loopSchedule v)

/-- A write of `TuneConfig`: entries that change are judged. -/
def Conc.writeTuneConfig (c : Conc) (v : Nat) : Res Conc :=
  let old := c.get O.tuneConfig
  if (List.range 4).any (fun k =>
      let e := entryGet 128 v k
      decide (e ≠ entryGet 128 old k) &&
        !(decide (4 ≤ bits e 71 64) && decide (bits e 71 64 ≤ 32) && decide (60 ≤ bits e 95 80))) then .error Abort.range
  else .ok (c.put O.tuneConfig v)

/-- The generator that serves a consumer. -/
def Conc.generatorOf (c : Conc) (code : Nat) : Option Nat :=
  (List.range 32).find? fun g => entryGet 8 (c.get O.pwmAssign) g = code

/-- The abort of a claim that finds no generator (R440, R446). -/
def noGenerator : Abort := Abort.owned (ownerCode 0x08 0xFFFFFF)

/-- Whether R444 accepts the entry of an enabled loop. -/
def Conc.loopSetupOk (c : Conc) (e l : Nat) : Bool :=
  if bits e 7 0 = 0 then true
  else if l < 12 then decide (bits e 15 8 < 32) && decide (bits e 23 16 < 32)
  else
    let k := (c.setup (bits e 15 8)).kind
    decide (bits e 15 8 < 32) && (k == 2 || k == 3)

/-- Two enabled loops of a table name one setup that they may not share: the input voltage of bias loops alone is shared
(R440). -/
def setupShared (v l m : Nat) : Bool :=
  let input (x : Nat) : Option Nat := if x < 12 ∧ bits (entryGet 128 v x) 23 16 ≠ 0xFF then some (bits (entryGet 128 v x) 23 16) else none
  let own (x : Nat) : List Nat :=
    let e := entryGet 128 v x
    bits e 15 8 :: (if bits e 31 24 = 1 then [bits e 39 32] else [])
  (own l).any (fun k => (own m).contains k || input m == some k) || (own m).any fun k => input l == some k

/-- The loop that owns a setup which the entry of another loop, new or changed in a write, would take (R323, R440): one that is
enabled already, or the lower one of two that the write enables. (DEDUCED, log entry 44) -/
def Conc.setupTaken (c : Conc) (v : Nat) : Option Nat :=
  let entry (l : Nat) : Nat := entryGet 128 v l
  let on (l : Nat) : Bool := decide (bits (entry l) 7 0 ≠ 0)
  let taken (m : Nat) : Bool := on m && (List.range 16).any fun l =>
    decide (l ≠ m) && on l && decide (entry l ≠ c.loopCfg l) && setupShared v l m
  match (List.range 16).find? fun m => c.loopEnabled m && taken m with
  | some m => some m
  | none => (List.range 16).find? taken

/-- A write of `LoopSetup` (R436, R440, R444, R341). -/
def Conc.writeLoopSetup (c : Conc) (v : Nat) : Res Conc :=
  let entry (l : Nat) : Nat := entryGet 128 v l
  let starts (l : Nat) : Bool := decide (bits (entry l) 7 0 ≠ 0) && !c.loopEnabled l
  if (List.range 16).any (fun l => decide (1 < bits (entry l) 7 0) || decide (2 < bits (entry l) 31 24)
      || !c.loopSetupOk (entry l) l) then .error Abort.range
  else if (List.range 16).any (fun l => starts l && (c.generatorOf (loopCode l)).isNone) then .error noGenerator
  else match c.setupTaken v with
    | some m => .error (loopAbort m)
    | none =>
      if c.gated 5 ∧ (List.range 16).any starts then .error gateAbort
      else .ok (c.put O.loopSetup v).settleLoops

/-- A code of `PwmAssign`. -/
def pwmCodeOk (v : Nat) : Bool :=
  decide (v ≤ 0x0B) || (decide (0x10 ≤ v) && decide (v ≤ 0x13)) || (decide (0x20 ≤ v) && decide (v ≤ 0x2F)) || v == 0xFF

/-- The owner that keeps a generator with its consumer (R440): an enabled loop, an active light output. -/
def Conc.generatorOwner (c : Conc) (code : Nat) : Option Nat :=
  if 0x20 ≤ code ∧ code ≤ 0x2F then
    (if entryGet 64 (c.get O.ledChannel) (code - 0x20) % 256 = 0 then none else some (ownerCode 0x07 (code - 0x20)))
  else
    let l := if code < 0x10 then code else code - 4
    if l < 16 ∧ c.loopEnabled l then some (ownerCode 0x09 l) else none

/-- A write of `PwmAssign`. -/
def Conc.writePwmAssign (c : Conc) (v : Nat) : Res Conc :=
  let old := c.get O.pwmAssign
  if (List.range 32).any (fun g => !pwmCodeOk (entryGet 8 v g)) then .error Abort.range
  else
    match (List.range 32).findSome? fun g =>
        if entryGet 8 v g = entryGet 8 old g then none else c.generatorOwner (entryGet 8 old g) with
    | some o => .error (Abort.owned o)
    | none => .ok (c.put O.pwmAssign v)

/-! ## What is read (R444) -/

def Loop.entry (x : Loop) (target : Int) : Nat :=
  let ramping := x.running && !x.restart && decide (x.r ≠ (target : Rat))
  x.st + x.region * 2 ^ 8 + (b1 ramping + 2 * b1 x.truncated + 4 * b1 x.atLimit + 8 * b1 x.frozen) * 2 ^ 16 + x.fault * 2 ^ 24
    + ofSigned 32 (sat32 (roundRat x.r)) * 2 ^ 32 + ofSigned 32 (sat32 (roundRat x.y)) * 2 ^ 64 + ofSigned 32 x.u * 2 ^ 96

def Conc.loopStatus (c : Conc) : Nat := packEntries 128 ((List.range 16).map fun l => (c.loop l).entry (c.target l))

/-- LOOP_STATUS_READ clears the ramp-truncated bits. -/
def Conc.loopStatusRead (c : Conc) : Conc :=
  (List.range 16).foldl (fun c l => c.updLoop l fun x => { x with truncated := false }) c

def TuneRes.entry (t : TuneRes) : Nat :=
  t.status + t.tu % 2 ^ 32 * 2 ^ 32 + ofSigned 32 t.a * 2 ^ 64 + ofSigned 32 t.kp * 2 ^ 96 + ofSigned 32 t.ki * 2 ^ 128
    + ofSigned 32 t.kd * 2 ^ 160

def Conc.tuneResult (c : Conc) : Nat := packEntries 192 ((List.range 4).map fun k => (c.tune (12 + k)).entry)

end Sys2Proof.Machine
end

