-- ==== Sys2Proof/Machine/ConcLight.lean ====
section
/-! DEFINITION. The calibration light drive (R445-R449) and the Safety Net interlock (R450-R456). -/

namespace Sys2Proof.Machine

def Conc.withSafety (c : Conc) (f : Safety → Safety) : Conc := { c with safety := f c.safety }

/-! ## Outputs (R445-R447) -/

/-- The mode, depth, fraction and duty of an output in `LedChannel`. -/
def ledMode (v n : Nat) : Nat := entryGet 64 v n % 256
def ledDepth (v n : Nat) : Nat := bits (entryGet 64 v n) 15 8
def ledFraction (v n : Nat) : Nat := bits (entryGet 64 v n) 31 16
def ledDuty (v n : Nat) : Nat := bits (entryGet 64 v n) 47 32

/-- k' of an output at fraction `frac`: the fraction times its bin gain (R445). -/
def Conc.ledKAt (c : Conc) (n frac : Nat) : Nat := min 1023 (roundDiv (frac * entryGet 16 (c.get O.ledBinGain) n : Nat) 32768).toNat

/-- k' of an output at its own fraction. -/
def Conc.ledK (c : Conc) (n : Nat) : Nat := c.ledKAt n (ledFraction (c.get O.ledChannel) n)

/-- The fraction a feedback run tries on output `n`. -/
def Conc.ledTrial (c : Conc) (n : Nat) : Option Nat :=
  match c.light.run with | some r => if r.led = n then some (r.frac + 2 ^ r.bit) else none | none => none

/-- What output `n` is driven with: in PWM mode a change waits for the next period start (R447); a feedback run drives it at the
fraction it tries (R449). (DEDUCED, log entry 45) -/
def Conc.ledDrive (c : Conc) (n : Nat) : Drive :=
  let v := c.get O.ledChannel
  let h := Bank.get {} c.light.held n
  match c.ledTrial n with
  | some k => { k := c.ledKAt n k, duty := ledDuty v n, full := c.get O.ledFullScale }
  | none =>
    if ledMode v n = 2 ∧ c.now < h.until? then h
    else { k := c.ledK n, duty := ledDuty v n, full := c.get O.ledFullScale }

/-- After a write that takes the light drive from `old` to `c`: the outputs that stay in PWM mode at one depth keep their drive
to the end of the period. (DEDUCED, log entry 45) -/
def Conc.holdDrive (c old : Conc) : Conc :=
  let a := old.get O.ledChannel
  let b := c.get O.ledChannel
  (List.range 16).foldl (fun (c : Conc) n =>
    let stays : Bool := ledMode a n == 2 && ledMode b n == 2 && ledDepth a n == ledDepth b n
    let next := (c.now / 2 ^ ledDepth a n + 1) * 2 ^ ledDepth a n
    let d : Drive := if stays then { old.ledDrive n with until? := next } else {}
    c.withLight fun l => { l with held := Bank.set {} l.held n d }) c

/-- No output lights: the drive is gated, the part is ASLEEP, in COLD_STANDBY or CLOCK_LOST, or its Ringmaster has failed
(R447). -/
def Conc.lightOff (c : Conc) : Bool :=
  c.gated 6 || c.pwr.state == 1 || c.pwr.state == 2 || c.pwr.state == 6 || c.pair.state == 5

/-- An output's sink is on (R446).  A stimulus flash takes its output whatever the light drive gives it (R454).
(DEDUCED, log entry 45) -/
def Conc.ledOn (c : Conc) (n : Nat) : Bool :=
  let stim : Bool := match c.safety.stimulus with | some (k, t) => k == n && decide (c.tick < t) | none => false
  let v := c.get O.ledChannel
  stim || (!c.lightOff && match (if (c.ledTrial n).isSome then 1 else ledMode v n) with
    | 1 => true
    | 2 => decide (c.now % 2 ^ ledDepth v n < (c.ledDrive n).duty)
    | 3 => bitAt c.light.lit n
    | _ => false)

/-- PROBE `p` drives its ball (R499). -/
def Conc.probeOn (c : Conc) (p : Nat) : Bool := bitAt (entryGet 32 (c.get O.probeSelect) p) 16

/-- The ball of LED12-15 that a probe entry holds. -/
def Conc.probeHolds (c : Conc) (n : Nat) : Bool := decide (12 ≤ n ∧ n ≤ 15) && c.probeOn (n - 8)
def probeAbort (p : Nat) : Abort := Abort.owned (ownerCode 0x06 p)

/-- A write of `LedChannel` (R446, R458). (DEDUCED, log entry 45) -/
def Conc.writeLedChannel (c : Conc) (v : Nat) : Res Conc :=
  let ok (n : Nat) : Bool :=
    decide (ledMode v n ≤ 3) && decide (ledFraction v n ≤ 1023)
      && (ledMode v n != 2 || (decide (8 ≤ ledDepth v n) && decide (ledDepth v n ≤ 16) && decide (ledDuty v n < 2 ^ ledDepth v n)))
  if (List.range 16).any fun n => !ok n then .error Abort.range
  else match (List.range 16).find? fun n => ledMode v n ≠ 0 && c.probeHolds n with
    | some n => .error (probeAbort (n - 8))
    | none =>
      if (List.range 16).any fun n => ledMode v n = 2 && (c.generatorOf (0x20 + n)).isNone then .error noGenerator
      else
        let flash := (List.range 16).foldl (fun m n => setBit m n (bitAt c.light.lit n && ledMode v n == 3)) 0
        .ok (((c.put O.ledChannel v).withLight fun l => { l with lit := flash }).holdDrive c)

/-- LED_COMPLIANCE_LOSS (R445). -/
def Conc.ledLoss (c : Conc) (n : Nat) : Conc :=
  if 16 ≤ n ∨ bitAt c.light.lostNow n then c
  else (c.withLight fun l => { l with lostNow := setBit l.lostNow n true, lostSince := setBit l.lostSince n true,
                                      lossCount := Bank.upd 0 l.lossCount n fun k => satAdd 8 k 1 }).postEntry 0 0x29 0 0 0 0 0

/-- LED_COMPLIANCE_RESTORED. -/
def Conc.ledRestored (c : Conc) (n : Nat) : Conc := c.withLight fun l => { l with lostNow := setBit l.lostNow n false }

def Conc.ledStatus (c : Conc) : Nat :=
  packEntries 16 ((List.range 16).map fun n =>
    b1 (c.ledOn n) + 2 * b1 (bitAt c.light.lostNow n) + 4 * b1 (bitAt c.light.lostSince n)
      + Bank.get 0 c.light.lossCount n % 256 * 256)

/-! ## Flashes (R448) -/

/-- The base clock runs (R448, R343). -/
def Conc.baseRuns (c : Conc) : Bool := c.pwr.state == 3 || c.pwr.state == 4 || (c.pwr.state == 5 && !c.time.onAo)

/-- The start beat of the first flash that falls due after beat `last`: a single one, or the next of the second's. -/
def Conc.flashDue (c : Conc) : Option Nat :=
  let period := c.get O.flashPeriod
  if period = 0 then c.light.fire.map (32 * ·)
  else match c.trueInstant c.time.value.1 with
    | none => none
    | some t =>
      let first := ((t + 255) / 256).toNat + c.get O.flashPhase
      let step := 32 * period
      if c.light.lastBeat < first then some first
      else some (first + ((c.light.lastBeat - first) / step + 1) * step)

/-- A write of `FlashFire`: the third base tick after the write. -/
def Conc.flashFire (c : Conc) (v : Nat) : Res Conc :=
  if v ≠ 1 ∨ c.get O.flashPeriod ≠ 0 then .error Abort.range
  else .ok (c.withLight fun l => { l with fire := some (c.tick + 3) })

/-- FLASH_START: a flash that has fallen due turns on its outputs together and offers its trigger; it is skipped while the
previous one is lit or the stimulus flash runs. (DEDUCED, log entry 45) -/
def Conc.flashStart (c : Conc) : Conc :=
  match c.flashDue with
  | none => c
  | some b =>
    if c.tick < b / 32 ∨ c.gated 6 ∨ c.baseRuns = false then c
    else
      let c := c.withLight fun l => { l with lastBeat := b, fire := none }
      let lit : Bool := match c.light.flashEnd with | some e => decide (b < e) | none => false
      let stim : Bool := match c.safety.stimulus with | some (_, t) => decide (b / 32 < t) | none => false
      if lit ∨ stim then c.count O.flashSkipped
      else
        let key := c.instantKey (b * 256 : Nat)
        let v := c.get O.ledChannel
        let on := (List.range 16).foldl (fun m n => setBit m n (bitAt (c.get O.flashMask) n && ledMode v n == 3)) 0
        let c := c.withLight fun l => { l with lit := on, flashEnd := some (b + c.get O.flashWidth) }
        ((c.put O.lastFlashKey key).count O.flashCount).flashTrigger key

/-- FLASH_END: `FlashWidth` beats after the start. -/
def Conc.flashEnd (c : Conc) : Conc :=
  match c.light.flashEnd with
  | some e => if e ≤ c.tick * 32 + 31 then c.withLight fun l => { l with lit := 0, flashEnd := none } else c
  | none => c

/-! ## Intensity feedback (R449) -/

/-- 100 us in base ticks. -/
def feedbackSettle : Nat := 9375

/-- The end of a run: `FeedbackResult`. (DEDUCED, log entry 45) -/
def Conc.feedbackEnd (c : Conc) (status frac ratio : Nat) : Conc :=
  c.withLight fun l => { l with run := none, result := frac % 1024 + status * 2 ^ 10 + ratio % 2 ^ 16 * 2 ^ 16 }

/-- A write of `FeedbackRun`. (DEDUCED, log entry 45) -/
def Conc.feedbackRun (c : Conc) (v : Nat) : Res Conc :=
  let n := c.get O.feedbackLed
  let k := c.get O.feedbackSetup
  if 1 < v then .error Abort.range
  else if c.gated 6 then .error gateAbort
  else if v = 0 then
    match c.light.run with
    | some r => .ok (c.feedbackEnd 4 r.frac 0)
    | none => .ok c
  else match c.setupOwner k with
    | some l => .error (loopAbort l)
    | none =>
      if c.light.run.isSome then .error (Abort.owned (ownerCode 0x07 n))
      else if ledMode (c.get O.ledChannel) n ≠ 1 ∨ (c.setup k).kind = 0 then .error Abort.range
      else
        let r : FeedbackRun := { led := n, setup := k, target := toSigned 16 (c.get O.feedbackTarget), ready := c.tick + feedbackSettle }
        .ok (c.withLight fun l => { l with run := some r, result := 2 ^ 10 })

/-- The ratio of the fraction found to the one the bin gain predicts; none is stated for a prediction of 0.
(DEDUCED, log entry 45) -/
def Conc.feedbackRatio (c : Conc) (n frac : Nat) : Nat × Conc :=
  match c.ledK n with
  | 0 => let d := c.drawNat; (d.1 % 2 ^ 16, d.2)
  | k => (min 65535 (roundDiv (frac * 32768 : Nat) k).toNat, c)

/-- One of a step's sixteen conversions: the sum so far and whether a flag appeared. -/
def Conc.feedbackConvert (r : FeedbackRun) (s : Int × Bool × Conc) (code : Int) : Int × Bool × Conc :=
  let c := s.2.2
  let set := c.setup r.setup
  let v : Conversion := { asker := .host, setup := r.setup, start := c.tick, range := set.range, orientB := false,
                          settling := (Bank.get ({} : SetupRes) c.adc.results r.setup).ranged }
  let c := c.withAdc fun a => { a with results := Bank.upd {} a.results r.setup fun x => { x with ranged := false } }
  let x := c.storeResult v (clampInt (-8192) 8191 code) 0
  (s.1 + clampInt (-8192) 8191 code, s.2.1 || x.1.settling || x.1.open?, x.2)

/-- FEEDBACK_STEP: sixteen conversions after the settling decide one bit of the fraction. -/
def Conc.feedbackStep (c : Conc) (codes : List Int) : Conc :=
  match c.light.run with
  | none => c
  | some r =>
    if c.tick < r.ready ∨ c.gated 5 ∨ c.gated 6 ∨ codes.length ≠ 16 then c
    else
      let s := codes.foldl (Conc.feedbackConvert r) (0, false, c)
      let c := s.2.2
      if s.2.1 then c.feedbackEnd 4 r.frac 0
      else
        let keep := decide (s.1 ≤ 16 * r.target)
        let frac := if keep then r.frac + 2 ^ r.bit else r.frac
        if 0 < r.bit then
          c.withLight fun l => { l with run := some { r with frac := frac, bit := r.bit - 1, ready := c.tick + feedbackSettle } }
        else
          let p := c.feedbackRatio r.led frac
          if frac = 0 ∨ (frac = 1023 ∧ s.1 < 16 * r.target) then p.2.feedbackEnd 3 frac p.1 else p.2.feedbackEnd 2 frac p.1

/-! ## The Safety Net (R450-R456) -/

/-- Fields of a bundle's payload (R455). -/
def SafetyBundle.permits (b : SafetyBundle) : Nat := bits b.payload 7 0
def SafetyBundle.led (b : SafetyBundle) : Nat := bits b.payload 15 8
def SafetyBundle.darkAt (b : SafetyBundle) : Nat := bits b.payload 31 16
def SafetyBundle.stimulusAt (b : SafetyBundle) : Nat := bits b.payload 47 32
def SafetyBundle.current (b : SafetyBundle) : Nat := bits b.payload 63 48
def SafetyBundle.releaseDelay (b : SafetyBundle) : Nat := bits b.payload 79 64
def SafetyBundle.feedbackTime (b : SafetyBundle) : Nat := bits b.payload 95 80

/-- The current of an output in mA (R445); during a stimulus flash the bundle's (R454). (DEDUCED, log entry 45) -/
def Conc.ledCurrent (c : Conc) (n : Nat) : Rat :=
  let d := c.ledDrive n
  let k : Nat := match c.safety.stimulus, c.safety.bundle with
    | some (m, t), some b => if m = n ∧ c.tick < t then b.current else d.k
    | _, _ => d.k
  if c.ledOn n then ((d.full * k : Nat) : Rat) / 1023 else 0

/-- Every field of a payload of 32 bytes is in range (R455); the reserved bytes are ignored (R8). -/
def SafetyBundle.ok (b : SafetyBundle) : Bool :=
  decide (b.permits ≤ 3) && decide (b.led ≤ 15) && decide (b.darkAt ≤ 1023) && decide (b.stimulusAt ≤ 1023)
    && decide (b.darkAt < b.stimulusAt) && decide (1 ≤ b.current) && decide (b.current ≤ 1023) && decide (10 ≤ b.releaseDelay)
    && decide (b.releaseDelay ≤ 60000) && decide (5 ≤ b.feedbackTime) && decide (b.feedbackTime ≤ 200)
    && decide (bits b.payload 111 96 ≤ 0xFFF)

/-- Dark below the threshold, not dark above it plus 2 percent, as before between (R450). (DEDUCED, log entry 46) -/
def Safety.darkNow (s : Safety) : Bool :=
  match s.bundle with
  | none => false
  | some b =>
    let t := b.darkAt * 24438
    if s.light < t then true else if t * 102 < s.light * 100 then false else s.dark

/-- The filtered inputs: SN_IN1 reads high while the camera is not dark. (DEDUCED, log entry 46) -/
def Safety.pins (s : Safety) : Nat := setBit s.inputs 1 (!s.dark)

/-- The conditions of R451 but for their delay and the fault. -/
def Safety.conditions (s : Safety) : Bool :=
  match s.bundle with
  | none => false
  | some b =>
    s.passed && (bitAt s.inputs 0 || s.dark) && (!bitAt b.permits 0 || bitAt s.inputs 2) && (!bitAt b.permits 1 || bitAt s.inputs 3)

/-- The outputs that state and request command; a test pulse drives one of them off (R451, R453). -/
def Safety.commanded (s : Safety) : Nat := if s.st = 2 then s.request % 4 else 0
def Safety.driven (s : Safety) : Nat :=
  match s.pulse with
  | some (k, _) => setBit s.commanded k false
  | none => s.commanded

/-- SAFETY_EVENT (R456). -/
def Conc.safetyEvent (c : Conc) (code : Nat) : Conc :=
  let s := c.safety
  c.emit0 (BitVec.ofNat 64 (0x27 * 2 ^ 56 + code + s.pins * 2 ^ 8 + s.outputs * 2 ^ 12 + s.feedback % 4 * 2 ^ 14
    + c.seconds % 2 ^ 32 * 2 ^ 16))

/-- Apply a change to the Safety Net: its outputs follow, a test pulse whose output has lost its permission is aborted, and
bias loops are held or released (R451, R453). (DEDUCED, log entry 46) -/
def Conc.safetySet (c : Conc) (f : Safety → Safety) : Conc :=
  let old := c.safety
  let new := f old
  let lost : Bool := match new.pulse with | some (k, _) => !bitAt new.commanded k | none => false
  let new := if lost then { new with pulse := none } else new
  let changed := [0, 1].foldl (fun b k => if bitAt old.commanded k = bitAt new.commanded k then b else Bank.set 0 b k c.tick)
    new.changed
  let c := (c.withSafety fun _ => { new with outputs := new.driven, changed := changed }).settleLoops
  if lost then (c.count O.safetyCounters 1).safetyEvent 7 else c

/-- The state follows the conditions (R451): REFUSED at once when one fails, and the delay starts when all hold. -/
def Conc.safetyEval (c : Conc) : Conc :=
  let s := c.safety
  let ok := s.conditions
  let since : Option Nat := if ok then some (s.since.getD c.tick) else none
  let st : Nat :=
    if s.st = 3 then 3
    else if s.bundle.isNone then 0
    else if s.st = 0 then (if s.passed then 1 else 0)
    else if ok then s.st else 1
  let c := c.safetySet fun s => { s with since := since, st := st }
  if st = s.st then c
  else if st = 1 then (c.count O.safetyCounters 3).safetyEvent 2 else c

/-- A fault (R452, R453): 1 and 2 feedback of output 0 and 1, 3 and 4 their test pulse. -/
def Conc.safetyFault (c : Conc) (code : Nat) : Conc :=
  if c.safety.st = 3 then c
  else
    let c := c.safetySet fun s => { s with st := 3, fault := code, since := none }
    let cause := if code ≤ 2 then 0x2A else 0x2D
    (c.safetyEvent (if code ≤ 2 then 3 else 4)).postEntry 7 cause 0 0 0 0 0

/-- SAFETY_INPUT_CHANGE: input `n` has held a new level for 0.5 ms; for SN_LIGHT the level is in units of 0.1 uV. -/
def Conc.safetyInput (c : Conc) (n level : Nat) : Conc :=
  let c := c.withSafety fun s =>
    if n = 1 then { s with light := level } else if n < 4 then { s with inputs := setBit s.inputs n (decide (level ≠ 0)) } else s
  (c.withSafety fun s => { s with dark := s.darkNow }).safetyEval

/-- RELEASE_DELAY_END: a change in the clock in which the delay completes counts as arrived (R457). -/
def Conc.releaseDelayEnd (c : Conc) : Conc :=
  let s := c.safety
  match s.bundle, s.since with
  | some b, some t =>
    if s.st = 1 ∧ s.conditions ∧ t + b.releaseDelay * msTicks < c.tick then
      (c.safetySet fun s => { s with st := 2 }).safetyEvent 1
    else c
  | _, _ => c

/-- BIAS_REQUEST_WRITE. -/
def Conc.biasRequest (c : Conc) (v : Nat) : Conc := (c.put O.biasRequest v).safetySet fun s => { s with request := v % 4 }

/-- RELAY_FEEDBACK_CHECK of output `k`: `high` is the level of its feedback (R452). -/
def Conc.relayFeedback (c : Conc) (k : Nat) (high : Bool) : Conc :=
  if 2 ≤ k then c
  else
    let c := c.withSafety fun s => { s with feedback := setBit s.feedback k high }
    let s := c.safety
    match s.bundle with
    | none => c
    | some b =>
      if Bank.get 0 s.changed k + b.feedbackTime * msTicks ≤ c.tick ∧ high ≠ bitAt s.commanded k then c.safetyFault (1 + k) else c

/-- The test period of output `k`: 10 s each, output 1's half a period later (R453). -/
def testPeriod (tick k : Nat) : Nat := (tick + (if k = 1 then 5 * secTicks else 0)) / (10 * secTicks)

/-- TEST_PULSE_START: an output that is on is driven off. -/
def Conc.testPulseStart (c : Conc) (k : Nat) : Conc :=
  let s := c.safety
  if 2 ≤ k ∨ s.pulse.isSome ∨ bitAt s.commanded k = false ∨ testPeriod c.tick k ≤ Bank.get 0 s.tested k then c
  else (c.safetySet fun s => { s with pulse := some (k, c.tick), tested := Bank.set 0 s.tested k (testPeriod c.tick k) }).count
    O.safetyCounters 0

/-- 300 us in base ticks. -/
def pulseTicks : Nat := 28125

/-- TEST_PULSE_END: `off` and `on` say that the stage read back off within 100 us of the start and on within 100 us of the
end. -/
def Conc.testPulseEnd (c : Conc) (off on : Bool) : Conc :=
  match c.safety.pulse with
  | none => c
  | some (k, t) =>
    if c.tick < t + pulseTicks then c
    else
      let c := c.safetySet fun s => { s with pulse := none }
      if off && on then c else (c.count O.safetyCounters 2).safetyFault (3 + k)

/-- The stimulus flash and its verdict (R454): `rose` within 1 ms, `fell` within 10 ms. (DEDUCED, log entry 45) -/
def Conc.stimulusRun (c : Conc) (b : SafetyBundle) (rose fell : Bool) : Conc :=
  let c := if bitAt c.light.lit b.led then
      (c.withLight fun l => { l with lit := setBit l.lit b.led false }).count O.flashSkipped
    else c
  let c := c.withSafety fun s => { s with stimulus := some (b.led, c.tick + 938), stimulusAt := some c.tick }
  if rose && fell then ((c.withSafety fun s => { s with passed := true }).safetyEvent 5).safetyEval
  else (c.count O.safetyCounters 4).safetyEvent 6

/-- STIMULUS_TEST: once per second while STARTING with a bundle in force. -/
def Conc.stimulusTest (c : Conc) (rose fell : Bool) : Conc :=
  let s := c.safety
  let due : Bool := match s.stimulusAt with | some t => decide (t + secTicks ≤ c.tick) | none => true
  match s.bundle with
  | some b => if s.st = 0 ∧ due then c.stimulusRun b rose fell else c
  | none => c

/-- An entry of the change log: 64, the oldest overwritten (R455). -/
def Conc.safetyLog (c : Conc) (event source measurement : Nat) : Conc :=
  let e : SafetyLog := { seconds := c.seconds % 2 ^ 32, event := event, source := source, measurement := measurement % 2 ^ 64 }
  let l := c.safety.log ++ [e]
  let c := if 64 < l.length then c.count O.changeLogOverwritten else c
  c.withSafety fun s => { s with log := l.drop (l.length - 64) }

/-- The measurement in force. -/
def Safety.measurement (s : Safety) : Nat := match s.bundle with | some b => b.measurement | none => 0

/-- The abort that names the Safety Net. -/
def safetyAbort : Abort := Abort.owned (ownerCode 0x02 7)

/-- SAFETY_CLEAR_FAULT (R451, R454): the pass of the stimulus test is lost with the fault. (DEDUCED, log entry 46) -/
def Conc.safetyClear (c : Conc) (src : Nat) : Res Conc :=
  if c.safety.st ≠ 3 then .error safetyAbort
  else
    let c := c.safetySet fun s => { s with st := 1, fault := 0, passed := false, since := none }
    .ok (((c.count O.safetyCounters 3).safetyEvent 2).safetyLog 3 src c.safety.measurement)

/-- SAFETY_RUN_STIMULUS: without a bundle there is no lamp to flash. (DEDUCED, log entry 46) -/
def Conc.safetyRunStimulus (c : Conc) (src : Nat) (rose fell : Bool) : Res Conc :=
  match c.safety.bundle with
  | none => .error safetyAbort
  | some b => .ok ((c.stimulusRun b rose fell).safetyLog 4 src b.measurement)

/-- SAFETY_BUNDLE_WRITE (R455): verified, stored, applied. -/
def Conc.safetyBundle (c : Conc) (src : Nat) (bs : List Nat) : Res Conc × Conc :=
  let first : Nat := ofBytes ((bs.drop 32).take 8)
  if c.gated 9 ∨ c.gated 11 then (.error gateAbort, c.safetyLog 2 src first)
  else match c.judgeEnvelope 3 false true bs with
  | .error _ => (.error Abort.general, c.safetyLog 2 src first)
  | .ok e =>
    let b : SafetyBundle := { payload := ofBytes e.payload, measurement := e.measurement }
    if e.payload.length ≠ 32 ∨ b.ok = false then (.error Abort.range, c.safetyLog 2 src first)
    else if c.probeHolds b.led then (.error (probeAbort (b.led - 8)), c.safetyLog 2 src first)
    else
      let c := (c.withSafety fun s => { s with bundle := some b }).safetyLog 1 src e.measurement
      let c := ((c.withSafety fun s => { s with dark := s.darkNow }).safetyEvent 8).safetyEval
      (.ok c, c)

/-! ## What is read (R459) -/

def Conc.safetyInputs (c : Conc) : Nat :=
  let s := c.safety
  s.pins + 16 * b1 s.dark + 32 * (s.outputs % 4) + 128 * b1 s.passed

def Conc.safetyConfig (c : Conc) : Nat :=
  match c.safety.bundle with
  | some b => b.payload % 2 ^ 256 + b.measurement % 2 ^ 512 * 2 ^ 256
  | none => 0

def SafetyLog.val (e : SafetyLog) : Nat := e.seconds + e.event * 2 ^ 32 + e.source * 2 ^ 40 + e.measurement * 2 ^ 64
def Conc.changeLog (c : Conc) : Nat := packEntries 128 (c.safety.log.map SafetyLog.val)

end Sys2Proof.Machine
end

