-- ==== Sys2Proof/Machine/ConcPower.lean ====
section
/-! DEFINITION. Clocks, gating and power states of the concentrator (chapter 15): monitors and fallback (R332-R337), the
stability judgement (R338), the frequency meter (R339), gates (R340, R341), what the power states of R343 hold, entry to
ASLEEP and COLD_STANDBY, the wake (R344, R345). -/

namespace Sys2Proof.Machine

def Conc.withPwr (c : Conc) (f : Power → Power) : Conc := { c with pwr := f c.pwr }

/-- Set the power state and what `PowerStateCode` reports; loops and the light follow it. -/
def Conc.setPower (c : Conc) (s : Nat) : Conc := ((c.withPwr fun x => { x with state := s }).put O.powerStateCode s).settleLoops

/-- Set the pair state and what `PairState` reports; FAILED lasts until reset (R375). -/
def Conc.setPair (c : Conc) (s : Nat) : Conc :=
  if c.pair.state = 5 then c
  else (({ c with pair := { c.pair with state := s } } : Conc).put O.pairState s).settleLoops

/-! ## Gates (R340, R341) -/

/-- The owner under R323 of a gateable block. (DEDUCED, log entry 35) -/
def Conc.gateOwner (c : Conc) (b : Nat) : Option Nat :=
  match b with
  | 0 => if c.get O.autoLatency = 1 then some (ownerCode 0x02 1) else none
  | 5 => ((List.range 16).find? fun l => (c.loop l).running).map fun l => ownerCode 0x09 l
  | 6 => if c.safety.bundle.isSome then some (ownerCode 0x02 7) else c.light.run.map fun r => ownerCode 0x07 r.led
  | 7 => ((List.range 8).find? fun p => c.probeOn p).map fun p => ownerCode 0x06 p
  | _ => none

/-- The gate of block `b` closes; `forced` after 64 busy cycles. (DEDUCED, log entry 35) -/
def Conc.closeGate (c : Conc) (b : Nat) (forced : Bool) : Conc :=
  c.withPwr fun x => { x with gated := setBit x.gated b true, gatesPending := setBit x.gatesPending b false,
                              gateForced := if forced then setBit x.gateForced b true else x.gateForced }

def Conc.openGate (c : Conc) (b : Nat) : Conc :=
  (if b = 6 ∧ c.gated 6 then c.flashFrom else c).withPwr fun x => { x with gated := setBit x.gated b false, gatesPending := setBit x.gatesPending b false }

/-- CLOCK_GATE_WRITE: a write of `GateControl`; `busy` is the mask of blocks whose bus interface is busy at the write.
(DEDUCED, log entry 35) -/
def Conc.writeGates (c : Conc) (busy v : Nat) : Res Conc :=
  match (List.range 12).findSome? fun b => if bitAt v b && !c.gated b then c.gateOwner b else none with
  | some o => .error (Abort.owned o)
  | none =>
    .ok ((List.range 12).foldl (fun (c : Conc) b =>
      if bitAt v b then
        if c.gated b then c
        else if bitAt busy b then c.withPwr fun x => { x with gatesPending := setBit x.gatesPending b true }
        else c.closeGate b false
      else c.openGate b) (c.put O.gateControl v))

/-- In each base tick the interface of a block whose gate waits may become idle, and the gate closes (R340); when it does, the
spec leaves to the traffic: a free choice. (DESIGN CHOICE, log entry 53) -/
def Conc.gatesIdle (c : Conc) : Conc :=
  if c.pwr.gatesPending = 0 then c
  else (List.range 12).foldl (fun (c : Conc) b =>
    if bitAt c.pwr.gatesPending b then
      let d := c.drawBool
      if d.1 then d.2.closeGate b false else d.2
    else c) c

/-- GATE_FORCE: a gate that has waited for 64 busy cycles. (DEDUCED, log entry 35) -/
def Conc.forceGate (c : Conc) (b : Nat) : Conc := if bitAt c.pwr.gatesPending b then c.closeGate b true else c

/-! ## The frequency meter (R339) -/

/-- The nominal frequency of a domain in Hz, of a cluster's at the speed in force (R342); the JTAG clock has none of its own. -/
def Conc.nominal (c : Conc) (d : Nat) : Option Nat :=
  if d = 0 then some 32768
  else if d = 1 then some 50000000
  else if d = 2 then some 8000000
  else if d = 3 then some 24000000
  else if d = 4 then some 25000000
  else if d = 5 then some (if c.pwr.state = 1 then 25000000 else 100000000)
  else if d = 6 then some (if c.pwr.state = 1 then 5000000 else 20000000)
  else if d = 7 then some 93750000
  else if d = 8 ∨ d = 17 then some 3000000000
  else if d = 9 then some (if c.pwr.state = 2 then 100000000 else 1500000000)
  else if d = 11 ∨ d = 12 then some 1500000000
  else if d = 13 ∨ d = 14 then some 1600000000
  else if d = 15 ∨ d = 16 then some 3200000000
  else if 18 ≤ d ∧ d ≤ 30 then some ([3000000000, 2500000000, 2000000000, 1500000000, 1000000000].getD (c.clusterPw (d - 18)).speed 0)
  else if d = 33 ∨ d = 35 then some 187500000
  else if d = 37 then some 500000000
  else if d = 39 then none
  else some 750000000

/-- REFCLK is declared dead. -/
def Conc.refDead (c : Conc) : Bool := (Bank.get ({} : ClockDom) c.pwr.doms 4).dead

/-- METER_RUN: a write of `MeterRun`. (DESIGN CHOICE, log entry 47) -/
def Conc.meterRun (c : Conc) (v : Nat) : Res Conc :=
  if v ≠ 1 then .error Abort.range
  else if c.pwr.meter.running then .ok c
  else .ok ((c.withPwr fun x => { x with meter := { domain := c.get O.meterDomain, start := c.tick, running := true, refDead := c.refDead } }).put O.meterStatus 1)

/-- The gate has passed: `MeterGate` milliseconds of REFCLK, or as many AO ticks where D4 is counted.
(DESIGN CHOICE, log entry 47) -/
def Conc.meterDue (c : Conc) : Bool :=
  let m := c.pwr.meter
  let g := c.get O.meterGate
  if m.domain = 4 then decide (aoOf m.start + g ≤ c.ao) else decide (m.start + g * msTicks ≤ c.tick)

/-- METER_GATE_END: `count` edges were counted. (DESIGN CHOICE, log entry 47) -/
def Conc.meterEnd (c : Conc) (count : Nat) : Conc :=
  let m := c.pwr.meter
  if m.running = false ∨ c.meterDue = false then c
  else
    let c := c.withPwr fun x => { x with meter := { m with running := false } }
    if m.refDead ∨ c.refDead then c.put O.meterStatus 3
    else
      let g := c.get O.meterGate
      let d : Nat × Conc := match c.nominal m.domain with
        | none => c.drawNat
        | some f =>
          let per := if m.domain = 4 then 32768 else 1000
          let x := roundDiv (((count * per : Nat) : Int) * 100000000 - ((f * g : Nat) : Int) * 100000000) (f * g)
          (ofSigned 32 (sat32 x), c)
      ((d.2.put O.meterCount (count % 2 ^ 64)).put O.meterDeviation (d.1 % 2 ^ 32)).put O.meterStatus 2

/-- A write of `MeterDomain` or `MeterGate`: not during a run. -/
def Conc.writeMeter (c : Conc) (o : Obj) (v : Nat) : Res Conc :=
  if c.pwr.meter.running then .error Abort.range else .ok (c.put o v)

/-! ## What the power states hold (R343, R345) -/

/-- A lane parks at once: its clock stops. -/
def Conc.parkNow (c : Conc) (i : Nat) : Conc :=
  let l := c.lane i
  match l.st with
  | .disabled | .retired | .parked => c
  | _ =>
    let p := l.parkTrained c.tick
    (if (laneKind i).trained then c.setLane i { p with train := { p.train with parkLeft := 0 } }
     else c.laneLost i .parked).parkQuad (quadOf i)

def Conc.parkAll (c : Conc) (lanes : List Nat) : Conc := lanes.foldl (fun c i => c.parkNow i) c

/-- The lanes that a wake returns to service: all but those that `LaneControl` parks. (DEDUCED, log entry 36) -/
def Conc.unparkAll (c : Conc) : Conc :=
  (List.range 164).foldl (fun c i => if bitAt (c.laneCtl i) 1 then c else (c.lockQuad (quadOf i)).unpark i) c

/-- The counter is driven by AO edges while the base clock is stopped (R150). -/
def Conc.stopBase (c : Conc) : Conc := c.counterToAo

/-- HBM is off, and with it the ring, the record store, the tasks and the streams (R343, R463): contexts and the images of the
slots are gone, repairs and spares stay. (DEDUCED, log entry 36) -/
def Conc.dropHbm (c : Conc) : Conc :=
  let e := c.eng
  { c with
    mem := { c.mem with bytes := [], errs := [], written := [], pool := [], scratch := [], cluster := [] },
    mov := {},
    eng := { map := e.map, clusterMap := e.clusterMap, movePending := e.movePending,
             power := (List.range 13).foldl (fun b k => Bank.set {} b k { speed := c.get O.engineClock }) [] },
    caro := { ringSize := c.caro.ringSize, storeSize := c.caro.storeSize, leftOut := c.caro.leftOut, trigin := c.caro.trigin },
    egr := { c.egr with bulk := [], forming := [], formingSince := [] } }

/-- The judgements of R338 end: on the way out of a state without these clocks each is judged anew. -/
def Conc.unjudge (c : Conc) : Conc :=
  c.withPwr fun x => { x with doms := x.doms.map fun p =>
    (p.1, { p.2 with stable := false, good := 0, windows := 0, restarted := false, failed := false }) }

/-- ASLEEP is entered: the Ringmaster's clock stops. -/
def Conc.fallAsleep (c : Conc) : Conc := ((c.unjudge.setPair 6).setPower 1).withPwr fun x => { x with ringStopped := true }

/-- ASLEEP is entered: lanes PARKED, the Carousel stopped, the base clock and the Ringmaster's stopped.
(DEDUCED, log entry 36) -/
def Conc.enterAsleep (c : Conc) : Conc := ((c.carouselStop.parkAll (List.range 164)).stopBase).fallAsleep

/-- COLD_STANDBY is entered: the peer lanes alone stay; HBM is off. (DEDUCED, log entry 36) -/
def Conc.enterCold (c : Conc) : Conc :=
  let c := (c.endSession.carouselStop.dropHbm.parkAll (List.range 162)).stopBase.unjudge
  let c := (c.withPwr fun x => { x with target := none, wakeStart := none, sleepAt := none, wakeNext := none }).setPair 2
  ({ c with pair := { c.pair with relinquishAt := none, takeover := none } } : Conc).setPower 2

/-- The front-ends whose lease is held are asked for a mode (R344, R346); for OBSERVE those whose epoch is known (R173). -/
def Conc.askFrontEnds (c : Conc) (mode : Nat) : Conc :=
  (List.range 48).foldl (fun c p =>
    if c.acts p && (mode != 3 || (c.gport p).epoch.isSome) then c.feRequest p 2 O.feModeRequest.index O.feModeRequest.sub O.feModeRequest.bytes mode else c) c

/-- The pass of R362 is due on the way to ASLEEP. -/
def Conc.passDue (c : Conc) : Bool :=
  c.get O.annealOnSleep == 1 && match c.faults.lastPass with
    | none => true
    | some t => decide (t + c.get O.annealInterval * 3600 * secTicks ≤ c.tick)

/-- The entry to ASLEEP from STANDBY after the pass: the front-ends are asked for SLEEP, the heartbeats say SLEEPING for 10 ms,
then the concentrator enters ASLEEP (R344, R391). (DEDUCED, log entry 36) -/
def Conc.goAsleep (c : Conc) : Conc := (c.askFrontEnds 1).withPwr fun x => { x with sleepAt := some (c.tick + 10 * msTicks) }

/-- The entry to ASLEEP (R344, R362): through STANDBY; a pass that is due runs first, with one at every front-end. -/
def Conc.requestAsleep (c : Conc) : Conc :=
  let c := if c.pwr.state = 4 then (c.setPower 3).askFrontEnds 2 else c.setPower 3
  if c.faults.annealEnd.isSome then c.withFaults fun x => { x with annealSleep := true }
  else if c.passDue then
    ((List.range 48).foldl (fun (c : Conc) p =>
      if c.acts p then c.feRequest p 2 O.feAnnealRun.index O.feAnnealRun.sub O.feAnnealRun.bytes 1 else c) c).startPass true
  else c.goAsleep

/-- A pass that the entry to ASLEEP waits for has ended. -/
def Conc.afterPass (c : Conc) (before : Bool) : Conc := if before ∧ c.faults.annealEnd = none then c.goAsleep else c

/-- ANNEAL_PASS_COMPLETE and ANNEAL_BUDGET_EXPIRY, with the entry to ASLEEP that follows (R363). -/
def Conc.annealDone (c : Conc) (failing : List (Nat × Nat)) : Conc := (c.annealComplete failing).afterPass c.faults.annealSleep
def Conc.annealOver (c : Conc) : Conc := c.annealBudget.afterPass c.faults.annealSleep

/-- RESOURCE_SELF_TEST_COMPLETE: a test that a stopped pass waited for ends it (R363). -/
def Conc.testEnds (c : Conc) (kind num : Nat) (passed : Bool) : Conc :=
  let d := c.selfTestComplete kind num passed
  if d.faults.annealStop then d.stopPass.afterPass c.faults.annealSleep else d

/-- A wake source is registered in ASLEEP (R344, R345): WAKING.  One registered during the entry to ASLEEP is kept for its end
(R348), and one during a pass stops it at its next test boundary, and an entry that waits for it follows (R363). (DEDUCED, log entry 36) -/
def Conc.wake (c : Conc) (cause : Nat) (target : Nat) : Conc :=
  if c.pwr.state = 1 then
    ((c.withPwr fun x => { x with wakeStart := some c.tick, target := some (x.target.getD target) }).put O.lastWakeCause cause).setPower 5
  else
    let keep (c : Conc) : Conc := c.withPwr fun x => { x with wakeNext := some (x.wakeNext.getD (cause, target)) }
    if c.pwr.sleepAt.isSome then keep c
    else if c.faults.annealSleep then (keep c.stopPass).afterPass true
    else c.stopPass

/-- The entry to ASLEEP completes 10 ms after it began, and a wake source that came during it starts the ladder at once (R348,
R391). (DEDUCED, log entry 36) -/
def Conc.sleepDue (c : Conc) : Conc :=
  match c.pwr.sleepAt with
  | none => c
  | some t =>
    if c.tick < t ∨ c.pair.state = 4 ∨ c.pair.state = 5 then c
    else
      let d := (c.withPwr fun x => { x with sleepAt := none, wakeNext := none }).enterAsleep
      match c.pwr.wakeNext with
      | some (cause, target) => d.wake cause target
      | none => d

/-- The base clock runs again in the wake ladder (steps 3-5): once D7 has had its three stable windows the counter returns to it
and lanes unpark (R150, R338, R345). (DEDUCED, log entry 36) -/
def Conc.baseBack (c : Conc) : Conc :=
  if c.pwr.state = 5 ∧ c.time.onAo ∧ (Bank.get ({} : ClockDom) c.pwr.doms 7).stable then c.counterToBase.unparkAll else c

/-- A power state is reached from the wake: STANDBY, and OBSERVE or the entry to ASLEEP from there. -/
def Conc.reach (c : Conc) (s : Nat) : Conc :=
  let c := c.setPower 3
  if s = 4 then (c.setPower 4).askFrontEnds 3 else if s = 1 then c.requestAsleep else c

/-- The pair state of a unit that claims leases (R375). -/
def Conc.activePair (c : Conc) : Nat := if c.get O.partnerRole = 0 then 7 else 1

/-- The Carousel starts where it is enabled (R195). -/
def Conc.autoCarousel (c : Conc) : Conc := if c.get O.carouselEnable = 1 then c.carouselStart else c

/-- WAKE_LADDER_COMPLETE: STANDBY, or COLD_STANDBY where the ladder began there (R345, R391, R337).
(DEDUCED, log entry 36) -/
def Conc.wakeDone (c : Conc) : Conc :=
  let t := c.pwr.target.getD 3
  let judged := !c.time.onAo || (Bank.get ({} : ClockDom) c.pwr.doms 7).stable
  if c.pwr.state ≠ 5 ∨ c.pair.takeover.isSome ∨ (t ≠ 2 ∧ judged = false) then c
  else
    let c := c.withPwr fun x => { x with target := none, wakeStart := none }
    if t = 2 then ((c.enterCold.lockQuad 40).unpark 162).unpark 163
    else
      let c := (c.withPwr fun x => { x with state := 5 }).baseBack
      ((c.setPair c.activePair).autoCarousel).reach t

/-! ## Power requests (R344) -/

def powerAbort : Abort := Abort.owned (ownerCode 0x02 6)
def pairAbort : Abort := Abort.owned (ownerCode 0x02 8)

/-- A write of `PowerRequest` of ASLEEP, STANDBY or OBSERVE. (DEDUCED, log entry 36) -/
def Conc.powerRequest (c : Conc) (v : Nat) : Res Conc :=
  match c.pwr.state with
  | 1 => .ok (if v = 1 then c else c.wake 2 v)
  | 2 => .error pairAbort
  | 5 => if c.pair.state = 3 then .error pairAbort else .ok (c.withPwr fun x => { x with target := if x.target = some 2 then x.target else some v })
  | 6 => .error powerAbort
  | s =>
    let entering := c.faults.annealSleep || c.pwr.sleepAt.isSome
    if v = 1 then .ok (if entering then c else c.requestAsleep)
    else
      if entering then .ok (c.wake 2 v)
      else if v = s then .ok c
      else if v = 4 then .ok ((c.setPower 4).askFrontEnds 3)
      else .ok ((c.setPower 3).askFrontEnds 2)

/-- WAKE_AT_ALARM: the counter has reached `WakeAt`, where that source is enabled. -/
def Conc.wakeAlarm (c : Conc) : Conc :=
  if bitAt (c.get O.wakeSources) 1 ∧ c.get O.wakeAt ≤ c.seconds then c.wake 4 3 else c

/-- Signal detect on a back-end or peer lane of a sleeping concentrator (R344, R391). -/
def Conc.wakeLane (c : Conc) (i : Nat) : Conc :=
  match laneKind i with
  | .backEnd => if bitAt (c.get O.wakeSources) 0 then c.wake 3 3 else c
  | .peer => if c.pwr.target = some 2 then c.wake 3 2 else c
  | _ => c

/-! ## Monitors (R332, R333, R336, R337) -/

def Conc.dom (c : Conc) (n : Nat) : ClockDom := Bank.get {} c.pwr.doms n
def Conc.setDom (c : Conc) (n : Nat) (d : ClockDom) : Conc := c.withPwr fun x => { x with doms := Bank.set {} x.doms n d }

/-- REFCLK or the base PLL is lost (R337): CLOCK_LOST.  Lost again, the judgement starts anew (R348). (DEDUCED, log entry 36) -/
def Conc.clockLost (c : Conc) : Conc :=
  let c := c.unjudge
  if c.pwr.state = 6 then c
  else
    let cold := c.pwr.state == 2 || c.pwr.target == some 2
    let c := c.withPwr fun x => { x with target := if cold then some 2 else none, wakeStart := none, sleepAt := none, wakeNext := none,
                                         ringStopped := false }
    let c := [5, 9].foldl (fun (c : Conc) n => c.setDom n { c.dom n with forced := true, onFallback := true }) c
    let c := c.counterLost
    let c := ((c.carouselStop.parkAll (List.range 164)).post 0 0 0x22).count O.clockLostEvents
    c.setPower 6

/-- CLOCK_SOURCE_DEAD at the concentrator. -/
def Conc.clockDead (c : Conc) (n : Nat) : Conc :=
  let d := c.dom n
  if d.dead ∨ 40 ≤ n then c
  else
    let c := c.setDom n { d with dead := true, deadCount := min (d.deadCount + 1) 255, stable := false, good := 0,
                                 aliveSince := none }
    let c := if n = 4 then c.withPwr fun x => { x with meter := { x.meter with refDead := true } } else c
    if n = 0 then
      if c.get O.aoOnFallback = 1 then c
      else (c.setDom 0 { c.dom 0 with forced := true }).put O.aoOnFallback 1
    else if n = 4 ∨ n = 7 then c.clockLost
    else if n = 5 ∨ n = 9 then c.setDom n { c.dom n with forced := true, onFallback := true }
    else c

/-- CLOCK_SOURCE_ALIVE at the concentrator. -/
def Conc.clockAlive (c : Conc) (n : Nat) : Conc :=
  let d := c.dom n
  if d.dead then
    let c := c.setDom n { d with dead := false, aliveSince := some c.tick, onFallback := false }
    if n = 4 then [5, 9].foldl (fun (c : Conc) k => c.setDom k { c.dom k with onFallback := (c.dom k).dead }) c else c
  else c

/-- AO_CRYSTAL_RETURN: 1 s after it came alive the crystal drives D0 again. -/
def Conc.crystalReturn (c : Conc) : Conc :=
  match (c.dom 0).aliveSince with
  | some t =>
    if c.get O.aoSource = 0 ∧ (c.dom 0).dead = false ∧ t + secTicks ≤ c.tick then c.put O.aoOnFallback 0 else c
  | none => c

/-- A write of `AoSource`: a dead crystal, or one alive for less than 1 s, keeps the RC (R333, R336). -/
def Conc.writeAoSource (c : Conc) (v : Nat) : Conc :=
  let c := c.put O.aoSource v
  if v = 1 then c.put O.aoOnFallback 1
  else
    let since : Bool := match (c.dom 0).aliveSince with | some t => decide (t + secTicks ≤ c.tick) | none => true
    if (c.dom 0).dead = false ∧ since then c.put O.aoOnFallback 0 else c

/-- AO_TRIM_WINDOW: the error of the trimmed RC in ppm, at most 0.1 percent, while the reference runs (R336).
(DEDUCED, log entry 36) -/
def Conc.aoTrimWindow (c : Conc) (ppm : Int) : Conc :=
  if (c.dom 4).dead then c else c.withPwr fun x => { x with aoTrim := clampInt (-1000) 1000 ppm }

/-- STABILITY_WINDOW at the concentrator (R338): once REFCLK is alive and D7 stable a lost clock is restored, D5 and D9 are back
on REFCLK (R337).  The clusters' clocks D18-D30 have their lock detectors and are not judged. -/
def Conc.stabilityWindow (c : Conc) (n : Nat) (good : Bool) : Conc :=
  if n < 5 ∨ (18 ≤ n ∧ n ≤ 30) ∨ 39 ≤ n ∨ (c.dom 4).dead then c
  else
    let r := (c.dom n).window good
    let c := c.setDom n r.1
    let c := if r.2 then c.faultEvent 0x08 n 0x08 else c
    if c.pwr.state = 6 ∧ n = 7 ∧ (c.dom 7).stable then
      let c := [5, 9].foldl (fun (c : Conc) k => c.setDom k { c.dom k with onFallback := (c.dom k).dead }) c
      ((c.withPwr fun x => { x with wakeStart := some c.tick }).put O.lastWakeCause 5).setPower 5
    else c

/-- The power states in which a domain runs (R330, R343). -/
def Conc.domRuns (c : Conc) (n : Nat) : Bool :=
  let s := c.pwr.state
  let full := s == 3 || s == 4 || (s == 5 && !c.time.onAo)
  if n ≤ 5 ∨ n = 39 then true
  else if n = 6 then s != 6 && c.adc.conv.isSome
  else if n = 9 then s != 1
  else if n = 34 ∨ n = 35 then s != 1 && s != 6
  else if n = 36 then full && !c.gated 7
  else if n = 37 then full && !c.gated 9
  else if n = 38 then full && !c.gated 10
  else if 18 ≤ n ∧ n ≤ 30 then
    full && (let p : ClusterPw := Bank.get {} c.eng.power (n - 18); !p.asleep)
  else full

/-- `ClockDomainStatus` (R349): its default until the boot ladder has left its first step. (DESIGN CHOICE, log entry 1) -/
def Conc.clockStatus (c : Conc) : Nat :=
  if c.boot.step ≤ 1 then 0
  else packEntries 16 ((List.range 40).map fun n =>
    let d := c.dom n
    let fb := if n = 0 then c.get O.aoOnFallback == 1 else d.onFallback
    let run := c.domRuns n && (!d.dead || fb) && !((n == 5 || n == 9) && c.noSource n)
    d.entry run (run && d.stable) fb)

end Sys2Proof.Machine
end

