-- ==== Sys2Proof/Machine/ConcPair.lean ====
section
/-! DEFINITION. Leases as the concentrator holds them (R378, R379, R381) and the pair of concentrators (R375, R376,
R382-R391). -/

namespace Sys2Proof.Machine

def Conc.withPair (c : Conc) (f : Partner → Partner) : Conc := { c with pair := f c.pair }

/-! ## Leases (R378, R379, R381) -/

/-- LEASE_CLAIM (R378). -/
def claimWord (serial p : Nat) : Word := BitVec.ofNat 64 (0x06 * 2 ^ 56 + serial % 2 ^ 40 * 2 ^ 16 + p)

/-- LEASE_RENEW (R378). -/
def renewWord (number : Nat) : Word := BitVec.ofNat 64 (0x05 * 2 ^ 56 + number % 2 ^ 32)

/-- 10 ms in base ticks. -/
def renewTicks : Nat := 937500

/-- The concentrator claims leases: ACTIVE, UNPAIRED or taking over, with its base clock running (R375, R381, R388).
(DEDUCED, log entry 37) -/
def Conc.claims (c : Conc) : Bool :=
  (c.pair.state == 1 || c.pair.state == 7 || c.pair.state == 3) && !c.mute && !c.time.onAo

/-- LEASE_CLAIM_SEND for port `p`: enabled, downlink ALIGNED, not held, due (R381). (DEDUCED, log entry 37) -/
def Conc.claimSend (c : Conc) (p : Nat) : Conc :=
  let x := c.lease p
  if c.claims ∧ p < 48 ∧ bitAt (c.get O.portEnable) p ∧ (c.lane (laneDown p)).st = .aligned ∧ x.status ≠ 2 ∧ x.claimAt ≤ c.tick then
    ((c.setLease p { x with status := 1, claimAt := c.tick + 100 * msTicks }).toFe0 p (claimWord c.sec.serial p)).count O.claims
  else c

/-- LEASE_RENEW_SEND for port `p`: every 10 ms on a leased port (R379).  The renewals before it that no answer has met are
unanswered. (DEDUCED, log entry 37) -/
def Conc.renewSend (c : Conc) (p : Nat) : Conc :=
  let x := c.lease p
  if c.acts p ∧ c.ringHalted = false ∧ x.renewAt ≤ c.tick then
    let c := if x.unanswered ≠ [] then c.count O.renewalsUnanswered else c
    (c.setLease p { x with renewAt := c.tick + renewTicks }).toFe0 p (renewWord x.number)
  else c

/-- What the answer to a claim means for a takeover: since when every claim has been refused (R389). -/
def Conc.takeoverClaim (c : Conc) (refused : Option Nat) : Conc :=
  c.withPair fun x => { x with takeover := x.takeover.map fun t =>
    { t with refusedAt := refused.map fun now => t.refusedAt.getD now } }

/-- A lease is granted (R379, R381): credit withheld is returned, identity is read, latency and marks start anew. -/
def Conc.granted (c : Conc) (p number side : Nat) : Conc :=
  let x := c.lease p
  let base := x.claimSent.getD c.tick
  let c := c.setLease p { x with status := 2, side := side, number := number, base := base, renewAt := base + renewTicks,
                                 unanswered := [], claimSent := none, live := 256 }
  let c := (c.returnWithheld p).portRefresh p
  let c := c.setPtime p { c.ptime p with markSecond := none, redo := true }
  let c := c.takeoverClaim none
  (c.touch.feRequest p 1 0x2000 3 0 0).countChannels

/-- LEASE_ACK for port `p` (R378, R379, R381). (DEDUCED, log entry 37) -/
def Conc.leaseAck (c : Conc) (p : Nat) (w : Word) : Conc :=
  let v := w.toNat
  let number := bits v 55 24
  let left := bits v 19 4
  let side := bits v 3 3
  let x := c.lease p
  match bits v 2 0 with
  | 1 => if x.status = 2 then c else c.granted p number side
  | 2 =>
    match x.unanswered with
    | s :: rest => if x.status = 2 then c.setLease p { x with base := s, unanswered := rest } else c
    | [] => c
  | 0 => c
  | 7 => c
  | _ =>
    if x.status = 2 then c.setLease p { x with unanswered := x.unanswered.drop 1 }
    else
      ((c.setLease p { x with status := if bits v 2 0 = 3 then 3 else 4, claimSent := none,
                              claimAt := c.tick + max left 1 * msTicks }).takeoverClaim (some c.tick)).count O.claimsRefused

/-- What is queued for a front-end and may not be sent any more is dropped (R379). (DEDUCED, log entry 37) -/
def Conc.dropDown (c : Conc) (p : Nat) : Conc :=
  (c.unmark p).updLane (laneDown p) fun l =>
    { l with tx := { l.tx with c0 := [], c1 := [], c3 := [], p1 := [], p3 := [], timed := [] } }

/-- A lease is no longer held: UNLEASED (R172), a discontinuity for the gap flag (R189), relays answered so (R317). -/
def Conc.freeLease (c : Conc) (p : Nat) : Conc :=
  let x := c.lease p
  let c := c.setLease p { x with status := 0, unanswered := [], claimSent := none, claimAt := c.tick }
  let c := c.setGport p (c.gport p).discontinuity
  (((c.dropRelays p).dropDown p).portRefresh p).countChannels

/-- The concentrator loses a lease. -/
def Conc.loseLease (c : Conc) (p : Nat) : Conc := (c.count O.leaseLosses).freeLease p

/-- LOCAL_LEASE_EXPIRY: 45 ms after the last answered renewal. (DEDUCED, log entry 9) -/
def Conc.localExpiry (c : Conc) (p : Nat) : Conc :=
  let x := c.lease p
  if x.status = 2 ∧ x.base + 45 * msTicks < c.tick then c.loseLease p else c

/-- `PortTable` (R393). -/
def Conc.portTable (c : Conc) : Nat :=
  packEntries 128 ((List.range 48).map fun p =>
    let x := c.lease p
    x.serial % 2 ^ 64 + x.status * 2 ^ 64 + x.side * 2 ^ 72 + x.number % 2 ^ 32 * 2 ^ 96)

/-! ## Heartbeats (R384) -/

/-- HEARTBEAT with a state. -/
def Conc.heartbeatWord (c : Conc) (state : Nat) : Word :=
  let gen := if state = 2 then (match c.pair.held with | some k => k.gen | none => 0) else c.pair.gen
  BitVec.ofNat 64 (0x50 * 2 ^ 56 + min c.pair.testFails 255 * 2 ^ 48 + gen % 2 ^ 32 * 2 ^ 16 + c.held * 2 ^ 8
    + b1 (c.get O.partnerRole == 1) * 2 ^ 4 + b1 (decide (0 < c.held)) * 2 ^ 3 + state % 8)

/-- HEARTBEAT_TIME. -/
def Conc.heartbeatTimeWord (c : Conc) : Word :=
  BitVec.ofNat 64 (0x51 * 2 ^ 56 + c.time.state * 2 ^ 48 + c.time.seconds % 2 ^ 48)

/-- A peer lane is ACTIVE: without one there is no heartbeat and no checkpoint transfer (R16). -/
def Conc.peerUp (c : Conc) : Bool := [162, 163].any fun i => decide ((c.lane i).st = .active)

/-- HEARTBEAT_SEND: every 2 ms over a peer lane unless UNPAIRED; the hardware generator of a failed unit sends for 100 ms (R382). -/
def Conc.heartbeatSend (c : Conc) : Conc :=
  let s := c.pair.state
  let runs : Bool := match c.pair.failedUntil with | some t => decide (c.tick < t) | none => s != 5
  if s = 7 ∨ c.get O.partnerRole = 0 ∨ c.ringHalted ∨ runs = false ∨ c.tick < c.pair.hbSent + 2 * msTicks ∨ c.pwr.state = 1 ∨ c.pwr.state = 6
      ∨ c.peerUp = false then c
  else
    let shown := if c.pwr.sleepAt.isSome then 6 else s
    let words := if c.time.onAo ∨ s = 5 then [c.heartbeatWord shown] else [c.heartbeatWord shown, c.heartbeatTimeWord]
    (c.withPair fun x => { x with hbSent := c.tick }).toPartner words

/-- FAILED_HEARTBEAT_END. -/
def Conc.failedHeartbeatEnd (c : Conc) : Conc :=
  match c.pair.failedUntil with
  | some t => if t ≤ c.tick then c.withPair fun x => { x with failedUntil := some 0 } else c
  | none => c

/-- LOCKSTEP_FAILURE (R382): no Ringmaster output leaves, the light and the loops stop, FAILED is sent for 100 ms. -/
def Conc.lockstepFailure (c : Conc) : Conc :=
  if c.pair.state = 5 then c
  else
    let c := (List.range 48).foldl (fun c p => c.dropDown p) c
    let c := [162, 163].foldl (fun (c : Conc) i => c.updLane i fun l => { l with tx := { l.tx with q0 := [], q0At := [], c1 := [], c3 := [], p1 := [], p3 := [] } }) c
    let c := { c with links := { c.links with peerQ := [] } }
    let c := c.withPair fun x => { x with failedUntil := some (c.tick + 100 * msTicks), takeover := none }
    (c.post 0 0 0x24).setPair 5

/-! ## Relinquishing (R391) -/

/-- The unit stops acting: RELINQUISH has been sent, egress stops, the configuration session has ended (R319, R390),
COLD_STANDBY follows 60 ms later. -/
def Conc.relinquished (c : Conc) : Conc :=
  let w := BitVec.ofNat 64 (0x52 * 2 ^ 56 + c.pair.gen % 2 ^ 32 * 2 ^ 16 + c.pair.tag % 2 ^ 16)
  (c.endSession.toPartner [w]).withPair fun x => { x with relinquishAt := some c.tick, tag := x.tag + 1 }

/-- The relinquish procedure starts: the final checkpoint is pushed, for at most 100 ms. (DEDUCED, log entry 38) -/
def Conc.relinquish (c : Conc) : Conc :=
  if c.pair.state = 4 then c
  else (c.withPair fun x => { x with dirtySince := some c.tick, genAt := x.genAt, decideBy := some (c.tick + 100 * msTicks) }).setPair 4

/-- PARTNER_RELINQUISH: ACTIVE only. -/
def Conc.partnerRelinquish (c : Conc) : Res Conc := if c.pair.state = 1 then .ok c.relinquish else .error pairAbort

/-- PARTNER_REQUEST_TAKEOVER: on the standby only. -/
def Conc.partnerRequest (c : Conc) : Res Conc :=
  if c.pair.state = 2 then
    .ok ((c.toPartner [BitVec.ofNat 64 (0x53 * 2 ^ 56 + c.pair.tag % 2 ^ 16)]).withPair fun x => { x with tag := x.tag + 1 })
  else .error pairAbort

/-- TAKEOVER_REQUEST received: the active partner relinquishes. -/
def Conc.takeoverRequest (c : Conc) : Conc := if c.pair.state = 1 then c.relinquish else c

/-- POWER_REQUEST_COLD_STANDBY (R344, R391). -/
def Conc.powerRequestCold (c : Conc) : Res Conc :=
  match c.pair.state with
  | 1 => .ok c.relinquish
  | 7 => .ok c.relinquish
  | 2 => .ok c
  | 4 => .ok c
  | _ => .error pairAbort

/-! ## Checkpoints (R385, R386) -/

/-- What a checkpoint holds. -/
def Conc.checkpoint (c : Conc) (gen : Nat) : Checkpoint :=
  { gen := gen, od := concObjs.foldl (fun d o =>
      if o.persist then (List.range o.count).foldl (fun d i => d.put o (c.get o i) i) d else d) [],
    ports := Bank.mapVals {} (fun _ (x : PortLease) => { serial := x.serial, side := x.side }) c.leases,
    copies := c.dict.copies, times := c.time.ports, incBase := c.time.incBase, incAo := c.time.incAo,
    slots := c.eng.slots.filterMap fun p => p.2.map fun s => (p.1, (s.version, s.measurement)),
    pwHash := c.flash.pwHash.getD 0 }

/-- CHECKPOINT_PUSH, over an ACTIVE peer lane (R16): a complete push with the next generation, within 100 ms of a change or at the end of the period; in the
relinquish procedure the final one, after which the unit stops acting. -/
def Conc.checkpointPush (c : Conc) : Conc :=
  let due := c.pair.dirtySince.isSome || decide (c.pair.genAt + c.get O.checkpointPeriod * secTicks ≤ c.tick)
  if c.peerUp ∧ ((c.pair.state = 1 ∧ due) ∨ (c.pair.state = 4 ∧ c.pair.relinquishAt = none)) then
    let g := (c.pair.gen + 1) % 2 ^ 32
    let c := c.withPair fun x => { x with gen := g, genAt := c.tick, dirtySince := none, pushed := some (c.checkpoint g) }
    let c := c.put O.checkpointGeneration g
    if c.pair.state = 4 then c.relinquished else c
  else c

/-- CHECKPOINT_RECEIVE: a push has ended successfully at the standby.  A format version that is not this firmware's is
refused. (DEDUCED, log entry 38) -/
def Conc.checkpointReceive (c : Conc) (k : Checkpoint) (version : Bool) : Res Conc :=
  if version = false then .error Abort.range
  else .ok ((c.withPair fun x => { x with held := some k, genAt := c.tick }).put O.checkpointGeneration (k.gen % 2 ^ 32))

/-! ## Takeover (R387-R389) -/

/-- A takeover starts on a cause: 1 heartbeat lost, 2 relinquish, 3 partner FAILED, 4 forced.  The wake begins. -/
def Conc.takeoverStart (c : Conc) (cause : Nat) : Conc :=
  if c.pair.state ≠ 2 then c
  else
    let c := c.withPair fun x => { x with takeover := some { start := c.tick, cause := cause } }
    ((c.withPwr fun x => { x with wakeStart := some c.tick, target := none }).setPair 3).setPower 5

/-- PARTNER_FORCE_TAKEOVER: on the standby only. -/
def Conc.partnerForce (c : Conc) : Res Conc := if c.pair.state = 2 then .ok (c.takeoverStart 4) else .error pairAbort

/-- RELINQUISH received (R387). -/
def Conc.relinquishReceived (c : Conc) : Conc := c.takeoverStart 2

/-- HEARTBEAT_LOSS: 60 ms without one; one in the clock of the expiry counts as arrived (R384, R387). -/
def Conc.heartbeatLoss (c : Conc) : Conc :=
  match c.pair.hbLast with
  | none => c
  | some t =>
    if c.pair.hbLost ∨ c.tick ≤ t + 60 * msTicks ∨ c.pair.state = 7 then c
    else
      let c := (c.withPair fun x => { x with hbLost := true }).post 0 0 0x25
      if c.pair.state = 2 ∧ c.get O.autoFailover = 1 ∧ c.pair.hbState ≠ 6 ∧ c.pair.hbState ≠ 2 ∧ c.pair.partnerLost = false then
        c.takeoverStart 1
      else c

/-- The unit that yields in a role conflict: role 2, or with equal roles the higher serial number; `other` is the partner's
serial number (R376). (DEDUCED, log entry 38) -/
def Conc.yields (c : Conc) (role1 : Bool) (other : Nat) : Bool :=
  let mine := c.get O.partnerRole
  if mine = 2 ∧ role1 then true
  else if mine = 1 ∧ role1 = false then false
  else decide (other < c.sec.serial)

/-- HEARTBEAT received: `other` is the partner's serial number. -/
def Conc.heartbeat (c : Conc) (w : Word) (other : Nat) : Conc :=
  let v := w.toNat
  let state := bits v 2 0
  let lost := c.pair.partnerLost
  let waits : Bool := match c.pair.decideBy with | some t => decide (c.tick ≤ t) | none => false
  let c := c.withPair fun x => { x with hbLast := some c.tick, hbState := state, hbGen := bits v 47 16, hbHealth := bits v 55 48,
                                        hbPorts := bits v 15 8, hbRole := bitAt v 4, hbLost := false, partnerLost := false }
  let c := if lost then c.put O.partnerLost 0 else c
  if c.pair.state = 1 ∧ state = 1 then
    let c := c.post 0 0 0x27
    if c.yields (bitAt v 4) other then c.relinquish else c
  else if c.pair.state = 2 ∧ state = 5 then c.takeoverStart 3
  else if c.pair.state = 2 ∧ state = 6 then
    ((c.withPwr fun x => { x with target := some 2 }).parkAll (List.range 164)).fallAsleep
  else if c.pair.state = 0 ∧ (state = 0 ∨ state = 1 ∨ state = 3) ∧ waits then
    (c.withPair fun x => { x with decideBy := none }).enterCold
  else c

/-- HEARTBEAT_TIME received: while the counter runs on the AO clock its seconds are kept, with the AO tick in which it came
(R383). -/
def Conc.heartbeatTime (c : Conc) (w : Word) : Conc :=
  if c.time.onAo then c.withPair fun x => { x with timeSeconds := some (w.toNat % 2 ^ 48, c.ao) } else c

/-- The alignment that a takeover arms (R387). -/
def Conc.armTakeover (c : Conc) : Conc :=
  if c.get O.failoverAlign = 1 then
    let s := match c.pair.timeSeconds with
      | some (s, t) => s + nearest (c.ao - t) 32768
      | none => c.get O.alignSeconds
    ((c.put O.alignSeconds (s % 2 ^ 48)).withTime fun t => { t with armed := some c.tick }).put O.alignArm 1
  else c

/-- TAKEOVER_CLAIM_TIMEOUT: 2 s with every claim refused (R389). (DEDUCED, log entry 38) -/
def Conc.takeoverClaimTimeout (c : Conc) : Conc :=
  match c.pair.takeover with
  | none => c
  | some t =>
    let refused : Bool := match t.refusedAt with | some r => decide (r + 2 * secTicks ≤ c.tick) | none => false
    if c.pair.state = 3 ∧ c.held = 0 ∧ refused then
      let c := c.enterCold.withPair fun x => { x with partnerLost := true, takeover := none }
      c.put O.partnerLost 1
    else c

/-- The role is decided at the lease-claim step (R375): role 2 stays on standby while a partner leads. -/
def Conc.roleDecision (c : Conc) : Conc :=
  match c.pair.decideBy with
  | none => c
  | some t =>
    if c.pair.state = 0 ∧ t ≤ c.tick then (c.withPair fun x => { x with decideBy := none }).setPair c.activePair else c

/-- STANDBY_SELF_TEST_STEP: the next SRAM macro or logic slice of the rolling self-test, of 3,072 macros, 104 engines and 13
clusters (R383, R355). -/
def selfTestUnits : Nat := 3072 + 104 + 13
def selfTestUnit (n : Nat) : Nat × Nat :=
  if n < 3072 then (0x07, n) else if n < 3176 then (0x03, n - 3072) else (0x04, n - 3176)

/-- A cycle of the rolling self-test begins not before `SelfTestCycle` hours after the one before it (R383).
(DEDUCED, log entry 38) -/
def Conc.selfTestWaits (c : Conc) : Bool :=
  c.pair.selfTest == 0 &&
    match c.pair.selfTestAt with | some t => decide (c.tick < t + c.get O.selfTestCycle * 3600 * secTicks) | none => false

def Conc.selfTestStep (c : Conc) (pass : Bool) : Conc :=
  if c.pair.state ≠ 2 ∨ c.selfTestWaits then c
  else
    let n := c.pair.selfTest
    let c := if n = 0 then c.withPair fun x => { x with selfTestAt := some c.tick } else c
    let u := selfTestUnit n
    let c := if pass ∨ (c.health u.1 u.2).st = .retired then c
      else ((c.testFailed u.1 u.2).count O.selfTestFailures).withPair fun x => { x with testFails := x.testFails + 1 }
    let done := decide (selfTestUnits ≤ n + 1)
    let c := c.withPair fun x => { x with selfTest := if done then 0 else n + 1 }
    let c := if done then c.count O.selfTestCycles else c
    c.put O.selfTestProgress (nearest ((n + 1) * 100) selfTestUnits)

/-- The relinquish procedure goes on: after 100 ms without a finished push it goes on without one, and 60 ms after RELINQUISH
the unit enters COLD_STANDBY. (DEDUCED, log entry 38) -/
def Conc.relinquishDue (c : Conc) : Conc :=
  if c.pair.state ≠ 4 then c
  else match c.pair.relinquishAt with
    | some t => if t + 60 * msTicks ≤ c.tick then ((List.range 48).foldl (fun c p => c.localExpiry p) c).enterCold else c
    | none => match c.pair.decideBy with
      | some t => if t ≤ c.tick then (c.withPair fun x => { x with decideBy := none }).relinquished else c
      | none => c

/-! ## Status (R393) -/

def Conc.heartbeatAge (c : Conc) : Nat := match c.pair.hbLast with | none => 0xFFFF | some t => min (nearest (c.tick - t) msTicks) 65535
def Conc.checkpointAge (c : Conc) : Nat := if c.get O.checkpointGeneration = 0 then 0 else nearest (c.tick - c.pair.genAt) secTicks % 2 ^ 32

end Sys2Proof.Machine
end

