-- ==== Sys2Proof/Machine/ConcBoot.lean ====
section
/-! DEFINITION. Resets of the concentrator and what survives them (R460-R468, R490), the warm-up (R470), probes (R495-R499), the
test access port and the debug module (R500-R502). -/

namespace Sys2Proof.Machine

def Conc.withBoot (c : Conc) (f : Boot → Boot) : Conc := { c with boot := f c.boot }

/-! ## Reset (R462, R463) -/

/-- What flash, fuses and OTP keep of security; scopes are locked and a new challenge is drawn (R405).
(DEDUCED, log entry 48) -/
def Sec.kept (s : Sec) : Sec :=
  { s.redraw with unlocked := 0, attest := none, attestReady := false, report := 0 }

/-- Fault accounting as a reset leaves it: reloaded from the repair record (R354). -/
def Conc.reloaded (c : Conc) (due : Nat) : Faults :=
  let r := c.flash.repair
  { health := r.health, rows := r.rows, decDue := due, macroSpares := r.spares, spareRowsUsed := c.faults.spareRowsUsed,
    retiredFrames := r.frames }

/-- The lanes and quads that the repair record holds as RETIRED stay out of service. -/
def Conc.retiredLanes (c : Conc) : Conc :=
  c.faults.health.foldl (fun (c : Conc) p =>
    if p.2.st = .retired ∧ p.1 / 2 ^ 24 = 1 then c.updLane (p.1 % 2 ^ 24) fun l => { l with st := .retired }
    else if p.2.st = .retired ∧ p.1 / 2 ^ 24 = 2 then c.setQuad (p.1 % 2 ^ 24) { c.quad (p.1 % 2 ^ 24) with retired := true }
    else c) c

/-- The power-up pass applies the copy of the repair record that is valid (R354): the newer, else the older, else none.
(DEDUCED, log entry 39) -/
def Conc.reloadRepair (c : Conc) (newerBad olderBad : Bool) : Conc :=
  if newerBad = false then c
  else
    let r : RepairRecord := if olderBad then {} else c.flash.repairOld
    let c : Conc := { c with flash := { c.flash with repair := r, repairOld := r },
                             faults := { c.faults with health := r.health, rows := r.rows, macroSpares := r.spares, retiredFrames := r.frames } }
    let c := (List.range 164).foldl (fun (c : Conc) i => c.updLane i fun l => if l.st = .retired then { l with st := .disabled } else l) c
    ((List.range 41).foldl (fun (c : Conc) q => c.setQuad q { c.quad q with retired := false }) c).retiredLanes

/-- The concentrator as a reset leaves it, before what its level keeps. -/
def Conc.fresh (c : Conc) (cause due : Nat) : Conc :=
  let od := (Od.put [] O.resetCause cause).put O.resetCount c.flash.resetCount
  let d : Conc := { tick := c.tick, od := od, free := c.free, flash := c.flash, sec := c.sec.kept, faults := c.reloaded due }
  (d.retiredLanes).withBoot fun b => { b with resetTick := c.tick, wdLast := c.tick }

/-- What a system reset keeps of CAN: the pins, and the node ID and bit rates in force (R471). -/
def Can.kept (x : Can) : Can := { nodePins := x.nodePins, nodeId := x.nodeId, arbitration := x.arbitration, dataRate := x.dataRate }

/-- The node ID that the pins give (R312). (DEDUCED, log entry 39) -/
def pinNode (pins : Nat) : Nat := if pins % 128 = 0 then 127 else pins % 128

/-- A power-on reset: the always-on domain too, so time starts anew (R463).  D0 starts in step 2 of the ladder (R469).  `held` says that it
lasts; so does one that finds RST_N low. (DEDUCED, log entry 39) -/
def Conc.powerOn (c : Conc) (held : Bool) : Conc :=
  let d := c.fresh 1 (aoOf c.tick + 19660800)
  let low : Option Nat := c.boot.rstLowSince.map fun _ => c.tick
  let d := d.withBoot fun b => { b with inReset := held || low.isSome, rstLowSince := low }
  let d := d.setDom 0 { aliveSince := some c.tick }
  let pins := c.dict.can.nodePins
  { d with gather := { d.gather with secs := [(0, ((c.tick * 8192 : Nat), d.time.incBase))] },
           time := { d.time with onAo := true, aoThisSecond := true },
           dict := { d.dict with can := { nodePins := pins, nodeId := pinNode pins } },
           safety := { bundle := c.safety.bundle, light := c.safety.light, inputs := c.safety.inputs,
                       feedback := c.safety.feedback,
                       dark := ({ c.safety with dark := false } : Safety).darkNow } }

/-- The time base as a system reset leaves it: counter, state and increments in use stay, an arm is cleared; the base clock
stops, unplanned unless the reset was commanded (R150, R463). (DEDUCED, log entry 19) -/
def TimeBase.kept (t : TimeBase) (planned : Bool) : TimeBase :=
  { seconds := t.seconds, acc := t.acc, incBase := t.incBase, incAo := t.incAo, changed := t.changed,
    hand := (t.toAo planned).hand, onAo := true, aoThisSecond := t.aoThisSecond, crossTick := t.crossTick,
    crossBeyond := t.crossBeyond, crossAo := t.crossAo, gap := t.gap || (!planned && !t.onAo), state := t.state, windowTaken := t.windowTaken,
    windowDone := t.windowDone, rejections := t.rejections, displaced := t.displaced, lastPps := t.lastPps, owed := t.owed,
    load := none }

/-- A system reset: everything but the always-on domain (R463). (DEDUCED, log entry 19; DEDUCED, log entry 39) -/
def Conc.systemReset (c : Conc) (cause : Nat) (held : Bool) : Conc :=
  let t := c.time.kept (decide (cause = 6 ∨ cause = 7))
  let d := c.fresh cause c.faults.decDue
  let off := !c.boot.supplyOk || c.boot.overTemp
  let d := d.withBoot fun b => { b with inReset := held || off, supplyOk := c.boot.supplyOk, overTemp := c.boot.overTemp,
                                        rstLowSince := c.boot.rstLowSince, rstStuck := c.boot.rstStuck, rstHighSince := c.boot.rstHighSince }
  let keep : List Obj := [O.rstStuckRelease, O.rstStuckEvents, O.watchdogResets, O.aoOnFallback, O.timeStateCode]
  let d := keep.foldl (fun (d : Conc) o => d.put o (c.get o)) d
  let d := ((d.put O.incrementBase t.incBase).put O.incrementAo t.incAo).put O.incrementInUse t.incBase
  let d := (d.setDom 0 (c.dom 0)).withPwr fun x => { x with aoTrim := c.pwr.aoTrim }
  let d : Conc := { d with time := t, gather := { d.gather with secs := c.gather.secs }, safety := c.safety,
                           tap := { d.tap with instr := c.tap.instr },
                           dict := { d.dict with can := c.dict.can.kept } }
  d.safetySet fun s => { s with request := 0 }

/-- BROWN_OUT: supply below 4.2 V for 2 us; the part is held in a power-on reset. -/
def Conc.brownOut (c : Conc) : Conc :=
  (c.powerOn true).withBoot fun b => { b with supplyOk := false, overTemp := c.boot.overTemp }

/-- SUPPLY_RELEASE: above 4.4 V; a part that is too hot stays in reset (R490). -/
def Conc.supplyRelease (c : Conc) : Conc :=
  if c.boot.supplyOk then c
  else if c.boot.overTemp then c.withBoot fun b => { b with supplyOk := true }
  else c.powerOn false

/-- RST_N_ASSERT: low for `us` microseconds (R464): below 1 us ignored, from 10 us on a reset, between either. -/
def Conc.rstAssert (c : Conc) (us : Nat) : Conc :=
  if c.boot.rstStuck then c.withBoot fun b => { b with rstHighSince := none }
  else if us < 1 then c
  else if us < 10 then
    let d := c.drawBool
    if d.1 then d.2.systemReset 2 false else d.2
  else (c.systemReset 2 true).withBoot fun b => { b with rstLowSince := some (c.tick - us * 3000 / 32) }

/-- RST_N_RELEASE: sampled high. (DEDUCED, log entry 39) -/
def Conc.rstRelease (c : Conc) : Conc :=
  if c.boot.rstStuck then c.withBoot fun b => { b with rstHighSince := some (b.rstHighSince.getD c.tick) }
  else match c.boot.rstLowSince with
    | none => c
    | some _ => (c.systemReset 2 false).withBoot fun b => { b with rstLowSince := none }

/-- RST_N_STUCK: low for more than 5 s (R465); a rise in the AO tick of the limit counts as arrived (R473). -/
def Conc.rstStuck (c : Conc) : Conc :=
  match c.boot.rstLowSince with
  | none => c
  | some t =>
    if c.get O.rstStuckRelease = 1 ∧ aoOf (t + 5 * secTicks) < c.ao then
      let c := (c.systemReset 3 false).withBoot fun b => { b with rstLowSince := none, rstStuck := true, rstHighSince := none }
      (c.count O.rstStuckEvents).post 0 0 0x2B
    else c

/-- RST_N_STUCK_REARM: high without a break for 100 ms. -/
def Conc.rstRearm (c : Conc) : Conc :=
  match c.boot.rstHighSince with
  | none => c
  | some t =>
    if c.boot.rstStuck ∧ t + 100 * msTicks ≤ c.tick then c.withBoot fun b => { b with rstStuck := false, rstHighSince := none }
    else c

/-- RESET_COMMAND: 10 ms after the response (R466). -/
def Conc.resetCommand (c : Conc) : Conc := c.withBoot fun b => { b with resetDue := some (c.tick + 10 * msTicks) }

/-- SOFTWARE_RESET_DUE. -/
def Conc.resetDue (c : Conc) : Conc :=
  match c.boot.resetDue with
  | none => c
  | some t => if t ≤ c.tick then c.systemReset 7 false else c

/-! ## Watchdogs (R467, R468) -/

/-- WATCHDOG_RESTART: a Ringmaster output; a failed pair makes none. -/
def Conc.watchdogRestart (c : Conc) : Conc :=
  if c.pair.state = 5 ∨ c.ringHalted then c
  else c.withBoot fun b => { b with wdLast := c.tick, wdPeriod := c.get O.watchdogPeriod }

/-- WATCHDOG_EXPIRY: no restart for the period; not before the FAILED heartbeats have been sent; it pauses in a debugger's
halt while the Ringmaster's scope is open, and while the Ringmaster's clock does not run. (DEDUCED, log entry 36) -/
def Conc.watchdogExpiry (c : Conc) : Conc :=
  let failed : Bool := match c.pair.failedUntil with | some t => decide (t ≤ c.tick) | none => true
  let pauses := c.ringHalted && bitAt c.sec.unlocked 1 || c.ringAsleep
  if pauses = false ∧ failed ∧ c.boot.wdLast + c.boot.wdPeriod * msTicks < c.tick then
    (c.systemReset 4 false).count O.watchdogResets
  else c

/-- BOOT_WATCHDOG_EXPIRY: 60 s without STANDBY; a part that reaches it in the tick of expiry is in time (R145). -/
def Conc.bootWatchdog (c : Conc) : Conc :=
  match c.boot.bootSince with
  | none => c
  | some t => if t + 60 * secTicks < c.tick then (c.systemReset 5 false).count O.watchdogResets else c

/-! ## Warm-up (R470) and die temperature (R490) -/

/-- `BootStep`. -/
def Conc.setStep (c : Conc) (n : Nat) : Conc := (c.withBoot fun b => { b with step := n }).put O.bootStep n

/-- An HBM sensor reads below 0 degrees at step 5. -/
def Conc.warmup (c : Conc) : Conc :=
  (c.withBoot fun b => { b with warmSince := some c.tick, warmPosted := false, bootSince := none }).setStep 0x80

/-- WARMUP_COMPLETE: both sensors read 0 degrees or more; the boot goes on at step 6. -/
def Conc.warmupDone (c : Conc) : Conc :=
  match c.boot.warmSince with
  | none => c
  | some t =>
    ((c.withBoot fun b => { b with warmSince := none, bootSince := some c.tick }).put O.warmupTime (nearest (c.tick - t) secTicks % 2 ^ 32)).setStep 6

/-- WARMUP_LIMIT: 600 s. -/
def Conc.warmupLimit (c : Conc) : Conc :=
  match c.boot.warmSince with
  | none => c
  | some t =>
    if c.boot.warmPosted = false ∧ t + 600 * secTicks ≤ c.tick then
      (c.withBoot fun b => { b with warmPosted := true }).post 0 0 0x2E
    else c

/-- DIE_OVERTEMP_WARNING at a die temperature in thousandths of a degree: again every 10 s. -/
def Conc.overTempWarning (c : Conc) (milliC : Int) : Conc :=
  if 110000 < milliC then
    let due : Bool := match c.boot.warnedAt with | some t => decide (t + 10 * secTicks ≤ c.tick) | none => true
    if due then (c.withBoot fun b => { b with warnedAt := some c.tick }).post 0 0 0x2C 0 (ofSigned 32 milliC) else c
  else c.withBoot fun b => { b with warnedAt := none }

/-- DIE_OVERTEMP_SHUTDOWN. -/
def Conc.overTempShutdown (c : Conc) (milliC : Int) : Conc :=
  if 125000 < milliC then (c.powerOn true).withBoot fun b => { b with overTemp := true, supplyOk := c.boot.supplyOk } else c

/-- DIE_OVERTEMP_RECOVERY. -/
def Conc.overTempRecovery (c : Conc) (milliC : Int) : Conc :=
  if c.boot.overTemp ∧ milliC < 115000 then
    if c.boot.supplyOk then c.powerOn false else c.withBoot fun b => { b with overTemp := false }
  else c

/-! ## Probes (R495, R496, R499) -/

/-- What the catalogue says of a number: `none` reserved; whether it is a clock and its frequency in kHz; the debug scope it
needs. -/
structure ProbeSig where
  khz : Option Nat := none
  scope : Option Nat := none
  deriving DecidableEq, Repr

def Conc.probeSig (c : Conc) (s : Nat) : Option ProbeSig :=
  if s < 40 then some { khz := some (nearest ((c.nominal s).getD 25000000) 1000) }
  else if 0x100 ≤ s ∧ s < 0x100 + 4 * 164 then some (if s % 4 = 0 then { khz := some 93750 } else {})
  else if 0x400 ≤ s ∧ s ≤ 0x408 then some {}
  else if 0x500 ≤ s ∧ s < 0x530 then some {}
  else if 0x540 ≤ s ∧ s ≤ 0x543 then some {}
  else if 0x800 ≤ s ∧ s < 0x800 + 8 * 104 then some { scope := some 0 }
  else if 0xC00 ≤ s ∧ s ≤ 0xC02 then some { scope := some 1 }
  else if 0xD00 ≤ s ∧ s ≤ 0xD11 then some {}
  else if 0xD20 ≤ s ∧ s < 0xD40 then some {}
  else if 0xE00 ≤ s ∧ s ≤ 0xE06 then some {}
  else none

/-- Why an entry is refused, if it is. -/
def Conc.probeBad (c : Conc) (v : Nat) : Option Abort :=
  match c.probeSig (bits v 11 0) with
  | none => some Abort.range
  | some x =>
    let k := bits v 15 12
    let fast : Bool := match x.khz with | none => decide (k ≠ 0) | some f => decide (375000 * 2 ^ k < f)
    let shut : Bool := match x.scope with | none => false | some b => !bitAt c.sec.unlocked b
    if fast then some Abort.range else if shut then some Abort.control else none

/-- Who holds the ball of PROBE `p` (R323, R454). -/
def Conc.ballOwner (c : Conc) (p : Nat) : Option Abort :=
  if p < 4 then none
  else
    let n := p + 8
    let net : Bool := match c.safety.bundle with | some b => b.led == n | none => false
    if net then some safetyAbort
    else if ledMode (c.get O.ledChannel) n ≠ 0 then some (Abort.owned (ownerCode 0x07 n))
    else none

/-- PROBE_SELECT_WRITE at the concentrator: a refused entry refuses the write. (DEDUCED, log entry 35) -/
def Conc.writeProbes (c : Conc) (v : Nat) : Res Conc :=
  if c.gated 7 then .error gateAbort
  else
    let mask := rep 8 4 0x3FFFF
    let v := andBits v mask
    match (List.range 8).findSome? fun p => c.probeBad (entryGet 32 v p) with
    | some a => .error a
    | none =>
      match (List.range 8).findSome? fun p => if bitAt (entryGet 32 v p) 16 && !c.probeOn p then c.ballOwner p else none with
      | some a => .error a
      | none => .ok (c.put O.probeSelect v)

/-- `ProbeStatus`. -/
def Conc.probeStatus (c : Conc) : Nat := (List.range 8).foldl (fun n p => setBit n p (c.probeOn p)) 0

/-- Scopes were relocked: the entries that depend on them are disabled (R496). -/
def Conc.closeProbes (c : Conc) : Conc :=
  (List.range 8).foldl (fun (c : Conc) p =>
    let e := entryGet 32 (c.get O.probeSelect) p
    let shut : Bool := match c.probeSig (bits e 11 0) with
      | some { scope := some b, .. } => !bitAt c.sec.unlocked b
      | _ => false
    if shut then c.put O.probeSelect (entrySet 32 (c.get O.probeSelect) p (setBit e 16 false)) else c) c

/-- DEBUG_LOCK: every scope and its probes.  A hart that a debugger has halted stays so. (DEDUCED, log entry 32) -/
def Conc.relock (c : Conc) (v : Nat) : Conc := (c.debugLock v).closeProbes

/-! ## The test access port (R500, R501) -/

/-- The instruction that a code in the instruction register gives; reserved codes act as BYPASS. -/
def Conc.tapCode (c : Conc) (code : Nat) : Nat :=
  let scan := code == 0 || code == 3 || code == 4
  if scan then (if c.get O.scanEnable = 1 then code else 31)
  else if code = 1 ∨ code = 2 ∨ code = 16 ∨ code = 17 ∨ code = 18 then code
  else 31

/-- An instruction under which the part's outputs yield to the boundary register. -/
def tapScan (instr : Nat) : Bool := instr == 0 || instr == 3 || instr == 4

/-- The instruction in force: what the register's code means under `ScanEnable` as it stands. -/
def Conc.tapNow (c : Conc) : Nat := c.tapCode c.tap.instr

/-- TAP_INSTRUCTION_UPDATE at the concentrator; a TAP reset is code 1, IDCODE. (DEDUCED, log entry 32) -/
def Conc.tapInstruction (c : Conc) (code : Nat) : Conc :=
  let d : Conc := { c with tap := { c.tap with instr := code % 32 } }
  if tapScan c.tapNow ∧ d.tapNow ≠ c.tapNow then d.systemReset 2 false else d

/-- The same at the front-end, where the scan instructions always take effect and 16 to 18 are BYPASS.
(DEDUCED, log entry 32) -/
def Fe.tapInstruction (f : Fe) (code : Nat) : Fe :=
  let k := code % 32
  let new := if k ≤ 4 then k else 31
  let old := f.sys.tap
  let f := f.withSys fun y => { y with tap := new }
  if tapScan old ∧ new ≠ old then (f.systemReset 2 false).withSys fun y => { y with tap := new } else f

/-- What Capture-DR loads at either part, with the part's code and revision (R500): IDCODE, the 32 bits of dtmcs (version 1, abits 7,
the status of the last access), the last answer of dmi, else the bypass bit. (DEDUCED, log entry 32) -/
def tapCapture (part revision instr op data : Nat) : Nat :=
  match instr with
  | 1 => revision % 16 * 2 ^ 28 + part * 2 ^ 12 + 0x4D5 * 2 + 1
  | 16 => 0x71 + op % 4 * 2 ^ 10
  | 17 => op % 4 + data % 2 ^ 32 * 4
  | _ => 0

def Conc.tapDr (c : Conc) : Nat := tapCapture 0xC096 Config.revision c.tapNow c.tap.op c.tap.data
def Fe.tapDr (f : Fe) : Nat := tapCapture 0xF256 Config.feRevision f.sys.tap 0 0

/-- TAP_TOKEN_UPDATE: with TOKEN in force, Update-DR is a write of `DebugToken` (R500). -/
def Conc.tapToken (c : Conc) (bs : List Nat) : Conc := if c.tapNow = 18 then (c.debugToken bs).2 else c

/-! ## The debug module (R502) -/

/-- The scope of a hart is open. (DEDUCED, log entry 32) -/
def Conc.hartOpen (c : Conc) (h : Nat) : Bool :=
  if h < 384 then bitAt c.sec.unlocked 0 else if h = 384 then bitAt c.sec.unlocked 1 else false

/-- The hart that `dmcontrol` selects. -/
def Conc.hartSel (c : Conc) : Nat := let v := Bank.get 0 c.tap.dm 0x10; bits v 25 16 + bits v 15 6 * 1024

/-- `dmstatus`: version 2, authenticated, and the selected hart's state. -/
def Conc.dmStatus (c : Conc) : Nat :=
  let h := c.hartSel
  let halted := c.tap.halted.contains h
  let missing := decide (384 < h)
  let two (b : Bool) (n : Nat) : Nat := if b then 3 * 2 ^ n else 0
  2 + 0x80 + two halted 8 + two (!halted && !missing) 10 + two missing 14

/-- What a read of a debug-module register gives. -/
def Conc.dmRead (c : Conc) (addr : Nat) : Nat :=
  match addr with
  | 0x11 => c.dmStatus
  | 0x16 => 2 + Bank.get 0 c.tap.dm 0x16 * 256
  | a => Bank.get 0 c.tap.dm a

def Conc.setDm (c : Conc) (a v : Nat) : Conc := { c with tap := { c.tap with dm := Bank.set 0 c.tap.dm a v } }

/-- A write of `dmcontrol`: with `dmactive` 0 the module is reset; else the selected hart is halted or resumed. -/
def Conc.dmControl (c : Conc) (v : Nat) : Conc :=
  if bitAt v 0 = false then { c with tap := { c.tap with dm := [], halted := [] } }
  else
    let c := c.setDm 0x10 (andBits v 0x07FFFFC1)
    let h := c.hartSel
    if c.hartOpen h = false then c
    else if bitAt v 31 then { c with tap := { c.tap with halted := if c.tap.halted.contains h then c.tap.halted else h :: c.tap.halted } }
    else if bitAt v 30 then { c with tap := { c.tap with halted := c.tap.halted.filter (· ≠ h) } }
    else c

/-- An abstract command: access to a register of a halted engine context; anything else ends with `cmderr` 2, and a running hart
gives `cmderr` 4. -/
def Conc.dmCommand (c : Conc) (v : Nat) : Conc :=
  if Bank.get 0 c.tap.dm 0x16 ≠ 0 then c
  else
    let h := c.hartSel
    let r := bits v 15 0
    let size := bits v 22 20
    let err (n : Nat) : Conc := c.setDm 0x16 n
    if bits v 31 24 ≠ 0 ∨ 384 ≤ h ∨ (size ≠ 2 ∧ size ≠ 3) then err 2
    else if c.tap.halted.contains h = false then err 4
    else if bitAt v 17 = false then c
    else if (0x1000 ≤ r ∧ r < 0x1020) ∨ r = 0x7B1 then
      let x := c.ctx h
      let data := Bank.get 0 c.tap.dm 4 + Bank.get 0 c.tap.dm 5 * 2 ^ 32
      if bitAt v 16 then
        let w := if size = 2 then data % 2 ^ 32 else data
        c.setCtx h (if r = 0x7B1 then { x with pc := w } else x.setReg (r - 0x1000) w)
      else
        let w := if r = 0x7B1 then x.pc else x.reg (r - 0x1000)
        let c := c.setDm 4 (w % 2 ^ 32)
        if size = 3 then c.setDm 5 (w / 2 ^ 32 % 2 ^ 32) else c
    else err 2

def Conc.dmWrite (c : Conc) (addr v : Nat) : Conc :=
  match addr with
  | 0x10 => c.dmControl v
  | 0x11 => c
  | 0x16 => if bits v 10 8 = 0 then c else c.setDm 0x16 0
  | 0x17 => c.dmCommand v
  | 4 => c.setDm 4 v
  | 5 => c.setDm 5 v
  | _ => c

/-- DMI_ACCESS: `op` 1 reads, 2 writes; the answer's status and data stand in the TAP.  A locked scope, or a gated module,
answers status 2 and reads zero. (DEDUCED, log entry 32) -/
def Conc.dmi (c : Conc) (op addr v : Nat) : Conc :=
  let answer (c : Conc) (s d : Nat) : Conc := { c with tap := { c.tap with op := s, data := d } }
  let h := if op = 2 ∧ addr % 128 = 0x10 then bits v 25 16 + bits v 15 6 * 1024 else c.hartSel
  if c.gated 8 ∨ c.sec.unlocked = 0 ∨ (h ≤ 384 ∧ c.hartOpen h = false) then answer c 2 0
  else if op = 1 then answer c 0 (c.dmRead (addr % 128))
  else if op = 2 then answer (c.dmWrite (addr % 128) (v % 2 ^ 32)) 0 0
  else answer c 0 0

end Sys2Proof.Machine
end

