-- ==== Sys2Proof/Machine/ConcRead.lean ====
section
/-! DEFINITION. What a read of each object of the concentrator returns (R300) and what it does besides: latches, peaks and
read-to-clear bits (R171, R190, R212, R265, R290, R350, R427). -/

namespace Sys2Proof.Machine

/-! ## Values, chapter by chapter; an object that no line names holds what stands in the dictionary -/

/-- Lanes (0x23xx, R119) and the time base (0x22xx, R171). -/
def Conc.readTime (c : Conc) (o : Obj) (i : Nat) : Nat :=
  match o.index, o.sub with
  | 0x2300, _ => c.laneStates
  | 0x2305, _ => c.prbsLockedBits
  | 0x2307, _ => c.trainResults
  | 0x2308, _ => c.quadStates
  | 0x2309, _ => c.backEndMapVal
  | 0x2200, 1 => c.time.value.1
  | 0x2200, 2 => c.time.latch.1
  | 0x2200, 3 => c.time.latch.2
  | 0x2202, 2 => c.timeFlags
  | 0x2203, 1 => c.time.capture.1
  | 0x2203, 2 => c.time.captureLatch.1
  | 0x2203, 3 => c.time.captureLatch.2.1
  | 0x2203, 4 => c.time.captureLatch.2.2
  | 0x2207, _ => c.portLatencies
  | _, _ => c.get o i

/-- The Gather (0x2500-0x2507, R190). -/
def Conc.readGather (c : Conc) (o : Obj) (i : Nat) : Nat :=
  match o.index, o.sub with
  | 0x2501, _ => c.portStates
  | 0x2503, 1 => c.gather.h
  | 0x2503, 2 => c.gather.holder
  | 0x2503, 3 => c.gather.store.length
  | 0x2503, 4 => c.gather.peak
  | 0x2506, 3 => c.gather.sliceNumber - 1
  | 0x2507, _ => c.channelRates
  | _, _ => c.get o i

/-- `CarouselState`. -/
def Carousel.code (x : Carousel) : Nat := if x.running then (if x.lapped then 2 else 1) else 0

/-- The Carousel and the trigger queue (0x2510-0x251A, R212). -/
def Conc.readCarousel (c : Conc) (o : Obj) (i : Nat) : Nat :=
  let x := c.caro
  match o.index, o.sub with
  | 0x2511, 1 => x.code
  | 0x2511, 2 => x.tail
  | 0x2511, 3 => x.latch.2.1
  | 0x2511, 4 => x.latch.2.2
  | 0x2511, 5 => min (x.wr / x.ringWords) (2 ^ 32 - 1)
  | 0x2511, 6 => x.percent x.use
  | 0x2511, 7 => x.percent x.usePeak
  | 0x2515, 1 => x.queue.length
  | 0x2515, 2 => (x.queue.filter fun e => e.tier = 0).length
  | 0x2515, 3 => x.queuePeak
  | 0x2515, 4 => x.nextTrigger
  | 0x2516, 3 => x.kB
  | 0x2516, 4 => x.kC
  | 0x251A, 1 => x.dir.length
  | _, _ => c.get o i

/-- Engines and tasks (0x26xx, R236). -/
def Conc.readEngines (c : Conc) (o : Obj) (i : Nat) : Nat :=
  match o.index, o.sub with
  | 0x2600, _ => c.engineMap
  | 0x2601, _ => c.clusterMap
  | 0x2602, 2 => c.clusterAwake
  | 0x2605, _ => c.taskSlots
  | 0x2608, _ => c.instanceStates
  | 0x2609, _ => c.instanceFaults
  | 0x260C, _ => c.engineCycles
  | _, _ => c.get o i

/-- Memory, movers, ECC, Marver, egress (0x27xx-0x29xx, R265, R280, R297).  The slots granted to each requester of HBM follow
from timing that is outside the model: free values. (DESIGN CHOICE, log entry 47) -/
def Conc.readMemory (c : Conc) (o : Obj) (i : Nat) : Nat :=
  match o.index, o.sub with
  | 0x2700, 2 => c.caro.regionGiB
  | 0x2700, 3 => c.taskPoolGiB
  | 0x2700, 4 => c.taskPoolFree
  | 0x2700, 5 => c.writtenBlocks
  | 0x2702, _ => if c.boot.step ≤ 1 then 0 else Config.freeNat c.free % 2 ^ 768
  | 0x2703, _ => c.moverOwners
  | 0x2704, _ => c.moverStatuses
  | 0x2902, 1 => c.mem.lastError.1
  | 0x2902, 2 => c.mem.latch.2.1
  | 0x2902, 3 => c.mem.latch.2.2
  | 0x2801, 1 => c.marverLive
  | 0x2801, 2 => c.unitBusy
  | 0x2801, 3 => c.waitingJobs.length + c.waitingExtractions
  | 0x2803, _ => c.marverContexts
  | 0x2811, 1 => c.egr.c0.length
  | 0x2811, 2 => c.egr.peak
  | 0x2811, 3 => c.bulkQueueUse
  | 0x2813, _ => c.egr.residence
  | 0x2904, 1 => c.scrubProgress
  | _, _ => c.get o i

/-- The standard objects, CAN and the session (0x10xx, 0x2010, 0x2F20, R328). -/
def Conc.readDict (c : Conc) (o : Obj) (i : Nat) : Nat :=
  match o.index, o.sub with
  | 0x1001, _ => c.errorRegister
  | 0x1003, 0 => c.dict.can.history.length
  | 0x1003, _ => (c.dict.can.history[i]?).getD 0
  | 0x1009, _ => Config.hardwareVersion.toNat
  | 0x100A, _ => (Config.softwareVersion (c.sec.slot c.sec.running).version).toNat
  | 0x1010, _ => 1
  | 0x1011, _ => 1
  | 0x1018, _ => if i = 2 then Config.revision % 2 ^ 32 else if i = 3 then c.sec.serial % 2 ^ 32 else o.dflt i
  | 0x2010, 5 => c.dict.can.nodeId
  | 0x2F20, 3 => match c.dict.session with | some s => s + 1 | none => 0
  | _, _ => c.get o i

/-- Clocks and power, resources, faults, ports and the pair (0x2000, 0x2100, 0x2400, 0x2Axx, 0x3100; R349, R374, R394). -/
def Conc.readFaults (c : Conc) (o : Obj) (i : Nat) : Nat :=
  match o.index, o.sub with
  | 0x2000, s => c.resourceCount s
  | 0x2100, _ => c.clockStatus
  | 0x2103, 2 => c.pwr.gated + c.pwr.gateForced * 2 ^ 16
  | 0x2A00, 1 => c.healthTable 1 164
  | 0x2A00, 2 => c.healthTable 2 41
  | 0x2A00, 3 => c.healthTable 3 104
  | 0x2A00, 4 => c.healthTable 4 13
  | 0x2A00, 5 => c.healthTable 5 8
  | 0x2A00, 6 => c.healthTable 7 3072
  | 0x2A00, _ => c.healthTable 8 40
  | 0x2A01, _ => c.hbmRowTable
  | 0x2A02, _ => c.faultLog
  | 0x2A03, 1 => c.faults.next
  | 0x2A04, 6 => c.annealPending
  | 0x2400, _ => c.portTable
  | 0x3101, 2 => c.pair.hbState
  | 0x3101, 3 => c.heartbeatAge
  | 0x3101, 5 => c.checkpointAge
  | _, _ => c.get o i

/-- Security (0x30xx, R408). -/
def Conc.readSec (c : Conc) (o : Obj) (i : Nat) : Nat :=
  let s := c.sec
  match o.index, o.sub with
  | 0x3000, 1 => c.sec.rootHash
  | 0x3000, 2 => s.ownerHash
  | 0x3000, 3 => s.owner
  | 0x3001, 1 => s.fwFloor
  | 0x3001, 2 => s.ownerFloor
  | 0x3001, _ => 0
  | 0x3002, 1 => s.running
  | 0x3002, 2 => (s.slot s.running).version
  | 0x3002, 3 => s.flags
  | 0x3002, 4 => s.slotA.shown
  | 0x3002, 5 => s.slotB.shown
  | 0x3004, 1 => 0
  | 0x3004, 2 => s.update
  | 0x3005, 1 => Config.deviceModulus % 2 ^ 4096
  | 0x3005, 2 => Config.deviceCertificate % 2 ^ 13120
  | 0x3006, 3 => if s.attest.isSome then 1 else b1 s.attestReady * 2
  | 0x3006, 4 => s.report
  | 0x3007, 1 => s.challenge
  | 0x3007, 3 => s.unlocked
  | _, _ => c.get o i

/-- The converter, the loops, the light, the Safety Net, the probes (0x2B00-0x2F07, 0x3200; R427, R444, R457, R503). -/
def Conc.readAnalog (c : Conc) (o : Obj) (i : Nat) : Nat :=
  match o.index, o.sub with
  | 0x2B01, 4 => c.excitationStatus
  | 0x2B03, _ => c.sensorResults
  | 0x2B04, _ => c.adc.opens
  | 0x2C00, 2 => b1 c.adc.hostBusy
  | 0x2C00, 4 => c.adcStatus
  | 0x2C01, 7 => c.adc.maxDelay
  | 0x2D06, _ => c.loopStatus
  | 0x2D0A, _ => c.tuneResult
  | 0x2E04, _ => c.ledStatus
  | 0x2E05, 5 => c.light.result
  | 0x2F00, 1 => c.safety.st
  | 0x2F00, 2 => c.safetyInputs
  | 0x2F00, 3 => c.safety.fault
  | 0x2F03, _ => c.safetyConfig
  | 0x2F04, _ => 0
  | 0x2F06, _ => c.changeLog
  | 0x3201, 1 => c.probeStatus
  | _, _ => c.get o i

/-- The value that a read of object `o`, position `i`, returns; a `HighestSubIndex` is constant. -/
def Conc.readVal (c : Conc) (o : Obj) (i : Nat) : Nat :=
  let x := o.index
  if o.sub = 0 ∧ o.access = .const ∧ o.bytes = 1 then o.dflt i
  else if x < 0x2000 ∨ x / 256 = 0x20 ∧ x ≠ 0x2000 ∨ x = 0x2F20 then c.readDict o i
  else if x / 256 = 0x22 ∨ x / 256 = 0x23 then c.readTime o i
  else if x / 256 = 0x25 then (if x < 0x2510 then c.readGather o i else c.readCarousel o i)
  else if x / 256 = 0x26 then c.readEngines o i
  else if 0x2700 ≤ x ∧ x < 0x2A00 then c.readMemory o i
  else if x / 256 = 0x30 then c.readSec o i
  else if 0x2B00 ≤ x ∧ x < 0x3000 ∨ x / 256 = 0x32 then c.readAnalog o i
  else c.readFaults o i

/-! ## Effects of a read -/

/-- What a read does besides returning its value. (DESIGN CHOICE, log entry 47) -/
def Conc.readEffect (c : Conc) (o : Obj) : Conc :=
  match o.index, o.sub with
  | 0x2200, 1 => c.withTime fun t => { t with latch := (t.value.2 / 2 ^ 32, t.value.2 % 2 ^ 32) }
  | 0x2203, 1 => c.withTime fun t => { t with captureLatch := (t.capture.2.1 / 2 ^ 32, t.capture.2.1 % 2 ^ 32, t.capture.2.2) }
  | 0x2503, 4 => { c with gather := { c.gather with peak := c.gather.store.length } }
  | 0x2511, 2 => c.latchCarousel
  | 0x2511, 7 => c.withCaro fun x => { x with usePeak := x.use }
  | 0x2515, 3 => c.withCaro fun x => { x with queuePeak := x.queue.length }
  | 0x2702, _ => { c with free := c.free + 1 }
  | 0x2811, 2 => { c with egr := { c.egr with peak := c.egr.c0.length } }
  | 0x2813, _ => { c with egr := { c.egr with residence := 0 } }
  | 0x2902, 1 => c.latchEcc
  | 0x2100, _ => c.withPwr fun x => { x with doms := Bank.mapVals {} (fun _ d => { d with forced := false }) x.doms }
  | 0x2103, 2 => c.withPwr fun x => { x with gateForced := 0 }
  | 0x2C00, 3 => c.adcDataRead
  | 0x2C01, 7 => c.withAdc fun a => { a with maxDelay := 0 }
  | 0x2D06, _ => c.loopStatusRead
  | 0x2E04, _ => c.withLight fun l => { l with lostSince := 0 }
  | _, _ => c

/-- The gateable block of R341 that holds an object, if any. -/
def concBlockOf (index sub : Nat) : Option Nat :=
  if index = 0x2204 ∨ index = 0x2205 then some 0
  else if index = 0x2513 then some (1 + (sub - 1) % 4)
  else if index / 256 = 0x2C then some 5
  else if index / 256 = 0x2E then some 6
  else if index / 256 = 0x32 then some 7
  else if index = 0x3006 then some 9
  else none

/-- Read (index, sub-index): length, value, and the concentrator after the read. -/
def Conc.readObj (c : Conc) (index sub : Nat) : Res (Nat × Nat × Conc) :=
  match lookupObj concObjs index sub with
  | .error a => .error a
  | .ok (o, i) =>
    match o.readable with
    | .error a => .error a
    | .ok _ =>
      match concBlockOf index sub with
      | some b =>
        if c.gated b ∧ o.access ≠ .const then .ok (o.bytes, 0, c.count O.gatedAccesses)
        else .ok (o.bytes, c.readVal o i % 2 ^ (8 * o.bytes), c.readEffect o)
      | none => .ok (o.bytes, c.readVal o i % 2 ^ (8 * o.bytes), c.readEffect o)

end Sys2Proof.Machine
end

