-- ==== Sys2Proof/Machine/ConcWrite.lean ====
section
/-! DEFINITION. What a write of each object of the concentrator does (R300-R305, R319, R320, and the object cards of chapters 05 to
24), and the stored set (R301). -/

namespace Sys2Proof.Machine

/-! ## The stored set (R301) -/

/-- The object and position of a dictionary key. -/
def objOfKey (k : Nat) : Option (Obj × Nat) :=
  match lookupObj concObjs (k / 256) (k % 256) with | .ok r => some r | .error _ => none

/-- What is stored under a key: nothing of an object without P, and not the PRBS codes of `LaneControl` (R117). -/
def storedValue (k v : Nat) : Option Nat :=
  match objOfKey k with
  | none => none
  | some (o, _) =>
    if o.persist = false then none
    else if o.index = 0x2301 then some (andBits v (rep 164 1 0xF3))
    else some v

/-- `StoreComm` and `RestoreComm` cover these; sub-index 03 covers the rest. -/
def isComm (k : Nat) : Bool := k / 256 == 0x1017 || k / 256 == 0x2010 || k / 256 == 0x2011

/-- Whether sub-index `sub` of 0x1010 or 0x1011 covers a key. -/
def storeCovers (sub k : Nat) : Bool := sub == 1 || (sub == 2) == isComm k

/-- STORE_ALL: the newer copy becomes the older one and the present values, as far as the sub-index covers them, the newer.
(DEDUCED, log entry 41) -/
def Conc.storeSet (c : Conc) (sub : Nat) : Conc :=
  let old := c.flash.stored.getD {}
  let fresh : Od := c.od.filterMap fun p => (storedValue p.1 p.2).map fun v => (p.1, v)
  let set : StoredSet :=
    { conc := (old.conc.filter fun p => !storeCovers sub p.1).foldl (fun d p => Bank.insert d p.1 p.2)
        (fresh.filter fun p => storeCovers sub p.1),
      fe := if sub = 2 then old.fe else c.dict.copies }
  { c with flash := { c.flash with stored := some set, previous := c.flash.stored } }

/-- RESTORE_DEFAULTS: the stored set is erased as far as the sub-index covers it. (DEDUCED, log entry 41) -/
def Conc.eraseStored (c : Conc) (sub : Nat) : Conc :=
  if sub = 1 then { c with flash := { c.flash with stored := none, previous := none } }
  else
    let cut (s : StoredSet) : StoredSet :=
      { conc := s.conc.filter fun p => !storeCovers sub p.1, fe := if sub = 2 then s.fe else [] }
    { c with flash := { c.flash with stored := c.flash.stored.map cut, previous := c.flash.previous.map cut } }

/-! ## Sessions and the password (R319, R320) -/

/-- Whether a password is the one in force; none has been set: 0. -/
def Conc.passwordOk (c : Conc) (v : Nat) : Bool :=
  match c.flash.pwHash with
  | none => v == 0
  | some h => ofBytes (sha512 (toBytes 8 v)) == h

/-- The session ends once `SessionTimeout` has passed without a request of its holder; a request in the tick of expiry
counts as arrived (R327). -/
def Conc.sessionLapse (c : Conc) : Conc :=
  match c.dict.session with
  | none => c
  | some _ => if c.dict.sessionLast + c.get O.sessionTimeout * 60 * secTicks < c.tick then c.endSession else c

/-- SESSION_TIMEOUT: the timer has expired, and the tick of its expiry has passed (R327). -/
def Conc.sessionTimeout (c : Conc) : Conc := c.sessionLapse

/-- A request of a source: a lapsed session ends, the holder's restarts its timer. -/
def Conc.sessionTouch (c : Conc) (src : Nat) : Conc :=
  let c := c.sessionLapse
  if c.dict.session = some src then { c with dict := { c.dict with sessionLast := c.tick } } else c

/-- The writer may write rwl objects: it holds the session, it is the Ringmaster, or the ROM serves it in RECOVERY, where no
session can be opened (R402). -/
def Conc.mayLock (c : Conc) (src : Nat) : Bool := c.dict.session == some src || src == 3 || c.boot.recovery

/-- SESSION_OPEN by source `src` on `lane`. (DEDUCED, log entry 41) -/
def Conc.sessionOpen (c : Conc) (src lane v : Nat) : Res Conc × Conc :=
  let locked : Bool := match c.dict.lockedUntil with | some t => decide (c.tick < t) | none => false
  let other : Option Nat := match c.dict.session with | some s => if s = src then none else some s | none => none
  if locked then (.error Abort.control, c)
  else match other with
    | some s => (.error (Abort.owned (ownerCode 0x04 s)), c)
    | none =>
      if c.passwordOk v then
        let d := { c with dict := { c.dict with session := some src, sessionLane := lane, sessionLast := c.tick, wrong := 0,
                                                 lockedUntil := none } }
        (.ok d, d)
      else
        let n := c.dict.wrong + 1
        let c := c.count O.passwordFailures
        (.error Abort.control,
          if 3 ≤ n then { c with dict := { c.dict with wrong := 0, lockedUntil := some (c.tick + 60 * secTicks) } }
          else { c with dict := { c.dict with wrong := n } })

/-- PASSWORD_LOCKOUT_END: 60 s after the third wrong password. -/
def Conc.lockoutEnd (c : Conc) : Conc :=
  match c.dict.lockedUntil with
  | some t => if t ≤ c.tick then { c with dict := { c.dict with lockedUntil := none } } else c
  | none => c

/-- SESSION_CLOSE. (DEDUCED, log entry 41) -/
def Conc.sessionClose (c : Conc) (src : Nat) : Res Conc :=
  match c.dict.session with
  | some s => if s = src then .ok c.endSession else .error (Abort.owned (ownerCode 0x04 s))
  | none => .error (Abort.owned 0)

/-- PASSWORD_CHANGE. -/
def Conc.passwordChange (c : Conc) (src v : Nat) : Res Conc :=
  if c.dict.session = some src then
    if c.gated 11 then .error gateAbort
    else .ok ({ c with flash := { c.flash with pwHash := some (ofBytes (sha512 (toBytes 8 v))) } } : Conc).touch
  else .error Abort.control

/-! ## Tables with checks of their own -/

/-- A table of event counters without a counter card is cleared by writing it whole with zeros (R93, R117). -/
def Conc.clearTable (c : Conc) (o : Obj) (v : Nat) : Res Conc := if v = 0 then .ok (c.put o 0) else .error Abort.range

/-- A write that the object's own check passes or refuses as out of range. -/
def Conc.putIf (c : Conc) (ok : Bool) (o : Obj) (v i : Nat) : Res Conc := if ok then .ok (c.put o v i) else .error Abort.range

/-- `DownlinkEmphasis`: pre and post of each entry together at most 40. -/
def emphasisOk (v : Nat) : Bool :=
  (List.range 48).all fun p => let e := entryGet 16 v p; decide (e % 16 + e / 16 ≤ 40)

/-- PORT_ENABLE_WRITE: a port that is no longer enabled gives its lease up. -/
def Conc.writePortEnable (c : Conc) (v : Nat) : Conc :=
  (List.range 48).foldl (fun (c : Conc) p =>
    if bitAt v p then c.portRefresh p
    else if (c.lease p).status = 2 then c.freeLease p
    else (c.setLease p { c.lease p with status := 0 }).portRefresh p) (c.put O.portEnable v)

/-- `WindowProfiles`: pre and post of each profile together below 9,375 base ticks (R199). -/
def profilesOk (v : Nat) : Bool :=
  (List.range 8).all fun p => let e := entryGet 32 v p; decide (e % 2 ^ 16 + e / 2 ^ 16 < 9375)

/-- `RingSize` and `RecordStoreSize` together at most 128 GB (R212). -/
def sizesOk (gb mib : Nat) : Bool := decide (gb * 1000000000 + mib * 1048576 ≤ 128000000000)

/-- The length of the value type of a readable, mappable object; an abort otherwise (R314).  Every DOMAIN but `PortEnable` is
longer than any other type. -/
def mapLength (index sub : Nat) : Res Nat :=
  match lookupObj concObjs index sub with
  | .error a => .error a
  | .ok (o, _) =>
    if o.access = .wo ∨ 8 < o.bytes ∨ o.index = 0x2500 then .error Abort.notMappable else .ok o.bytes

/-- The entries of TPDO `k` (0-3) in a map: index, sub-index, length; an all-zero entry ends the list. -/
def mapEntries (v k : Nat) : List (Nat × Nat × Nat) :=
  ((List.range 16).map fun j =>
    let e := entryGet 32 v (16 * k + j)
    (e % 2 ^ 16, bits e 23 16, bits e 31 24)).takeWhile fun x => x ≠ (0, 0, 0)

/-- The judgement of one TPDO's map: entry by entry, the bytes so far in `n`. -/
def judgeMap : Nat → List (Nat × Nat × Nat) → Res Unit
  | _, [] => .ok ()
  | n, (index, sub, len) :: es =>
    match mapLength index sub with
    | .error a => .error a
    | .ok l =>
      if l ≠ len then .error Abort.badLength
      else if 64 < n + len then .error Abort.pdoLength
      else judgeMap (n + len) es

/-- A write of `TpdoMap` (R314). -/
def Conc.writeTpdoMap (c : Conc) (v : Nat) : Res Conc :=
  match (List.range 4).findSome? fun k => match judgeMap 0 (mapEntries v k) with | .error a => some a | .ok _ => none with
  | some a => .error a
  | none => .ok (c.put O.tpdoMap v)

/-- A data rate below the arbitration rate is refused; with the rates of the card it cannot be, 1 Mbit/s being the highest
arbitration rate and the lowest data rate. -/
def canRatesOk (arb data : Nat) : Bool :=
  decide ([125, 250, 500, 1000].getD arb 0 ≤ [1000, 2000, 4000, 5000].getD data 0)

/-- `AutoLatency`: the measurement takes the TIU unless a host run or its gate holds it (R167, R341). -/
def Conc.writeAutoLatency (c : Conc) (v : Nat) : Res Conc :=
  if v = 1 ∧ c.get O.autoLatency = 0 then
    if c.time.tiu.running then .error (Abort.owned (ownerCode 0x02 1))
    else if c.gated 0 then .error gateAbort
    else .ok (c.put O.autoLatency 1)
  else .ok (c.put O.autoLatency v)

/-- BIAS_REQUEST (R452), and the command of `SafetyCommand`; the light that a stimulus flash reads is a free value where the write does
not say it. (DEDUCED, log entry 41) -/
def Conc.safetyCommand (c : Conc) (src v : Nat) : Res Conc :=
  if v = 1 then c.safetyClear src
  else
    let a := c.drawBool
    let b := a.2.drawBool
    b.2.safetyRunStimulus src a.1 b.1

/-- A write of `PartnerCommand` (R393). -/
def Conc.partnerCommand (c : Conc) (v : Nat) : Res Conc :=
  if v = 1 then c.partnerRelinquish else if v = 2 then c.partnerRequest else c.partnerForce

/-- A write of `PowerRequest` (R344, R349). -/
def Conc.writePower (c : Conc) (v : Nat) : Res Conc := if v = 2 then c.powerRequestCold else c.powerRequest v

/-- A write of `CheckpointImage` has ended: it is kept while the images stay within 24 MiB (R386). -/
def Conc.writeImage (c : Conc) (len v : Nat) : Res Conc :=
  let used := c.flash.images.foldl (fun n p => n + p.1) 0
  if c.gated 11 then .error gateAbort
  else if 25165824 < used + len then .error Abort.noStaging
  else .ok { c with flash := { c.flash with images := c.flash.images ++ [(len, v)] } }

/-! ## The writes, chapter by chapter -/

/-- Lanes and the time base. -/
def Conc.applyTime (c : Conc) (o : Obj) (i v : Nat) : Res Conc :=
  match o.index, o.sub with
  | 0x2301, _ => c.writeLaneControl v
  | 0x2302, _ => c.putIf (emphasisOk v) o v i
  | 0x2303, _ => c.clearTable o v
  | 0x2201, _ => .ok (c.writeIncrement o v)
  | 0x2202, 4 => c.writeAlignArm v
  | 0x2204, s =>
    match c.tiuWriteOk s with
    | .error a => .error a
    | .ok _ => if s = 5 then c.writeTiuRun v else c.putIf (c.tiuPortOk s v) o v i
  | 0x2206, 1 => c.writeAutoLatency v
  | _, _ => .ok (c.put o v i)

/-- The Gather, the Carousel and triggers. -/
def Conc.applyGather (c : Conc) (o : Obj) (i v : Nat) : Res Conc :=
  match o.index, o.sub with
  | 0x2502, _ =>
    let old := if c.gather.cfgAt = some c.tick then c.gather.cfgOld
      else (c.get O.sortWindow, c.get O.staleTicks, c.get O.rejoinCells)
    (.ok (({ c with gather := { c.gather with cfgAt := some c.tick, cfgOld := old } } : Conc).put o v i))
  | 0x2500, _ => .ok (c.writePortEnable v)
  | 0x2506, 2 => c.putIf (decide (v ≤ c.get O.sliceLength)) o v i
  | 0x2510, 1 => .ok (c.writeCarouselEnable v)
  | 0x2510, 2 => c.putIf (sizesOk v (c.get O.recordStoreSize)) o v i
  | 0x2510, 3 => c.putIf (sizesOk (c.get O.ringSize) v) o v i
  | 0x2512, _ => c.putIf (profilesOk v) o v i
  | 0x2516, 1 => c.putIf (decide (c.get O.lowWater < v)) o v i
  | 0x2516, 2 => c.putIf (decide (v < c.get O.highWater)) o v i
  | 0x2516, 5 => .ok (c.put o v i).clipK
  | _, _ => .ok (c.put o v i)

/-- Engines, memory, the flip mask. -/
def Conc.applyEngines (c : Conc) (o : Obj) (i len v : Nat) : Res Conc :=
  match o.index, o.sub with
  | 0x2603, _ => .ok { c with eng := { c.eng with staged := (len, v) } }
  | 0x2604, 2 => if 63 < v then .error Abort.range else c.taskUnload v
  | 0x2606, _ => c.writeInstanceConfig v
  | 0x2607, 1 => c.putIf (decide (v < 384 ∨ v = 0xFFFF)) o v i
  | 0x2607, 2 => c.instanceCommand v
  | 0x260A, _ => c.writeSubscriptions v
  | 0x2900, s =>
    match c.flipWriteOk s v with
    | .error a => .error a
    | .ok _ => .ok (c.put o v i)
  | _, _ => .ok (c.put o v i)

/-- Standard objects, CAN, the session, reset. -/
def Conc.applyDict (c : Conc) (src : Nat) (o : Obj) (i v : Nat) : Res Conc :=
  match o.index, o.sub with
  | 0x1003, _ => .ok { c with dict := { c.dict with can := { c.dict.can with history := [] } } }
  | 0x1010, _ => if c.gated 11 then .error gateAbort else .ok (c.storeSet (i + 1))
  | 0x1011, _ => if c.gated 11 then .error gateAbort else .ok (c.eraseStored (i + 1))
  | 0x2010, 1 => c.putIf (canRatesOk v (c.get O.canDataRate)) o v i
  | 0x2010, 2 => c.putIf (canRatesOk (c.get O.canArbitrationRate) v) o v i
  | 0x2011, 1 => c.putIf (decide (v = 0 ∨ 10 ≤ v)) o v i
  | 0x2011, _ => c.writeTpdoMap v
  | 0x2002, 1 => .ok c.resetCommand
  | 0x2F20, 2 => c.sessionClose src
  | 0x2F20, 5 => c.passwordChange src v
  | _, _ => .ok (c.put o v i)

/-- Clocks and power, Marver, faults, ports and the pair. -/
def Conc.applyFaults (c : Conc) (src busy : Nat) (o : Obj) (i len v : Nat) : Res Conc :=
  match o.index, o.sub with
  | 0x2800, 1 => c.putIf (decide (v % 8 = 0)) o v i
  | 0x2101, 1 => .ok (c.writeAoSource v)
  | 0x2102, 1 => c.writeMeter o v
  | 0x2102, 2 => c.writeMeter o v
  | 0x2102, 3 => c.meterRun v
  | 0x2103, 1 => c.writeGates busy v
  | 0x2104, 2 => c.writePower v
  | 0x2A03, 2 => .ok (c.faultLogAck v)
  | 0x2A04, 4 => c.annealRun v
  | 0x3102, _ => c.partnerCommand v
  | 0x3103, _ => if src = 2 then .ok (c.withPair fun x => { x with heldRaw := some (len, v) }) else .error Abort.control
  | 0x3104, _ => if src = 2 then c.writeImage len v else .error Abort.control
  | _, _ => .ok (c.put o v i)

/-- Security. -/
def Conc.applySec (c : Conc) (o : Obj) (i v : Nat) : Res Conc :=
  match o.index, o.sub with
  | 0x3000, 2 => c.enrolOwner v false
  | 0x3001, 3 => c.commitFirmwareFloor v
  | 0x3001, 4 => c.commitOwnerFloor v
  | 0x3004, 1 => c.firmwareActivate v
  | 0x3006, 2 => c.attestRun v
  | 0x3007, 4 => .ok (c.relock v)
  | _, _ => .ok (c.put o v i)

/-- The converter, the loops, the light, the Safety Net, the probes. -/
def Conc.applyAnalog (c : Conc) (src : Nat) (o : Obj) (i v : Nat) : Res Conc :=
  match o.index, o.sub with
  | 0x2B00, _ => c.writeAinRole v
  | 0x2B01, 1 => c.writeExcitation 0 v
  | 0x2B01, 2 => c.writeExcitation 1 v
  | 0x2B02, _ => c.writeSetups v
  | 0x2C00, 1 => c.writeAdcSelect v
  | 0x2C00, 2 => c.adcStart v
  | 0x2D00, _ => c.writeLoopSetup v
  | 0x2D01, _ => c.writeSetpoints v
  | 0x2D02, _ => c.writeLoopLimits v
  | 0x2D03, _ => .ok (c.writeGains v)
  | 0x2D04, _ => c.writeSchedule v
  | 0x2D05, _ => c.loopCommand v
  | 0x2D07, _ => c.writePwmAssign v
  | 0x2D09, _ => c.writeTuneConfig v
  | 0x2E00, _ => .ok ((c.put o v i).holdDrive c)
  | 0x2E01, _ => c.writeLedChannel v
  | 0x2E02, _ => .ok ((c.put o v i).holdDrive c)
  | 0x2E03, 3 => if v = 0 ∨ (94 ≤ v ∧ v ≤ 93750000) then .ok (c.put o v i).flashFrom else .error Abort.range
  | 0x2E03, 4 => .ok (c.put o v i).flashFrom
  | 0x2E03, 5 => c.flashFire v
  | 0x2E05, 4 => c.feedbackRun v
  | 0x2F01, _ => .ok (c.biasRequest v)
  | 0x2F04, _ => c.safetyCommand src v
  | 0x3200, _ => c.writeProbes v
  | _, _ => .ok (c.put o v i)

/-- Apply a checked write whose refusal changes nothing. -/
def Conc.applyObj (c : Conc) (src busy : Nat) (o : Obj) (i len v : Nat) : Res Conc :=
  let x := o.index
  if x < 0x2000 ∨ x / 256 = 0x20 ∨ x = 0x2F20 then c.applyDict src o i v
  else if x / 256 = 0x22 ∨ x / 256 = 0x23 then c.applyTime o i v
  else if x / 256 = 0x25 then c.applyGather o i v
  else if x / 256 = 0x26 ∨ x / 256 = 0x29 then c.applyEngines o i len v
  else if x / 256 = 0x30 then c.applySec o i v
  else if 0x2B00 ≤ x ∧ x < 0x3000 ∨ x / 256 = 0x32 then c.applyAnalog src o i v
  else c.applyFaults src busy o i len v

/-- A write of a P object is a change that the active partner pushes within 100 ms (R385). -/
def Conc.noteChange (c : Conc) (o : Obj) : Conc :=
  if o.persist then c.touch else c

/-- A feature that needs a gated block and says so, where other accesses are discarded (R340, R341, R499). -/
def claimsGate (index sub : Nat) : Bool :=
  index == 0x2E05 && sub == 4 || index == 0x3200 || index == 0x3006 && sub == 2

/-- Apply a checked write: the outcome, and the concentrator after it.  A refusal that changes something is one of these: a load, a
firmware image, a token, a bundle or a password that fails. -/
def Conc.applyWrite (c : Conc) (src lane busy : Nat) (o : Obj) (i len v : Nat) : Res Conc × Conc :=
  let r : Res Conc × Conc :=
    match o.index, o.sub with
    | 0x2604, 1 =>
      if 63 < v then (.error Abort.range, c)
      else match c.taskLoad v with
        | (.ok d, _) => (.ok d.pushImage, d.pushImage)
        | p => p
    | 0x3003, _ => if c.mayLock src then c.firmwareVerify (toBytes len v) else (.error Abort.control, c)
    | 0x3007, 2 => c.debugToken (toBytes len v)
    | 0x2F02, _ => c.safetyBundle src (toBytes len v)
    | 0x2F20, 1 => c.sessionOpen src lane v
    | _, _ =>
      match c.applyObj src busy o i len v with
      | .ok d => (.ok d, d)
      | .error a => (.error a, c)
  match r.1 with
  | .ok d => (.ok (d.noteChange o), d.noteChange o)
  | .error a => (.error a, r.2)

/-- The abort of a write that its object's card refuses with `a`: that of a const object once the owner's hash is sealed (R398). -/
def Conc.refusal (c : Conc) (index sub : Nat) (a : Abort) : Abort := if c.sealedHash index sub then Abort.writeOfRo else a

/-- Write (index, sub-index), `len` bytes of value `v`, by a source (R298-R300).  A write to a gated block is discarded before any
check (R340). -/
def Conc.writeObj (c : Conc) (src lane busy index sub len v : Nat) : Res Conc × Conc :=
  match lookupObj concObjs index sub with
  | .error a => (.error a, c)
  | .ok (o, i) =>
    let hidden : Bool := match concBlockOf index sub with | some b => c.gated b | none => false
    if hidden then
      if claimsGate index sub then (.error gateAbort, c) else let d := c.count O.gatedAccesses; (.ok d, d)
    else match o.checkWrite (c.mayLock src) len v with
      | .error a => (.error (c.refusal index sub a), c)
      | .ok w => c.applyWrite src lane busy o i len w

end Sys2Proof.Machine
end

