-- ==== Sys2Proof/Machine/ConcHost.lean ====
section
/-! DEFINITION. The dictionary server of the concentrator: accesses of its sources (R303-R309), requests in band with their
relays (R315-R317), and the CAN node (R310-R314, R402, R471). -/

namespace Sys2Proof.Machine

/-! ## Who is served, and when -/

/-- The boot ROM, not the firmware, serves CAN: before step 10 of the boot ladder, and in RECOVERY (R402, R471). -/
def Conc.rom (c : Conc) : Bool := c.boot.recovery || decide (c.boot.step < 10) || c.boot.step == 0x80

/-- What the ROM serves. (DEDUCED, log entry 39) -/
def Conc.romServes (c : Conc) (index : Nat) (write : Bool) : Bool :=
  index == 0x1000 || index == 0x1018 || (decide (0x3002 ≤ index) && decide (index ≤ 0x3004))
    || (!c.boot.recovery && !write && (index == 0x2001 || index == 0x2003))

/-- The CAN controller takes frames: out of reset, from step 4 of the boot ladder on (there only with REFCLK alive), and not in
CLOCK_LOST or while its own clock D5 has no source (R333, R337, R469, R471). -/
def Conc.canAlive (c : Conc) : Bool :=
  !c.boot.inReset && decide (4 ≤ c.boot.step) && c.pwr.state != 6 && !c.noSource 5 && !(c.boot.step == 4 && (Bank.get ({} : ClockDom) c.pwr.doms 4).dead)

/-- A source is served: USDO in every NMT state but Stopped, in-band sources by the firmware; none while the Ringmaster's clock
does not run (R343). -/
def Conc.listens (c : Conc) (src : Nat) : Bool :=
  !c.ringAsleep && (if src = 0 then c.canAlive && c.dict.can.state != 4 else !c.boot.inReset && !c.rom)

/-- The CAN controller holds what comes while the Ringmaster sleeps: it is answered after the wake (R344).
(DESIGN CHOICE, log entry 42) -/
def Conc.keepForWake (c : Conc) (src : Nat) (a : CanAccess) : Conc :=
  if src = 0 ∧ c.ringAsleep ∧ c.canAlive ∧ c.dict.can.state ≠ 4 then
    { c with dict := { c.dict with can := { c.dict.can with waiting := c.dict.can.waiting ++ [a] } } }
  else c

/-- A write of `PowerRequest` of a state wakes a sleeping concentrator as a request, not as CAN traffic (R344, R349). -/
def Conc.powerWake (c : Conc) (src index v : Nat) : Conc :=
  if src = 0 ∧ index = O.powerRequest.index ∧ c.canAlive ∧ c.pwr.ringStopped then c.wake 2 (if v = 4 then 4 else 3) else c

/-- A CAN request wakes a sleeping concentrator (R344). -/
def Conc.heard (c : Conc) (src : Nat) : Conc := if src = 0 ∧ c.canAlive then c.wake 1 3 else c

/-- The abort of an index that the ROM does not serve. -/
def Conc.romRefuses (c : Conc) (index : Nat) (write : Bool) : Bool := c.rom && !c.romServes index write

/-! ## Accesses by source (R303) -/

/-- A write by a source; a refusal is recorded (R322). -/
def Conc.hostWrite (c : Conc) (src lane busy index sub len v : Nat) : Conc :=
  let c := c.heard src
  if c.listens src = false then c.keepForWake src (.write lane busy index sub len v)
  else
    let c := c.sessionTouch src
    if c.romRefuses index true then c.recordAbort src Abort.noObject index sub 0
    else match c.writeObj src lane busy index sub len v with
      | (.ok d, _) => d
      | (.error a, d) => d.recordAbort src a index sub 0

/-- A read by a source: what it does besides returning its value. -/
def Conc.hostRead (c : Conc) (src index sub : Nat) : Conc :=
  let c := c.heard src
  if c.listens src = false then c.keepForWake src (.read index sub)
  else
    let c := c.sessionTouch src
    if c.romRefuses index false then c.recordAbort src Abort.noObject index sub 0
    else match c.readObj index sub with
      | .ok r => r.2.2
      | .error a => c.recordAbort src a index sub 0

/-! ## Requests (R298-R305, R316, R317) -/

/-- The checks that the concentrator makes of a request to a relay window (R317). -/
def Conc.windowCheck (c : Conc) (src : Nat) (r : Req) : Res Unit :=
  match lookupObj feObjs (windowFe r.index) r.sub with
  | .error a => .error a
  | .ok (o, _) =>
    let own : Res Unit :=
      if r.op = 1 ∨ r.op = 3 then o.readable
      else match o.writable (c.mayLock src) with
        | .error a => .error a
        | .ok _ =>
          if r.op = 2 ∧ (if o.upTo then decide (r.len ≤ o.bytes) else decide (r.len = o.bytes)) = false then .error Abort.badLength
          else .ok ()
    match own with
    | .error a => .error a
    | .ok _ =>
      let p := windowPort r.index
      if ((c.gport p).st = .live ∨ (c.gport p).st = .rejoining) ∧ c.acts p then .ok () else .error Abort.unreachable

/-- An index of the relay windows. -/
def isWindow (index : Nat) : Bool := decide (0x4000 ≤ index) && decide (index ≤ 0x57FF)

/-- Whether a source may stage the object of a request. (DEDUCED, log entry 41) -/
def Conc.mayStage (c : Conc) (src : Nat) (r : Req) : Res Unit :=
  match lookupObj concObjs r.index r.sub with
  | .error a => .error a
  | .ok (o, _) =>
    if c.sealedHash r.index r.sub then .error Abort.writeOfRo
    else if r.index = 0x3003 ∧ c.mayLock src = false then .error Abort.control
    else if (r.index = 0x3003 ∨ r.index = 0x3104) ∧ c.gated 11 then .error gateAbort
    else if (r.index = 0x3103 ∨ r.index = 0x3104) ∧ src ≠ 2 then .error Abort.control
    else o.writable (c.mayLock src)

/-- Stage one message of a source: the abort, or the whole value when it was the last.  An object with staging of its own has
its destination written as the message arrives. (DEDUCED, log entry 41) -/
def Conc.stageMsg (c : Conc) (src : Nat) (r : Req) : Res (Option (Nat × Nat)) × Conc :=
  let s := stage c.dict.staging c.tick src (!ownStaging r.index) r
  let c := c.withDict fun d => { d with staging := s.2 }
  let arrived : Bool := match s.1 with | .ok _ => true | .error _ => false
  let c := if r.index = 0x3003 ∧ arrived then c.firmwareSegment else c
  (s.1, if r.index = 0x2603 ∧ r.off = 0 then { c with eng := { c.eng with staged := (0, 0) } } else c)

/-- One message of a WRITE_AT sequence to an object of the concentrator. (DEDUCED, log entry 41) -/
def Conc.performWriteAt (c : Conc) (src lane : Nat) (r : Req) : Res Answer × Conc :=
  match c.mayStage src r with
  | .error a => (.error a, c)
  | .ok _ =>
    let s := c.stageMsg src r
    match s.1 with
    | .error a => (.error a, s.2)
    | .ok none => (.ok {}, s.2)
    | .ok (some (len, val)) =>
      match s.2.writeObj src lane 0 r.index r.sub len val with
      | (.ok d, _) => (.ok {}, d)
      | (.error a, d) => (.error a, d)

/-- A whole write finds no staging buffer free (R304). -/
def Conc.unstaged (c : Conc) (r : Req) : Bool :=
  !ownStaging r.index && (match lookupObj concObjs r.index r.sub with
    | .ok (o, _) => o.unstaged c.dict.staging r.len
    | .error _ => false)

/-- Execute a request of a source: its answer or abort, none while it is relayed, and the concentrator after it. -/
def Conc.perform (c : Conc) (src lane cls : Nat) (r : Req) : Option (Res Answer) × Conc :=
  if r.poisoned then (some (.error Abort.hardware), c)
  else if r.op = 0 ∨ 4 < r.op then (some (.error Abort.badOpcode), c)
  else if c.romRefuses r.index (decide (r.op = 2 ∨ r.op = 4)) then (some (.error Abort.noObject), c)
  else if isWindow r.index then
    match c.windowCheck src r with
    | .error a => (some (.error a), c)
    | .ok _ => (none, c.addRelay (windowPort r.index) src lane cls r)
  else match r.op with
    | 2 =>
      if c.unstaged r then (some (.error Abort.noStaging), c)
      else match c.writeObj src lane 0 r.index r.sub r.len r.val with
        | (.ok d, _) => (some (.ok {}), d)
        | (.error a, d) => (some (.error a), d)
    | 4 =>
      let p := c.performWriteAt src lane r
      (some p.1, p.2)
    | _ =>
      match c.readObj r.index r.sub with
      | .error a => (some (.error a), c)
      | .ok (n, v, d) =>
        if r.op = 1 then (some (.ok { len := n, val := v }), d)
        else match r.readAt n v with
          | .ok a => (some (.ok a), d)
          | .error a => (some (.error a), c)

/-- A transaction received at tick `at_` is kept, without a response yet (R308). -/
def Conc.keepPending (c : Conc) (src lane at_ : Nat) (r : Req) : Conc :=
  c.keepTrans src { id := r.tid, opcode := r.op, index := r.index, sub := r.sub, resp := none, lane := lane, rcvd := at_ }

/-- An in-band management request on a trained lane (R307, R308, R315). -/
def Conc.request (c : Conc) (lane cls : Nat) (r : Req) : Conc :=
  let src := sourceOfLane lane
  let at_ := receivedAt lane r.words c.links.inbox c.tick
  let c := c.take lane r.words
  if c.listens src = false then c
  else
    let c := c.sessionTouch src
    match c.duplicate lane cls r with
    | some d => d
    | none =>
      let c := c.keepPending src lane at_ r
      if 8 ≤ (c.dict.relays.filter fun y => y.src = src).length then
        (c.count O.outstandingRefused).answer src lane cls r (.error Abort.outstanding)
      else match c.perform src lane cls r with
        | (some a, d) => d.answer src lane cls r a
        | (none, d) => d

/-- STAGING_TIMEOUT (R305). -/
def Conc.stagingTimeout (c : Conc) (src index sub : Nat) : Conc :=
  c.withDict fun d => { d with staging := expireStaging d.staging c.tick src index sub }

/-! ## USDO (R304, R311) -/

/-! ## Writes of any index (R316) -/

/-- A write of REGISTER_WRITE to a relay window: it is relayed as any other (R316, R317), and no message carries its
answer. -/
def Conc.windowWrite (c : Conc) (src : Nat) (r : Req) : Conc :=
  let c := c.heard src
  if c.listens src = false then c.keepForWake src (.write 0 0 r.index r.sub r.len r.val)
  else
    let c := c.sessionTouch src
    if c.romRefuses r.index true then c.recordAbort src Abort.noObject r.index r.sub 0
    else if 8 ≤ (c.dict.relays.filter fun y => y.src = src).length then
      (c.count O.outstandingRefused).recordAbort src Abort.outstanding r.index r.sub 0
    else match c.windowCheck src r with
      | .error a => c.recordAbort src a r.index r.sub 0
      | .ok _ => c.addRelay (windowPort r.index) src 0 noAnswer r

/-- The transactions of CAN that are open (R307). -/
def Conc.canOpen (c : Conc) : Nat := c.dict.can.usdo.length + (c.dict.relays.filter fun r => r.src = 0).length

def Conc.withCan (c : Conc) (f : Can → Can) : Conc := c.withDict fun d => { d with can := f d.can }

/-- A USDO session is closed: its transfer and its staging are gone. -/
def Conc.closeUsdo (c : Conc) (session : Nat) : Conc :=
  match c.dict.can.usdo.find? fun u => u.session = session with
  | none => c
  | some u =>
    (c.withCan fun x => { x with usdo := x.usdo.filter fun y => y.session ≠ session }).withDict fun d =>
      { d with staging := dropStaging d.staging 0 u.index u.sub }

/-- A transfer is answered with an abort. -/
def Conc.usdoAbort (c : Conc) (session index sub : Nat) (a : Abort) : Conc :=
  ((c.closeUsdo session).recordAbort 0 a index sub 0).usdoReply session (.error a)

/-- A whole read or write over USDO. (DESIGN CHOICE, log entry 42) -/
def Conc.usdoWhole (c : Conc) (session : Nat) (r : Req) : Conc :=
  match c.perform 0 session 0 r with
  | (some (.ok a), d) => d.usdoReply session (.ok a)
  | (some (.error a), d) => d.usdoAbort session r.index r.sub a
  | (none, d) => d

/-- A segment of a write of an object: staged until the last. (DESIGN CHOICE, log entry 42) -/
def Conc.usdoSegment (c : Conc) (session index sub len val : Nat) (toggle last : Bool) : Conc :=
  let u := c.dict.can.usdo.find? fun u => u.session = session
  let off := match u with
    | none => 0
    | some _ => match c.dict.staging.find? fun s => s.matches 0 index sub with | some s => s.len | none => 0
  let wrong : Bool := match u with
    | some u => u.toggle == toggle || u.index != index || u.sub != sub
    | none => false
  let r : Req := { tid := 0, op := 4, index := index, sub := sub, off := off, last := last, len := len, val := val }
  let may : Res Unit :=
    if wrong then .error Abort.outOfSequence
    else if c.romRefuses index true then .error Abort.noObject
    else if isWindow index then .ok ()
    else c.mayStage 0 r
  match may with
  | .error a => c.usdoAbort session index sub a
  | .ok _ =>
    let s := c.stageMsg 0 r
    let c := s.2
    match s.1 with
    | .error a => c.usdoAbort session index sub a
    | .ok none =>
      let v : Usdo := { session := session, index := index, sub := sub, toggle := toggle }
      (c.withCan fun x => { x with usdo := x.usdo.filter (fun y => y.session ≠ session) ++ [v] }).usdoReply session (.ok {})
    | .ok (some (n, w)) =>
      let c := c.withCan fun x => { x with usdo := x.usdo.filter fun y => y.session ≠ session }
      c.usdoWhole session { tid := 0, op := 2, index := index, sub := sub, len := n, val := w }

/-- USDO_REQUEST: a read, or a write in one or more segments. (DESIGN CHOICE, log entry 42) -/
def Conc.usdoRequest (c : Conc) (session : Nat) (write : Bool) (index sub len val : Nat) (toggle last : Bool) : Conc :=
  let c := (if write then c.powerWake 0 index (val % 256) else c).heard 0
  if c.listens 0 = false then c.keepForWake 0 (.usdo session write index sub len val toggle last)
  else
    let c := c.sessionTouch 0
    let mine := c.dict.can.usdo.any fun u => u.session = session
    if mine = false ∧ 8 ≤ c.canOpen then (c.count O.outstandingRefused).usdoAbort session index sub Abort.outstanding
    else if write = false then c.usdoWhole session { tid := 0, op := 1, index := index, sub := sub }
    else if mine = false ∧ last then
      c.usdoWhole session { tid := 0, op := 2, index := index, sub := sub, len := len, val := val }
    else c.usdoSegment session index sub len val toggle last

/-- USDO_TIMEOUT: the transfer is aborted and changes nothing. -/
def Conc.usdoTimeout (c : Conc) (session : Nat) : Conc :=
  match c.dict.can.usdo.find? fun u => u.session = session with
  | none => c
  | some u => c.usdoAbort session u.index u.sub Abort.timeout

/-! ## NMT, heartbeat, EMCY, TPDOs (R311-R314) -/

/-- The node ID that the pins and the objects give (R312). -/
def Conc.nodeIdNow (c : Conc) : Nat :=
  if c.get O.canNodeIdSource = 1 ∨ c.dict.can.nodePins % 128 = 0 then c.get O.canNodeId else c.dict.can.nodePins % 128

/-- A frame leaves the node. (DESIGN CHOICE, log entry 42) -/
def Conc.sendFrame (c : Conc) (cob : Nat) (bytes : List Nat) : Conc :=
  c.withCan fun x => { x with sent := x.sent ++ [{ cob := cob, bytes := bytes }] }

/-- Reset communication: node ID and bit rates are read anew, USDO sessions and CAN's configuration session close, the boot-up
message is sent. -/
def Conc.resetComm (c : Conc) (pins : Nat) : Conc :=
  let c := c.withCan fun x => { x with nodePins := pins, state := 0x7F, usdo := [], hbLast := c.tick }
  let c := c.withDict fun d => { d with staging := d.staging.filter (fun s => s.src ≠ 0), relays := d.relays.filter fun r => r.src ≠ 0 }
  let c := (List.range 48).foldl (fun (c : Conc) p => c.sendRelays p 8) c
  let c := if c.dict.session = some 0 then c.endSession else c
  let c := c.withCan fun x => { x with nodeId := c.nodeIdNow, arbitration := c.get O.canArbitrationRate,
                                       dataRate := c.get O.canDataRate }
  c.sendFrame (0x700 + c.dict.can.nodeId) [0]

/-- An NMT command reaches the firmware; it wakes a sleeping part, which obeys it after the wake (R344). -/
def Conc.nmt (c : Conc) (a : CanAccess) (f : Conc → Conc) : Conc :=
  let c := c.heard 0
  if c.ringAsleep ∧ c.canAlive then c.withCan fun x => { x with waiting := x.waiting ++ [a] }
  else if c.canAlive ∧ c.rom = false then f c else c

def Conc.nmtState (c : Conc) (s : Nat) : Conc := c.nmt (.nmtState s) fun (c : Conc) => c.withCan fun x => { x with state := s }

/-- NMT_RESET_COMMUNICATION. -/
def Conc.nmtResetComm (c : Conc) (pins : Nat) : Conc := c.nmt (.resetComm pins) fun (c : Conc) => c.resetComm pins

/-- NMT_RESET_NODE: the remote reset, or a reset of communication. -/
def Conc.nmtResetNode (c : Conc) (pins : Nat) : Conc :=
  c.nmt (.resetNode pins) fun (c : Conc) =>
    if c.get O.nmtResetNode = 1 then c.systemReset 6 false else (c.resetComm pins).count O.nmtResetsRefused

/-- CAN_HEARTBEAT: the producer period has passed.  The ROM sends its own with state byte 0x7F. -/
def Conc.canHeartbeat (c : Conc) : Conc :=
  let x := c.dict.can
  let ms := c.get O.producerHeartbeat
  if c.canAlive ∧ ms ≠ 0 ∧ x.hbLast + ms * msTicks ≤ c.tick then
    (c.withCan fun y => { y with hbLast := c.tick }).sendFrame (0x700 + x.nodeId) [if c.rom then 0x7F else x.state]
  else c

/-- EMCY_SEND: the oldest queued message, 10 ms after the last. -/
def Conc.emcySend (c : Conc) : Conc :=
  let x := c.dict.can
  let free : Bool := match x.emcyLast with | some t => decide (t + 10 * msTicks ≤ c.tick) | none => true
  match x.emcy with
  | [] => c
  | (code, reg, entry, cause) :: rest =>
    if c.canAlive ∧ c.ringAsleep = false ∧ c.rom = false ∧ x.state ≠ 4 ∧ free then
      (c.withCan fun y => { y with emcy := rest, emcyLast := some c.tick,
                                   history := ((code + entry % 2 ^ 16 * 2 ^ 16) :: y.history).take 8 }).sendFrame
        (0x80 + x.nodeId) (toBytes 2 code ++ [reg % 256] ++ toBytes 2 entry ++ toBytes 3 cause)
    else c

/-- The CAN FD length that takes `n` bytes. -/
def fdLength (n : Nat) : Nat := ([0, 1, 2, 3, 4, 5, 6, 7, 8, 12, 16, 20, 24, 32, 48, 64].find? fun l => n ≤ l).getD 64

/-- The payload of a TPDO: its objects are read in order, in one base tick. -/
def Conc.tpdoPayload (c : Conc) : List (Nat × Nat × Nat) → List Nat × Conc
  | [] => ([], c)
  | (index, sub, len) :: es =>
    match c.readObj index sub with
    | .error _ => c.tpdoPayload es
    | .ok (_, v, d) =>
      let r := d.tpdoPayload es
      (toBytes len v ++ r.1, r.2)

/-- TPDO_SEND of TPDO `k` (1-4). -/
def Conc.tpdoSend (c : Conc) (k : Nat) : Conc :=
  let x := c.dict.can
  let ms := c.get O.tpdoPeriod (k - 1)
  if c.canAlive ∧ c.ringAsleep = false ∧ c.rom = false ∧ x.state = 5 ∧ 1 ≤ k ∧ k ≤ 4 ∧ ms ≠ 0 ∧ Bank.get 0 x.tpdoLast k + ms * msTicks ≤ c.tick then
    let p := c.tpdoPayload (mapEntries (c.get O.tpdoMap) (k - 1))
    let bytes := p.1 ++ List.replicate (fdLength p.1.length - p.1.length) 0
    (p.2.withCan fun y => { y with tpdoLast := Bank.set 0 y.tpdoLast k c.tick }).sendFrame (0x80 + 0x100 * k + x.nodeId) bytes
  else c

end Sys2Proof.Machine
end

