-- ==== Sys2Proof/Machine/ConcStart.lean ====
section
/-! DEFINITION. The boot ladder of the concentrator (R354, R362, R375, R401, R402, R469), the stored set applied (R302), and a takeover's
restore (R385-R388). -/

namespace Sys2Proof.Machine

/-! ## Values applied by source 3 (R302, R385) -/

/-- Apply one value by source 3: one that would be refused is skipped, counted and posted.  `CarouselEnable` starts nothing:
the Carousel starts at the end of the ladder. (DEDUCED, log entry 41) -/
def Conc.applyOne (c : Conc) (o : Obj) (i v : Nat) : Conc :=
  if c.get o i = v then c
  else if o.index = 0x2510 ∧ o.sub = 1 then c.put o v i
  else match o.checkWrite true o.bytes v with
    | .error _ => (c.count O.ownershipConflicts).post 0 0 0x21
    | .ok w =>
      match c.applyWrite 3 0 0 o i o.bytes w with
      | (.ok d, _) => d
      | (.error _, d) => (d.count O.ownershipConflicts).post 0 0 0x21

/-- Apply the stored set, in ascending order of index and sub-index. -/
def Conc.applySet (c : Conc) (set : Od) : Conc :=
  set.foldl (fun c p => match objOfKey p.1 with | some (o, i) => c.applyOne o i p.2 | none => c) c

/-- Write the value in force of every P object of a checkpoint. -/
def Conc.applyAll (c : Conc) (set : Od) : Conc :=
  let keys : Bank (Obj × Nat) := concObjs.foldl (fun b o =>
    if o.persist then (List.range o.count).foldl (fun b i => Bank.insert b (o.key i) (o, i)) b else b) []
  keys.foldl (fun c p => c.applyOne p.2.1 p.2.2 (set.val p.2.1 p.2.2)) c

/-! ## The power-up pass (R354, R362) -/

/-- A RETIRED physical back-end lane gives its logical number to a spare that is not RETIRED (R357). -/
def Conc.laneAssignments (c : Conc) : Conc :=
  (List.range 18).foldl (fun (c : Conc) n =>
    let l := c.logical n
    if (c.lane (laneBe n)).st = .retired ∧ l ≠ 255 then
      let c := c.setLogical n 255
      match (List.range 18).find? fun k => c.logical k = 255 && decide ((c.lane (laneBe k)).st ≠ .retired) with
      | some k => (c.setLogical k l).post 0x01 (laneBe k) 0x13
      | none => c.post 0x01 (laneBe n) 0x14
    else c) c

/-- The pass at power-up: the repair record stands already (R463); `failing` names the resources that fail their test now.
(DEDUCED, log entry 33) -/
def Conc.powerUpPass (c : Conc) (failing : List (Nat × Nat)) : Conc :=
  let c := failing.foldl (fun (c : Conc) r =>
    if (c.health r.1 r.2).st = .retired then c else (c.post r.1 r.2 0x0D).testFailed r.1 r.2) c
  let c := (c.faults.rows.filterMap fun p => if p.2.scheduled then some p.1 else none).foldl (fun c n => c.repairRow n) c
  let c := c.settleClusters.deferredMoves.laneAssignments
  (c.withFaults fun x => { x with lastPass := some c.tick }).saveRepair

/-! ## The ladder (R469) -/

/-- The clocks are locked and stable (step 4); the counter moves to the base clock. -/
def Conc.startClocks (c : Conc) : Conc :=
  let c := ((List.range 34).filter fun k => !(decide (13 ≤ k) && decide (k ≤ 25))).foldl (fun (c : Conc) k =>
    c.setDom (k + 5) { c.dom (k + 5) with stable := true }) c
  let c := (List.range 41).foldl (fun (c : Conc) q => c.lockQuad q) c
  c.counterToBase

/-- RECOVERY: no slot is valid; lanes stay PARKED. (DEDUCED, log entry 39) -/
def Conc.enterRecovery (c : Conc) : Conc :=
  let c := c.parkAll (List.range 164)
  let c := (List.range 164).foldl (fun (c : Conc) i =>
    if (c.lane i).st = .disabled then c.updLane i fun l => { l with st := .parked, since := c.tick } else c) c
  let c := (List.range 41).foldl (fun (c : Conc) q => c.parkQuad q) c
  (c.withBoot fun b => { b with recovery := true, bootSince := none }).setStep 0xFF

/-- The stored set that the boot uses: the newer copy that is valid.  With none the values are defaults, and an entry says
so. -/
def Conc.loadStored (c : Conc) (newerBad olderBad : Bool) : Conc :=
  let set : Option StoredSet := if c.flash.stored.isSome && !newerBad then c.flash.stored
    else if olderBad then none else c.flash.previous
  match set with
  | none => c.post 0 0 0x21
  | some s => (c.withDict fun d => { d with copies := s.fe }).applySet s.conc

/-- Step 10: the lanes that `LaneControl` enables come up, those it parks park. -/
def Conc.startLanes (c : Conc) : Conc :=
  (List.range 164).foldl (fun (c : Conc) i =>
    let e := c.laneCtl i
    if bitAt e 0 then
      let c := c.laneEnable i true
      if bitAt e 1 then c.parkRequest i else c
    else c) c

/-- The end of the ladder: the trial slot is confirmed, the boot watchdog stops. -/
def Conc.bootEnds (c : Conc) : Conc :=
  let c := c.withSec fun s => if s.running = s.preferred then { s with trial := false, tried := false } else s
  ((c.withBoot fun b => { b with bootSince := none }).setStep 13).put O.bootElapsed
    (nearest (c.tick - c.boot.resetTick) msTicks % 2 ^ 32)

/-- The ladder ends in STANDBY, and the Carousel starts (R195). -/
def Conc.bootStandby (c : Conc) : Conc := (c.bootEnds.setPower 3).autoCarousel

/-- Step 11: the pair role is decided (R375).  A unit that prefers standby waits up to 60 ms for a partner that leads. -/
def Conc.bootRole (c : Conc) : Conc :=
  match c.get O.partnerRole with
  | 0 => (c.setPair 7).bootStandby
  | 1 => (c.setPair 1).bootStandby
  | _ =>
    let leads : Bool := match c.pair.hbLast with
      | some t => decide (c.tick ≤ t + 60 * msTicks) && (c.pair.hbState == 0 || c.pair.hbState == 1 || c.pair.hbState == 3)
      | none => false
    if leads then c.enterCold.bootEnds
    else (c.withPair fun x => { x with decideBy := some (c.tick + 60 * msTicks) }).setStep 11

/-- Steps 6 to 13, once HBM is warm. -/
def Conc.bootWarm (c : Conc) (pins : Nat) (failing : List (Nat × Nat)) (newerBad olderBad : Bool) : Conc :=
  let c := (c.reloadRepair newerBad olderBad).powerUpPass failing
  let s := c.sec.select c.inTime
  let back : Bool := s.1 != 0xFF && s.1 != c.sec.preferred
  let c := c.withSec fun _ => { s.2 with running := s.1, fellBack := back }
  if s.1 = 0xFF then c.enterRecovery
  else
    let n := satAdd 32 c.flash.resetCount 1
    let c := ({ c with flash := { c.flash with resetCount := n } } : Conc).put O.resetCount n
    let c := if back then c.postEntry 6 0x21 0 0 0 0 0 else c
    let c := ((c.fill 0 firmwareBytes).loadStored newerBad olderBad).takeSizes
    ((c.setStep 10).resetComm pins).startLanes.bootRole

/-- Step 2 of a power-on boot: D0 starts on its RC, and returns to a crystal that has been alive for 1 s (R336). -/
def Conc.aoStarts (c : Conc) : Conc :=
  let settled : Bool := match (c.dom 0).aliveSince with
    | some t => !(c.dom 0).dead && decide (t + secTicks ≤ c.tick) && decide (c.get O.aoSource = 0)
    | none => false
  if c.boot.step = 1 ∧ c.get O.resetCause = 1 ∧ settled = false then c.put O.aoOnFallback 1 else c

/-- BOOT_LADDER: from release, or on from the end of the warm-up.  `cold` says that an HBM sensor reads below 0 degrees at
step 5. (DEDUCED, log entry 39) -/
def Conc.bootLadder (c : Conc) (pins : Nat) (cold : Bool) (failing : List (Nat × Nat)) (newerBad olderBad : Bool) : Conc :=
  if c.boot.inReset then c
  else
  let c := c.aoStarts
  if c.boot.step = 6 then c.bootWarm pins failing newerBad olderBad
  else if 4 < c.boot.step then c
  else if (c.dom 4).dead then c.setStep 4
  else
    let c := c.startClocks
    if cold then c.warmup
    else ((c.withBoot fun b => { b with bootSince := some c.tick }).setStep 6).bootWarm pins failing newerBad olderBad

/-- ROLE_DECISION: the wait is over without a partner that leads; the unit leads, and the ladder ends. -/
def Conc.roleDecided (c : Conc) : Conc :=
  let d := c.roleDecision
  if c.pair.state = 0 ∧ d.pair.state ≠ 0 then d.bootStandby else d

/-- HEARTBEAT: one that arrives during the wait ends it in COLD_STANDBY. -/
def Conc.heartbeatIn (c : Conc) (w : Word) (other : Nat) : Conc :=
  let d := c.heartbeat w other
  if c.pair.state = 0 ∧ d.pair.state = 2 then d.bootEnds else d

/-! ## Takeover (R385-R388) -/

/-- The image of the task-image area whose measurement a slot of the checkpoint names. -/
def Conc.imageOf (c : Conc) (measurement : Nat) : Option (Nat × Nat) :=
  c.flash.images.find? fun p => ofBytes ((toBytes p.1 p.2).drop 32 |>.take 64) == measurement

/-- A slot is loaded again from the task-image area, verified against this unit's own owner key. -/
def Conc.reloadSlot (c : Conc) (k measurement : Nat) : Conc :=
  match c.imageOf measurement with
  | none => c
  | some p =>
    match ({ c with eng := { c.eng with staged := p } } : Conc).taskLoad k with
    | (.ok d, _) => d
    | (.error _, d) => d

/-- The checkpoint is restored by source 3; without one the unit keeps its own stored set. (DEDUCED, log entry 38) -/
def Conc.restoreCheckpoint (c : Conc) : Conc :=
  let c := c.endSession
  match c.pair.held with
  | none => c.post 0 0 0x27
  | some k =>
    let c := c.applyAll k.od
    let c := k.ports.foldl (fun (c : Conc) p => c.setLease p.1 { c.lease p.1 with serial := p.2.serial, side := p.2.side }) c
    let c := c.withDict fun d => { d with copies := k.copies }
    let c := k.times.foldl (fun (c : Conc) p =>
      c.setPtime p.1 { c.ptime p.1 with lat := p.2.lat, trip := p.2.trip, residue := p.2.residue, found := decide (p.2.residue < 9), onOdd := p.2.onOdd, valid := false, measured := none,
                                        restored := p.2.valid || p.2.restored }) c
    let c := (c.put O.incrementBase k.incBase).put O.incrementAo k.incAo
    if k.pwHash = 0 then c else { c with flash := { c.flash with pwHash := some k.pwHash } }

/-- COUNTER_TO_BASE: the base clock runs again on a wake.  In a takeover the alignment is armed and the checkpoint restored.
(DEDUCED, log entry 38) -/
def Conc.counterBack (c : Conc) : Conc :=
  let d := c.baseBack
  match d.pair.takeover with
  | none => d
  | some t =>
    if t.restored ∨ d.time.onAo then d
    else
      let d := d.withPair fun x => { x with takeover := some { t with restored := true } }
      (d.fill 0 firmwareBytes).restoreCheckpoint.armTakeover

/-- The instances that `InstanceConfig` names start from their entry. -/
def Conc.startConfigured (c : Conc) : Conc :=
  (List.range 384).foldl (fun (c : Conc) i =>
    if (c.instanceCfg i).1 = 0xFF then c else match c.startInstance i with | .ok d => d | .error _ => c) c

/-- TAKEOVER_COMPLETE: step 9 of R388. (DEDUCED, log entry 38) -/
def Conc.takeoverComplete (c : Conc) : Conc :=
  match c.pair.takeover with
  | none => c
  | some t =>
    if c.pair.state ≠ 3 ∨ t.restored = false then c
    else
      let slots := match c.pair.held with | some k => k.slots | none => []
      let c := ((c.withPwr fun x => { x with target := none, wakeStart := none }).setPower 3).autoCarousel
      let c := slots.foldl (fun (c : Conc) s => c.reloadSlot s.1 s.2.2) c
      let c := c.startConfigured
      let c := (c.withPair fun x => { x with takeover := none }).setPair 1
      let c := (c.put O.lastFailoverCause t.cause).put O.lastFailoverTime (min (nearest (c.tick - t.start) msTicks) 65535)
      (c.count O.failovers).post 0 0 0x26

/-! ## Marks and observation (R173) -/

/-- Step 8 of a takeover: with its first LIVE port the Carousel starts (R388). (DEDUCED, log entry 38) -/
def Conc.takeoverCarousel (c : Conc) (p : Nat) : Conc :=
  if c.pair.takeover.any (fun t => t.restored) ∧ (c.gport p).st = .live then c.autoCarousel else c

/-- GATHER_CELL_TAKE: with the first mark that can be placed, the front-end of a port is commanded into OBSERVE. -/
def Conc.cellTake (c : Conc) (l : Nat) : Conc :=
  let p := l / 2
  let d := (c.gatherTake l).takeoverCarousel p
  if c.pwr.state = 4 ∧ (c.gport p).epoch.isNone ∧ (d.gport p).epoch.isSome ∧ d.acts p then d.requestObserve p else d

end Sys2Proof.Machine
end

