-- ==== Sys2Proof/Machine/Flags.lean ====
section
/-! DEFINITION. The conditions under which a part takes a command: what runs, by reset, boot step, power state and gate. -/

namespace Sys2Proof.Machine

/-- The firmware of the concentrator runs: out of reset, from step 10 of the boot ladder on, not in RECOVERY (R402, R469).
(DEDUCED, log entry 9) -/
def Conc.runs (c : Conc) : Bool :=
  !c.boot.inReset && decide (10 ≤ c.boot.step) && decide (c.boot.step ≤ 13) && !c.boot.recovery

/-- The firmware runs, and the Ringmaster's clock with it (R343). (DEDUCED, log entry 9) -/
def Conc.ringUp (c : Conc) : Bool := c.runs && !c.ringAsleep

/-- What the Ringmaster does on a timer of its own, while its clock runs. -/
def Conc.awake (c : Conc) (g : Conc → Conc) : Conc := if c.ringAsleep then c else g c

/-- The firmware runs and the base clock with it (R343). (DEDUCED, log entry 9) -/
def Conc.baseUp (c : Conc) : Bool := c.runs && c.baseRuns

/-- The base clock runs: from step 4 of the boot on, and in every power state that has it (R343, R469).
(DEDUCED, log entry 9) -/
def Conc.baseClock (c : Conc) : Bool :=
  !c.boot.inReset && decide (4 < c.boot.step) && (c.boot.step != 13 || c.baseRuns)

/-- The converter and the loop coprocessor run: in every power state but CLOCK_LOST, while D5 has a source (R333, R343). (DEDUCED, log entry 9) -/
def Conc.analogUp (c : Conc) : Bool := c.runs && c.pwr.state != 6 && !c.noSource 5

/-- The Safety Net has its supply; no reset and no power state stops it (R451, R463). (DEDUCED, log entry 9) -/
def Conc.safetyUp (c : Conc) : Bool := c.boot.supplyOk && !c.boot.overTemp

end Sys2Proof.Machine
end

