-- ==== Sys2Proof/WellFormed.lean ====
section
/-! DEFINITION. Which operands a command may have: the unit numbers that the part has, the widths of the fields of R7, the opcodes of
the words that R128 and R130 give each command. -/

namespace Sys2Proof

/-- The opcode of a class-0 word, bits [63:56] (R128, R130). -/
def opcodeIs (op : Nat) (w : Word) : Bool := decide (w.toNat / 2 ^ 56 = op)

/-- A lane end that receives: an ingress, back-end or peer lane, or a downlink at the front-end (R94). -/
def LaneRef.receives : LaneRef → Bool
  | .conc i => decide (48 ≤ i ∧ i < 164)
  | .feDown side => decide (side < 2)
  | .feUp _ => false

/-- A lane end that sends and keeps a replay buffer: any of the concentrator, or an uplink at the front-end (R94, R136). -/
def LaneRef.sends : LaneRef → Bool
  | .conc i => decide (i < 164)
  | .feDown _ => false
  | .feUp n => decide (n < 4)

/-- A lane end of the front-end. -/
def LaneRef.onFe : LaneRef → Bool
  | .conc _ => false
  | .feDown side => decide (side < 2)
  | .feUp n => decide (n < 4)

/-- A way that exists: side A or B; back-end lanes 0-17 and peer lanes 0-1, class 1 or 3 (R315). -/
def Path.ok : Path → Bool
  | .feDown side => decide (side < 2)
  | .backEnd n cls => decide (n < 18) && (cls == 1 || cls == 3)
  | .peer n cls => decide (n < 2) && (cls == 1 || cls == 3)

/-- The operands of a command are ones it may have. (DESIGN CHOICE, log entry 8) -/
def Instr.wf : Instr → Bool
  | .timingCrossing c beat code _ _ => decide (c < 256) && decide (beat < 32) && decide (code < 256)
  | .trailingEdge c fine _ _ => decide (c < 256) && decide (fine < 8192)
  | .totSaturated c beat _ _ => decide (c < 256) && decide (beat < 32)
  | .lostHitReportFull c => decide (c < 256)
  | .baselineSaturationChange c _ => decide (c < 256)
  | .channelTableWrite side index sub _ _ => decide (side < 2) && decide (index < 2 ^ 16) && decide (sub < 2 ^ 8)
  | .channelSettleEnd c => decide (c < 256)
  | .spareAssignWrite side g v => decide (side < 2) && decide (g < 16) && decide (v < 2 ^ 8)
  | .spareBlankEnd c => decide (c < 256)
  | .baselineStatusRead side => decide (side < 2)
  | .secondMark side w age _ => decide (side < 2) && opcodeIs 0x01 w && decide (age < 64)
  | .culletHistogramFull g k => decide (g < 16) && decide (k < 17)
  | .culletTableComputed g k => decide (g < 16) && decide (k < 17)
  | .pulserInject g beat code => decide (g < 16) && decide (beat < 32) && decide (code < 256)
  | .culletTableLoad side _ _ => decide (side < 2)
  | .culletFreezeWrite side v => decide (side < 2) && decide (v < 2 ^ 16)
  | .histogramExponentWrite side v => decide (side < 2) && decide (v < 2 ^ 8)
  | .timeCorrectionWrite side index sub _ _ => decide (side < 2) && decide (index < 2 ^ 16) && decide (sub < 2 ^ 8)
  | .groupRequestWake side mask => decide (side < 2) && decide (mask < 2 ^ 16)
  | .groupRequestSleep side mask => decide (side < 2) && decide (mask < 2 ^ 16)
  | .groupWake side w => decide (side < 2) && opcodeIs 0x03 w
  | .groupSleep side w => decide (side < 2) && opcodeIs 0x04 w
  | .groupPowerModeWrite side g v => decide (side < 2) && decide (g < 16) && decide (v < 2 ^ 8)
  | .aoActivitySample g => decide (g < 16)
  | .groupPllLocked g => decide (g < 16)
  | .groupDllLocked g => decide (g < 16)
  | .groupWakeComplete g => decide (g < 16)
  | .groupIdleTimeout g => decide (g < 16)
  | .groupLockLoss g => decide (g < 16)
  | .sorterTake g _ => decide (g < 16)
  | .sorterRelease g _ => decide (g < 16)
  | .uplinkSlot side => decide (side < 2)
  | .sorterStatusRead side g => decide (side < 2) && decide (g < 16)
  | .signalDetect l => l.receives
  | .signalLoss l => l.receives
  | .cdrLocked l => l.receives
  | .cdrLockTimeout l => l.receives
  | .cellArrival l _ => l.receives
  | .tightropeJudge x => decide (48 ≤ x ∧ x < 144)
  | .tightropeRetry x => decide (48 ≤ x ∧ x < 144)
  | .trainDetectSense x _ => decide (144 ≤ x ∧ x < 164)
  | .trainDwellEnd x => decide (144 ≤ x ∧ x < 164)
  | .trainingTimeout x => decide (144 ≤ x ∧ x < 164)
  | .trainHoldoffEnd x => decide (144 ≤ x ∧ x < 164)
  | .laneParkRequest src x => decide (src ≤ 2) && decide (x < 164)
  | .parkEntry x => decide (x < 164)
  | .laneUnpark src x => decide (src ≤ 2) && decide (x < 164)
  | .unparkDeadline l => l.receives
  | .prbsTestStart src x code => decide (src ≤ 2) && decide (x < 164) && decide (code < 4)
  | .fePrbsTestStart side l code => decide (side < 2) && l.onFe && decide (code < 4)
  | .fePrbsTestStop side l => decide (side < 2) && l.onFe
  | .prbsDurationEnd l => l.onFe
  | .quadPllLockLoss _ n => decide (n < 41)
  | .quadPllRelock _ n => decide (n < 41)
  | .txSlot x => decide (x < 164)
  | .replayTimerExpiry l => l.sends
  | .ackProgressTimeout l => l.sends
  | .answerTimeout l => l.sends
  | .mgmtRead p tid index sub _ => p.ok && decide (tid < 2 ^ 16) && decide (index < 2 ^ 16) && decide (sub < 2 ^ 8)
  | .mgmtWrite p tid index sub len _ _ => p.ok && decide (tid < 2 ^ 16) && decide (index < 2 ^ 16) && decide (sub < 2 ^ 8) && decide (len < 2 ^ 16)
  | .mgmtReadAt p tid index sub off cnt _ => p.ok && decide (tid < 2 ^ 16) && decide (index < 2 ^ 16) && decide (sub < 2 ^ 8) && decide (off < 2 ^ 32) && decide (cnt < 2 ^ 16)
  | .mgmtWriteAt p tid index sub off _ len _ _ => p.ok && decide (tid < 2 ^ 16) && decide (index < 2 ^ 16) && decide (sub < 2 ^ 8) && decide (off < 2 ^ 32) && decide (len < 2 ^ 16)
  | .mgmtResponse l _ => decide (l < 96)
  | .echoRequest side w _ => decide (side < 2) && opcodeIs 0x02 w
  | .echoReply l w beat _ => decide (l < 96) && opcodeIs 0x11 w && decide (beat < 32)
  | .leaseRenew side w => decide (side < 2) && opcodeIs 0x05 w
  | .leaseClaim side w _ => decide (side < 2) && opcodeIs 0x06 w
  | .leaseAck l w => decide (l < 96) && opcodeIs 0x12 w
  | .feFault l w => decide (l < 96) && opcodeIs 0x13 w
  | .beEchoRequest n w _ => decide (n < 18) && opcodeIs 0x40 w
  | .ppsEdge _ _ => true
  | .alignArmWrite src v => decide (src ≤ 2) && decide (v < 2 ^ 8)
  | .incrementWrite src _ _ => decide (src ≤ 2)
  | .secondMarkSend p => decide (p < 48)
  | .tiuRunStart src => decide (src ≤ 2)
  | .tiuRunAbort src => decide (src ≤ 2)
  | .tiuStartEdge beat _ => decide (beat < 32)
  | .tiuStopEdge beat _ => decide (beat < 32)
  | .latencyPeriodDue p => decide (p < 48)
  | .timeNowRead src => decide (src ≤ 2)
  | .ppsCaptureRead src => decide (src ≤ 2)
  | .gatherCellTake l => decide (l < 96)
  | .laneStaleTimeout l => decide (l < 96)
  | .carouselStart src => decide (src ≤ 2)
  | .carouselStop src => decide (src ≤ 2)
  | .triginEdge n _ beat code _ => decide (n < 4) && decide (beat < 32) && decide (code < 256)
  | .lookbackRequest n w1 w2 => decide (n < 18) && opcodeIs 0x41 w1 && opcodeIs 0x42 w2
  | .extractionStart ch => decide (ch < 4)
  | .extractionComplete ch => decide (ch < 4)
  | .carouselStatusRead src => decide (src ≤ 2)
  | .engineInstruction e => decide (e < 96)
  | .qpop e => decide (e < 96)
  | .qpeek e => decide (e < 96)
  | .qtime e => decide (e < 96)
  | .qhist e => decide (e < 96)
  | .qtrig e => decide (e < 96)
  | .qemit e => decide (e < 96)
  | .qwait e => decide (e < 96)
  | .qslice e => decide (e < 96)
  | .resultReturn x rd => decide (x < 384) && decide (rd < 32)
  | .feedDataArrival x _ => decide (x < 384)
  | .ecallExit e => decide (e < 96)
  | .ecallSetRestart e => decide (e < 96)
  | .ecallLog e => decide (e < 96)
  | .serviceComplete x => decide (x < 384)
  | .instanceStart src => decide (src ≤ 2)
  | .instanceSuspend src => decide (src ≤ 2)
  | .instanceResume src => decide (src ≤ 2)
  | .instanceKill src => decide (src ≤ 2)
  | .drainComplete x => decide (x < 384)
  | .instanceRestart src => decide (src ≤ 2)
  | .instanceRunnable x => decide (x < 384)
  | .taskLoad src k => decide (src ≤ 2) && decide (k < 2 ^ 8)
  | .taskUnload src k => decide (src ≤ 2) && decide (k < 2 ^ 8)
  | .parityRestart x => decide (x < 384)
  | .clusterIdleTimeout k => decide (k < 13)
  | .clusterWakeComplete k => decide (k < 13)
  | .moverTailWrite ch v => decide (ch < 32) && decide (v < 2 ^ 16)
  | .moverResume ch => decide (ch < 32)
  | .moverAbort ch => decide (ch < 32)
  | .moverCopy ch _ => decide (ch < 32)
  | .moverScatter ch _ => decide (ch < 32)
  | .moverFill ch _ => decide (ch < 32)
  | .moverSend ch _ => decide (ch < 32)
  | .moverCompress ch _ => decide (ch < 32)
  | .moverCrc ch _ => decide (ch < 32)
  | .descriptorComplete ch => decide (ch < 32)
  | .marverBlockFlush ch => decide (ch < 32)
  | .flipArmWrite src v => decide (src ≤ 2) && decide (v < 2 ^ 8)
  | .eccLastErrorRead src => decide (src ≤ 2)
  | .class0ResidenceRead src => decide (src ≤ 2)
  | .usdoRequest session _ index sub _ _ _ _ => decide (session < 128) && decide (index < 2 ^ 16) && decide (sub < 2 ^ 8)
  | .nmtResetNode pins => decide (pins < 2 ^ 8)
  | .nmtResetCommunication pins => decide (pins < 2 ^ 8)
  | .tpdoSend k => decide (1 ≤ k ∧ k ≤ 4)
  | .storeAll src k v => decide (src ≤ 2) && decide (k < 4) && decide (v < 2 ^ 32)
  | .restoreDefaults src k v => decide (src ≤ 2) && decide (k < 4) && decide (v < 2 ^ 32)
  | .sessionOpen src _ _ => decide (src ≤ 2)
  | .sessionClose src v => decide (src ≤ 2) && decide (v < 2 ^ 8)
  | .passwordChange src _ => decide (src ≤ 2)
  | .stagingTimeout _ src index sub => decide (src ≤ 2) && decide (index < 2 ^ 16) && decide (sub < 2 ^ 8)
  | .errorHistoryClear src v => decide (src ≤ 2) && decide (v < 2 ^ 8)
  | .registerWrite _ src index sub _ _ => decide (src ≤ 2) && decide (index < 2 ^ 16) && decide (sub < 2 ^ 8)
  | .clockSourceDead _ n => decide (n < 41)
  | .clockSourceAlive _ n => decide (n < 41)
  | .stabilityWindow _ n _ => decide (n < 41)
  | .aoTrimWindow _ _ => true
  | .meterRun src v => decide (src ≤ 2) && decide (v < 2 ^ 8)
  | .meterGateEnd count => decide (count < 2 ^ 32)
  | .clockGateWrite _ src busy v => decide (src ≤ 2) && decide (busy < 2 ^ 16) && decide (v < 2 ^ 16)
  | .gateForce _ b => decide (b < 12)
  | .powerRequestAsleep src => decide (src ≤ 2)
  | .powerRequestColdStandby src => decide (src ≤ 2)
  | .powerRequestStandby src => decide (src ≤ 2)
  | .powerRequestObserve src => decide (src ≤ 2)
  | .feModeRequestSleep side => decide (side < 2)
  | .feModeRequestStandby side => decide (side < 2)
  | .feModeRequestObserve side => decide (side < 2)
  | .faultDecrement _ => true
  | .resourceSelfTestStart _ kind num => decide (kind < 2 ^ 8) && decide (num < 2 ^ 16)
  | .resourceSelfTestComplete _ kind num _ => decide (kind < 2 ^ 8) && decide (num < 2 ^ 16)
  | .annealRun src => decide (src ≤ 2)
  | .annealPassComplete _ => true
  | .feAnnealRun side => decide (side < 2)
  | .feAnnealComplete _ => true
  | .hbmScrubLine _ k _ check => decide (k < 8) && decide (check < 2 ^ 8)
  | .sramScrubWord _ check => decide (check < 2 ^ 8)
  | .scrubLineRetry _ _ => true
  | .feConfigScrub _ _ _ => true
  | .faultLogAck src v => decide (src ≤ 2) && decide (v < 2 ^ 32)
  | .feRetiredRestoreWrite side _ => decide (side < 2)
  | .leaseRenewSend p => decide (p < 48)
  | .leaseClaimSend p => decide (p < 48)
  | .heartbeat n w _ => decide (n < 2) && opcodeIs 0x50 w
  | .heartbeatTime n w => decide (n < 2) && opcodeIs 0x51 w
  | .relinquish n w => decide (n < 2) && opcodeIs 0x52 w
  | .takeoverRequest n w => decide (n < 2) && opcodeIs 0x53 w
  | .checkpointReceive _ _ => true
  | .checkpointImageReceive _ _ => true
  | .partnerRelinquish src => decide (src ≤ 2)
  | .partnerRequestTakeover src => decide (src ≤ 2)
  | .partnerForceTakeover src => decide (src ≤ 2)
  | .standbySelfTestStep _ => true
  | .ownerKeyEnrol src _ _ => decide (src ≤ 2)
  | .firmwareFloorCommit src v => decide (src ≤ 2) && decide (v < 2 ^ 8)
  | .ownerFloorCommit src v => decide (src ≤ 2) && decide (v < 2 ^ 8)
  | .firmwareImageVerify src _ _ => decide (src ≤ 2)
  | .firmwareActivate src v => decide (src ≤ 2) && decide (v < 2 ^ 8)
  | .attestRun src v => decide (src ≤ 2) && decide (v < 2 ^ 8)
  | .debugToken src _ => decide (src ≤ 2)
  | .debugLock src v => decide (src ≤ 2) && decide (v < 2 ^ 8)
  | .adcStart src => decide (src ≤ 2)
  | .adcDataRead src => decide (src ≤ 2)
  | .loopConversionRequest l _ => decide (l < 16)
  | .adcConversionComplete _ _ => true
  | .maxLoopDelayRead src => decide (src ≤ 2)
  | .loopSample l => decide (l < 16)
  | .loopClearFault src l => decide (src ≤ 2) && decide (l < 16)
  | .loopTuneStart src l => decide (src ≤ 2) && decide (l < 16)
  | .loopTuneAccept src l => decide (src ≤ 2) && decide (l < 16)
  | .loopTuneAbort src l => decide (src ≤ 2) && decide (l < 16)
  | .loopSetpointWrite src _ => decide (src ≤ 2)
  | .loopGainsWrite src _ => decide (src ≤ 2)
  | .loopStatusRead src => decide (src ≤ 2)
  | .flashFire src v => decide (src ≤ 2) && decide (v < 2 ^ 8)
  | .ledComplianceLoss n => decide (n < 16)
  | .feedbackRunStart src => decide (src ≤ 2)
  | .feedbackRunAbort src => decide (src ≤ 2)
  | .feedbackStep _ => true
  | .safetyInputChange n _ => decide (n < 4)
  | .biasRequestWrite src v => decide (src ≤ 2) && decide (v < 2 ^ 8)
  | .relayFeedbackCheck k _ => decide (k < 2)
  | .testPulseStart k => decide (k < 2)
  | .testPulseEnd _ _ => true
  | .stimulusTest _ _ => true
  | .safetyClearFault src => decide (src ≤ 2)
  | .safetyRunStimulus src _ _ => decide (src ≤ 2)
  | .safetyBundleWrite src _ => decide (src ≤ 2)
  | .brownOut _ => true
  | .supplyRelease _ => true
  | .rstNAssert _ _ => true
  | .rstNRelease _ => true
  | .rstNStuck _ => true
  | .resetCommand src v => decide (src ≤ 2) && decide (v < 2 ^ 32)
  | .feResetCommand side v => decide (side < 2) && decide (v < 2 ^ 32)
  | .softwareResetDue _ => true
  | .bootLadder pins _ _ _ _ => decide (pins < 2 ^ 8)
  | .feBootLadder _ => true
  | .dieOvertempWarning _ _ => true
  | .dieOvertempShutdown _ _ => true
  | .probeSelectWrite _ src n v => decide (src ≤ 2) && decide (n < 8) && decide (v < 2 ^ 32)
  | .tapInstructionUpdate _ _ => true
  | .tapTokenUpdate _ => true
  | .dmiAccess op addr v => decide (op < 4) && decide (addr < 2 ^ 8) && decide (v < 2 ^ 32)
  | .prbsCheckerLock l => l.receives
  | .prbsBitError l _ => l.receives
  | .prbsTestStop src x => decide (src ≤ 2) && decide (x < 164)
  | .laneEnableWrite src x _ => decide (src ≤ 2) && decide (x < 164)
  | .portEnableWrite src _ => decide (src ≤ 2)
  | .ledComplianceRestored n => decide (n < 16)
  | .excitationComplianceChange k _ => decide (k < 2)
  | .rstNStuckRearm _ => true
  | .dieOvertempRecovery _ _ => true
  | .usdoTimeout session => decide (session < 128)
  | .secondMarkExecute => true
  | .flywheelEpochStart => true
  | .rateWindowEnd => true
  | .mergerTake => true
  | .scalerIntervalEnd => true
  | .rollover => true
  | .ppsWindowClose => true
  | .counterToAo => true
  | .counterToBase => true
  | .tiuEchoSend => true
  | .tiuSampleTimeout => true
  | .horizonAdvance => true
  | .sliceComplete => true
  | .channelRatesPublish => true
  | .randomTrigger => true
  | .entryReady => true
  | .fillTimeout => true
  | .prescaleGrid1ms => true
  | .prescaleGrid10ms => true
  | .qwaitLimitExpiry => true
  | .class0CellBuild => true
  | .bulkRecordClose => true
  | .nmtStart => true
  | .nmtStop => true
  | .nmtEnterPreOperational => true
  | .canHeartbeat => true
  | .emcySend => true
  | .sessionTimeout => true
  | .passwordLockoutEnd => true
  | .relayRepeat => true
  | .relayTimeout => true
  | .aoCrystalReturn => true
  | .wakeAtAlarm => true
  | .wakeLadderComplete => true
  | .feSleepPark => true
  | .feWakeComplete => true
  | .annealBudgetExpiry => true
  | .leaseExpiry => true
  | .localLeaseExpiry => true
  | .lockstepFailure => true
  | .failedHeartbeatEnd => true
  | .heartbeatSend => true
  | .heartbeatLoss => true
  | .takeoverComplete => true
  | .takeoverClaimTimeout => true
  | .checkpointPush => true
  | .roleDecision => true
  | .attestComplete => true
  | .adcCalibration => true
  | .tuneTimeout => true
  | .flashStart => true
  | .flashEnd => true
  | .releaseDelayEnd => true
  | .watchdogRestart => true
  | .watchdogExpiry => true
  | .bootWatchdogExpiry => true
  | .warmupComplete => true
  | .warmupLimit => true
  | .buckStop => true
  | .buckRestart => true

end Sys2Proof
end

