-- ==== Sys2Proof/Machine/Operands.lean ====
section
/-! DEFINITION. The forms in which a command names what it acts on: an object of a part by a source, an entry of a table, a word
that a lane has delivered, a block that a gate may stop. -/

namespace Sys2Proof.Machine

/-! ## Objects by source (R303) -/

/-- The lane on which a source's accesses come where the command names none: back-end lane 0, peer lane 0.
(DESIGN CHOICE, log entry 10) -/
def sourceLane (src : Nat) : Nat := if src = 1 then 144 else if src = 2 then 162 else 0

/-- A whole write of position `i` of an object of the concentrator. -/
def Conc.hw (c : Conc) (src : Nat) (o : Obj) (v : Nat) (i : Nat := 0) : Conc :=
  c.hostWrite src (sourceLane src) 0 o.index (o.sub + i) o.bytes v

/-- A write of any index of the concentrator's map by a source. -/
def Conc.registerWrite (c : Conc) (src index sub len v : Nat) : Conc :=
  if isWindow index then c.windowWrite src { tid := 0, op := 2, index := index, sub := sub, len := len, val := v }
  else (c.powerWake src index (v % 256)).hostWrite src (sourceLane src) 0 index sub len v

/-- A write of `PowerRequest` (R344). -/
def Conc.powerWrite (c : Conc) (src v : Nat) : Conc := (c.powerWake src O.powerRequest.index v).hw src O.powerRequest v

/-- A whole read of an object of the concentrator. -/
def Conc.hr (c : Conc) (src : Nat) (o : Obj) : Conc := c.hostRead src o.index o.sub

/-- A write whose effect `g` depends on more than the value written, with the checks of every write; `a` is what waits where the
Ringmaster sleeps. -/
def Conc.hwWith (c : Conc) (src : Nat) (o : Obj) (v : Nat) (a : CanAccess) (g : Conc → Res Conc) : Conc :=
  let c := c.heard src
  if c.listens src = false then c.keepForWake src a
  else
    let c := c.sessionTouch src
    if c.romRefuses o.index true then c.recordAbort src Abort.noObject o.index o.sub 0
    else match o.checkWrite (c.mayLock src) o.bytes v with
      | .error a => c.recordAbort src (c.refusal o.index o.sub a) o.index o.sub 0
      | .ok _ =>
        match g c with
        | .ok d => d.noteChange o
        | .error a => c.recordAbort src a o.index o.sub 0

/-- A CAN access that waited for the wake is executed (R344). (DESIGN CHOICE, log entry 42) -/
def Conc.replayAccess (c : Conc) : CanAccess → Conc
  | .write lane busy index sub len v =>
    if isWindow index then c.registerWrite 0 index sub len v else c.hostWrite 0 lane busy index sub len v
  | .read index sub => c.hostRead 0 index sub
  | .usdo session write index sub len val toggle last => c.usdoRequest session write index sub len val toggle last
  | .nmtState code => c.nmtState code
  | .resetComm pins => c.nmtResetComm pins
  | .resetNode pins => c.nmtResetNode pins
  | .enrol hash cut => c.hwWith 0 O.ownerKeyHash hash (.enrol hash cut) fun c => c.enrolOwner hash cut
  | .stimulus rose fell => c.hwWith 0 O.safetyCommand 2 (.stimulus rose fell) fun c => c.safetyRunStimulus 0 rose fell

/-- The Ringmaster resumes at step 5 of the wake (R345), and what came over CAN before is executed in its order (R344).
(DEDUCED, log entry 36) -/
def Conc.resume (c : Conc) : Conc :=
  if (c.pwr.ringStopped = false ∧ c.dict.can.waiting = []) ∨ c.pwr.state = 1 ∨ c.pwr.state = 6 ∨ (c.pwr.state = 5 ∧ c.time.onAo) then c
  else
    let held := c.dict.can.waiting
    let c := (c.withPwr fun x => { x with ringStopped := false }).withCan fun x => { x with waiting := [] }
    held.foldl (fun c a => c.replayAccess a) c

/-- A write of one lane's entry of `LaneControl`, the others as they are (R117). -/
def Conc.laneBits (c : Conc) (src i : Nat) (g : Nat → Nat) : Conc :=
  c.hw src O.laneControl (entryUpd 8 (c.get O.laneControl) i g)

/-- A whole write of position `i` of an object of the front-end, on the downlink of a side. -/
def Fe.hw (f : Fe) (side : Nat) (o : Obj) (v i : Nat) : Fe := f.hostWrite side 0 o.index (o.sub + i) o.bytes v

/-- A write of one lane's code in `UplinkPrbsMode` or `DownlinkPrbsMode`, the others as they are (R103).
(DEDUCED, log entry 17) -/
def Fe.prbsWrite (f : Fe) (side : Nat) (l : LaneRef) (code : Nat) : Fe :=
  match l with
  | .feDown k => f.hw side O.downlinkPrbsMode (entrySet 4 (f.get O.downlinkPrbsMode) k code) 0
  | .feUp n => f.hw side O.uplinkPrbsMode (entrySet 4 (f.get O.uplinkPrbsMode) n code) 0
  | .conc _ => f

/-- A fast command is obeyed only from the leased downlink (R130). -/
def Fe.fast (f : Fe) (side : Nat) (g : Fe → Fe) : Fe := if f.holder = side + 1 then g f else f

/-- A gated block does nothing (R340). -/
def Conc.ungated (c : Conc) (b : Nat) (g : Conc → Conc) : Conc := if c.gated b then c else g c

end Sys2Proof.Machine
end

