-- ==== Sys2Proof/Machine/State.lean ====
section
/-! DEFINITION. The state of the block: a front-end, a concentrator and the queue of the commands that wait; the reasons to stop;
the state after reset. -/

namespace Sys2Proof.Machine

/-- One front-end, QDR-F256, one concentrator, QDR-C96, and the commands that wait, first in, first out.
(DESIGN CHOICE, log entry 10) -/
structure State where
  fe : Fe := {}
  conc : Conc := {}
  pending : List Instr := []
  deriving DecidableEq, Repr

/-- Why a command stops. -/
inductive Fault where
  /-- Raised by every meaning on operands that no part has, such as channel 256 (`Instr.wf`).  Safe: the hardware has no such command. -/
  | illFormed
  deriving DecidableEq, Repr

/-- Why a command has no answer. -/
inductive Refusal where
  /-- Raised by an arm of `exec` whose command has no meaning yet.  Safe: nothing is claimed of it. -/
  | notModelled (mnemonic : String)
  deriving DecidableEq, Repr

/-- What a command answers. -/
abbrev StepOutcome := Host.Outcome State Fault Refusal

/-- The concentrator just released from a power-on reset, before its boot ladder (R463, R469).  Every object holds its default
but the reset cause; the counter runs on the AO clock from 0.  Firmware slot A is valid with version 0
(DESIGN CHOICE, log entry 1). -/
def Conc.reset : Conc :=
  { od := Od.put [] O.resetCause 1,
    time := { onAo := true, aoThisSecond := true },
    pwr := { doms := [(0, { aliveSince := some 0 })] },
    dict := { can := { nodeId := 127 } },
    gather := { secs := [(0, (0, 45812984491))] },
    sec := { slotA := { valid := true } } }

/-- The front-end just released from a power-on reset, before its boot ladder (R463, R472). (DESIGN CHOICE, log entry 1) -/
def Fe.reset : Fe := { od := Od.put [] O.feResetCause 1 }

/-- The machine right after reset: both parts released, nothing in memory, no command waiting.
(DESIGN CHOICE, log entry 1) -/
def State.reset : State := { fe := Fe.reset, conc := Conc.reset, pending := [] }

end Sys2Proof.Machine
end

