-- ==== Sys2Proof/Machine/Ops.lean ====
section
/-! DEFINITION. The operations of the whole block: a command runs, on the part it names, under the conditions of that part; the
tick of both parts; and the effects that need more than one chapter. -/

namespace Sys2Proof.Machine

/-! ## Running a command -/

/-- A well-formed command has its effect; any other stops. -/
def State.run (i : Instr) (s : State) (g : State → State) : StepOutcome :=
  if i.wf then .next (g s) else .fault .illFormed

/-! ## The part a command acts on -/

/-- On the front-end whatever its condition: supply, reset, boot. -/
def State.onFeRaw (s : State) (g : Fe → Fe) : State := { s with fe := g s.fe }

/-- On the front-end, which acts from step 5 of its boot ladder on (R472). (DESIGN CHOICE, log entry 8) -/
def State.onFe (s : State) (g : Fe → Fe) : State := if s.fe.up then s.onFeRaw g else s

/-- On the concentrator whatever its condition. -/
def State.onConcRaw (s : State) (g : Conc → Conc) : State := { s with conc := g s.conc }

/-- On the concentrator out of reset; what its boot ROM serves the accesses judge themselves. -/
def State.onConcUp (s : State) (g : Conc → Conc) : State := if s.conc.up then s.onConcRaw g else s

/-- On hardware of the concentrator that needs its boot to have reached the firmware, but not the Ringmaster's clock.
(DESIGN CHOICE, log entry 8; DEDUCED, log entry 39) -/
def State.onHardware (s : State) (g : Conc → Conc) : State := if s.conc.runs then s.onConcRaw g else s

/-- On the concentrator while its firmware runs: not before its step of the boot, and not while the Ringmaster's clock does not
run (R343). (DESIGN CHOICE, log entry 8; DEDUCED, log entry 39) -/
def State.onConc (s : State) (g : Conc → Conc) : State := if s.conc.ringUp then s.onConcRaw g else s

/-- On a block of the concentrator that needs the base clock. -/
def State.onBase (s : State) (g : Conc → Conc) : State := if s.conc.baseUp then s.onConcRaw g else s

/-- On the converter or the loops. -/
def State.onAnalog (s : State) (g : Conc → Conc) : State := if s.conc.analogUp then s.onConcRaw g else s

/-- On the Safety Net. -/
def State.onSafety (s : State) (g : Conc → Conc) : State := if s.conc.safetyUp then s.onConcRaw g else s

/-- On the part named, while it runs. -/
def State.at (s : State) (p : Part) (onC : Conc → Conc) (onF : Fe → Fe) : State :=
  match p with | .conc => s.onHardware onC | .fe => s.onFe onF

/-- On the part named, out of reset. -/
def State.atUp (s : State) (p : Part) (onC : Conc → Conc) (onF : Fe → Fe) : State :=
  match p with | .conc => s.onConcUp onC | .fe => s.onFe onF

/-- On the part named, whatever its condition. -/
def State.atRaw (s : State) (p : Part) (onC : Conc → Conc) (onF : Fe → Fe) : State :=
  match p with | .conc => s.onConcRaw onC | .fe => s.onFeRaw onF

/-- On the lane end named. (DESIGN CHOICE, log entry 10) -/
def State.atLane (s : State) (l : LaneRef) (onC : Conc → Nat → Conc) (down up : Fe → Nat → Fe) : State :=
  match l with
  | .conc i => s.onHardware fun c => onC c i
  | .feDown k => s.onFe fun f => down f k
  | .feUp n => s.onFe fun f => up f n

/-- A management request by the way it comes (R315, R318). -/
def State.mgmt (s : State) (p : Path) (r : Req) : State :=
  match p with
  | .feDown side => s.onFe fun f => f.request side r
  | .backEnd n cls => s.onConc fun c => c.request (laneBe n) cls r
  | .peer n cls => s.onConc fun c => c.request (lanePeer n) cls r

/-! ## Effects over several chapters -/

/-- ROLLOVER: the second ends, and the tables of TRIGIN swap with it (R148, R200); before the firmware runs nothing is emitted. -/
def Conc.secondEnds (c : Conc) : Conc :=
  if c.time.acc < giga then c
  else
    let d := c.rollover.triginSwap
    if c.runs then d else { d with egr := c.egr }

/-- COUNTER_TO_AO: on a planned stop the base clock does not run any more (R150, R343). -/
def Conc.plannedStop (c : Conc) : Conc :=
  if c.pwr.state = 1 ∨ c.pwr.state = 2 ∨ c.pwr.state = 6 then c.counterToAo else c

/-- ATTEST_COMPLETE: the report with the counts, the bundle and the slots as they now are (R404). -/
def Conc.attestDone (c : Conc) : Conc :=
  let counts := [(1, 1), (2, 1), (3, 1), (4, 1), (5, 2), (8, 4), (9, 4)].flatMap fun p => toBytes p.2 (c.resourceCount p.1)
  let bundle := match c.safety.bundle with | some b => b.measurement | none => 0
  let slots := (List.range 64).map fun k => match c.taskSlot k with | some t => (t.version, t.measurement) | none => (0, 0)
  c.attestComplete (counts ++ [0, 0]) bundle slots

/-- CHECKPOINT_RECEIVE: a refusal is recorded for the peer (R322, R386). -/
def Conc.checkpointIn (c : Conc) (k : Checkpoint) (version : Bool) : Conc :=
  match c.checkpointReceive k version with
  | .ok d => d
  | .error a => c.recordAbort 2 a O.checkpointData.index O.checkpointData.sub 0

/-- AO_TRIM_WINDOW at the front-end: F0 is trimmed against F5 while the base clock runs (R336). (DEDUCED, log entry 36) -/
def Fe.aoTrimWindow (f : Fe) (ppm : Int) : Fe :=
  if f.get O.baseSource = 0 then f else f.withSys fun y => { y with aoTrim := clampInt (-1000) 1000 ppm }

/-! ## Timers without a number of their own: the command is for every one that is due -/

/-- ENTRY_READY: the entries of the queue that are due (R207). -/
def Conc.entriesReady (c : Conc) : Conc := (c.caro.queue.map fun e => e.id).foldl (fun (c : Conc) id => c.entryReady id) c

/-- FILL_TIMEOUT: the entries of the queue that are due (R207). -/
def Conc.fillsTimeOut (c : Conc) : Conc := (c.caro.queue.map fun e => e.id).foldl (fun (c : Conc) id => c.fillTimeout id) c

/-- RELAY_REPEAT: the relays that are due (R317). -/
def Conc.relaysRepeat (c : Conc) : Conc := (c.dict.relays.map fun r => r.id).foldl (fun (c : Conc) id => c.relayRepeat id) c

/-- RELAY_TIMEOUT: the relays that are due (R317). -/
def Conc.relaysTimeOut (c : Conc) : Conc := (c.dict.relays.map fun r => r.id).foldl (fun (c : Conc) id => c.relayTimeout id) c

/-- BULK_RECORD_CLOSE: the bulk records of the ports that are due (R289). -/
def Conc.bulksDue (c : Conc) : Conc := (List.range 48).foldl (fun (c : Conc) p => c.bulkDue p) c

/-- QWAIT_LIMIT_EXPIRY: the waiting contexts whose limit has passed (R220). -/
def Conc.qwaitsExpire (c : Conc) : Conc := (List.range 384).foldl (fun (c : Conc) i => c.qwaitExpiry i) c

/-- LOCAL_LEASE_EXPIRY: the ports whose last answered renewal is more than 45 ms old (R379). -/
def Conc.localExpiries (c : Conc) : Conc := (List.range 48).foldl (fun (c : Conc) p => c.localExpiry p) c

/-- TUNE_TIMEOUT: the tunes of the thermal loops that are due (R441). -/
def Conc.tunesTimeOut (c : Conc) : Conc := [12, 13, 14, 15].foldl (fun (c : Conc) l => c.tuneTimeout l) c

/-! ## The tick (R2) -/

/-- Edges of the 16 kHz private pulser of the TRIGIN converters in so many base ticks. -/
def pulserEdges (tick : Nat) : Nat := tick * 8 / 46875

/-- What runs off the base clock of the concentrator in one base tick: class-0 cells are built (R292), fill times, the TRIGIN
pulser, the engines' cycles.
(DESIGN CHOICE, log entry 2) -/
def Conc.baseTick (c : Conc) : Conc :=
  let c := c.buildClass0.noteEntries.extractTick.giveUnits.continueMovers
  let c := if pulserEdges (c.tick - 1) < pulserEdges c.tick then c.triginPulse else c
  c.engineTick.noteIdle

/-- The concentrator's part of one base-tick period: the slots of the tick that ends, then the next tick.  A debugger's halt pauses the watchdog (R502), and
so does a Ringmaster whose clock does not run.
(DESIGN CHOICE, log entry 2) -/
def Conc.tickOn (c : Conc) : Conc :=
  let c := if c.baseUp then c.slotsDue else c
  let c := if c.runs then c.adcNext else c
  let c := ({ c with tick := c.tick + 1, now := c.now + 1, baseTicks := c.baseTicks + b1 c.baseClock } : Conc).withTime fun t => t.tick c.tick
  let c := if c.baseUp then c.baseTick else c
  let c := if c.runs then c.gatesIdle.relinquishDue.sleepDue else c
  if c.ringHalted ∨ c.ringAsleep then c.withBoot fun b => { b with wdLast := b.wdLast + 1 } else c

/-- One base-tick period of both parts. (DESIGN CHOICE, log entry 2). (DESIGN CHOICE, log entry 49) -/
def State.tick (s : State) : State := { s with fe := s.fe.tickOn, conc := s.conc.tickOn }

end Sys2Proof.Machine
end

