-- ==== Sys2Proof/Machine/CmdAnalog.lean ====
section
/-! DEFINITION. The commands of the converter and of the control loops (chapters 19 and 20). -/

namespace Sys2Proof.Machine

/-- `ADC_START` (R421).  AdcStart requests one host conversion of the selected setup. -/
def execAdcStart (src : Nat) (s : State) : StepOutcome :=
  s.run (.adcStart src) fun s => s.onConcUp fun c => c.hw src O.adcStart 1

/-- `ADC_DATA_READ` (R421).  Reading AdcData returns the result and clears its new and overrun bits. -/
def execAdcDataRead (src : Nat) (s : State) : StepOutcome :=
  s.run (.adcDataRead src) fun s => s.onConcUp fun c => c.hr src O.adcData

/-- `LOOP_CONVERSION_REQUEST` (R422).  The loop coprocessor requests a conversion at its scheduled slot. -/
def execLoopConversionRequest (l : Nat) (input : Bool) (s : State) : StepOutcome :=
  s.run (.loopConversionRequest l input) fun s => s.onAnalog fun c => c.loopRequest l input

/-- `ADC_CONVERSION_COMPLETE` (R419).  A conversion ends and its result is stored with its flags. -/
def execAdcConversionComplete (code : Int) (rails : Nat) (s : State) : StepOutcome :=
  s.run (.adcConversionComplete code rails) fun s => s.onAnalog fun c => c.adcComplete code rails

/-- `ADC_CALIBRATION` (R420).  Every 10 s the converter calibrates offset and gain when no request is pending. -/
def execAdcCalibration (s : State) : StepOutcome :=
  s.run .adcCalibration fun s => s.onAnalog fun c => c.adcCalibration

/-- `MAX_LOOP_DELAY_READ` (R427).  Reading MaxLoopDelay returns and resets the largest loop delay. -/
def execMaxLoopDelayRead (src : Nat) (s : State) : StepOutcome :=
  s.run (.maxLoopDelayRead src) fun s => s.onConcUp fun c => c.hr src O.maxLoopDelay

/-- `EXCITATION_COMPLIANCE_CHANGE` (R411).  An excitation source's pin crosses 2.45 V and its compliance detector flag in ExcitationStatus changes. -/
def execExcitationComplianceChange (k : Nat) (lost : Bool) (s : State) : StepOutcome :=
  s.run (.excitationComplianceChange k lost) fun s => s.onAnalog fun c => c.excitationCompliance k lost

/-- `LOOP_SAMPLE` (R431).  A loop computes its control law from the period's results and updates its output. -/
def execLoopSample (l : Nat) (s : State) : StepOutcome :=
  s.run (.loopSample l) fun s => s.onAnalog fun c => c.loopSample l

/-- `LOOP_CLEAR_FAULT` (R439).  LoopCommand clear returns a faulted loop to RUN. -/
def execLoopClearFault (src l : Nat) (s : State) : StepOutcome :=
  s.run (.loopClearFault src l) fun s => s.onConcUp fun c => c.hw src O.loopCommand (16 + l)

/-- `LOOP_TUNE_START` (R441).  LoopCommand start tune puts a thermal loop into relay auto-tune. -/
def execLoopTuneStart (src l : Nat) (s : State) : StepOutcome :=
  s.run (.loopTuneStart src l) fun s => s.onConcUp fun c => c.hw src O.loopCommand (32 + l)

/-- `LOOP_TUNE_ACCEPT` (R442).  LoopCommand accept tune copies the tuned gains into the region. -/
def execLoopTuneAccept (src l : Nat) (s : State) : StepOutcome :=
  s.run (.loopTuneAccept src l) fun s => s.onConcUp fun c => c.hw src O.loopCommand (48 + l)

/-- `LOOP_TUNE_ABORT` (R441).  LoopCommand abort tune ends a running tune. -/
def execLoopTuneAbort (src l : Nat) (s : State) : StepOutcome :=
  s.run (.loopTuneAbort src l) fun s => s.onConcUp fun c => c.hw src O.loopCommand (64 + l)

/-- `TUNE_TIMEOUT` (R441).  TuneTimeout ends a tune with status 2. -/
def execTuneTimeout (s : State) : StepOutcome :=
  s.run .tuneTimeout fun s => s.onAnalog fun c => c.tunesTimeOut

/-- `LOOP_SETPOINT_WRITE` (R435).  A new loop target starts or turns the ramp, flagging truncation. -/
def execLoopSetpointWrite (src v : Nat) (s : State) : StepOutcome :=
  s.run (.loopSetpointWrite src v) fun s => s.onConcUp fun c => c.hw src O.loopSetpoint v

/-- `LOOP_GAINS_WRITE` (R434).  A write to the gains in force changes them bumplessly. -/
def execLoopGainsWrite (src v : Nat) (s : State) : StepOutcome :=
  s.run (.loopGainsWrite src v) fun s => s.onConcUp fun c => c.hw src O.loopGains v

/-- `LOOP_STATUS_READ` (R444).  Reading LoopStatus clears the ramp-truncated bits. -/
def execLoopStatusRead (src : Nat) (s : State) : StepOutcome :=
  s.run (.loopStatusRead src) fun s => s.onConcUp fun c => c.hr src O.loopStatus

end Sys2Proof.Machine
end

