-- ==== Sys2Proof/Machine/CmdCarousel.lean ====
section
/-! DEFINITION. The commands of the Carousel and its triggers (chapter 09). -/

namespace Sys2Proof.Machine

/-- `CAROUSEL_START` (R195).  CarouselEnable 1 starts the ring empty at the bucket containing H. -/
def execCarouselStart (src : Nat) (s : State) : StepOutcome :=
  s.run (.carouselStart src) fun s => s.onConcUp fun c => c.hw src O.carouselEnable 1

/-- `CAROUSEL_STOP` (R196).  CarouselEnable 0 discards the ring and ends every queue entry as an expired record. -/
def execCarouselStop (src : Nat) (s : State) : StepOutcome :=
  s.run (.carouselStop src) fun s => s.onConcUp fun c => c.hw src O.carouselEnable 0

/-- `TRIGIN_EDGE` (R200).  An accepted TRIGIN edge is time-stamped and offers a tier-A trigger. -/
def execTriginEdge (n : Nat) (falling : Bool) (beat code width : Nat) (s : State) : StepOutcome :=
  s.run (.triginEdge n falling beat code width) fun s => s.onBase fun c => c.ungated (1 + n) fun c => c.triginEdge n falling beat code width

/-- `RANDOM_TRIGGER` (R201).  The random generator offers a tier-C trigger. -/
def execRandomTrigger (s : State) : StepOutcome :=
  s.run .randomTrigger fun s => s.onBase fun c => c.randomTrigger

/-- `LOOKBACK_REQUEST` (R203).  A paired LOOKBACK_START and LOOKBACK_SPAN request a window as a chain of entries. -/
def execLookbackRequest (n : Nat) (w1 w2 : Word) (s : State) : StepOutcome :=
  s.run (.lookbackRequest n w1 w2) fun s => s.onBase fun c => (c.take (laneBe n) [w1, w2]).lookback (bits w1.toNat 55 40) (bits w1.toNat 39 0) (bits w2.toNat 45 30) (bits w2.toNat 29 0)

/-- `ENTRY_READY` (R207).  H passes an entry's end and FillExtra elapses, making the entry READY. -/
def execEntryReady (s : State) : StepOutcome :=
  s.run .entryReady fun s => s.onBase fun c => c.entriesReady

/-- `FILL_TIMEOUT` (R207).  FillTimeout after counter time passes an entry's end makes it READY truncated. -/
def execFillTimeout (s : State) : StepOutcome :=
  s.run .fillTimeout fun s => s.onBase fun c => c.fillsTimeOut

/-- `EXTRACTION_START` (R208).  A READY entry starts extraction on a Carousel mover when the record store admits it. -/
def execExtractionStart (ch : Nat) (s : State) : StepOutcome :=
  s.run (.extractionStart ch) fun s => s.onBase fun c => c.extractionStart (28 + ch)

/-- `EXTRACTION_COMPLETE` (R209).  An extraction completes and its record is complete, truncated or expired in the store. -/
def execExtractionComplete (ch : Nat) (s : State) : StepOutcome :=
  s.run (.extractionComplete ch) fun s => s.onBase fun c => c.extractionComplete (28 + ch)

/-- `PRESCALE_GRID_1MS` (R210).  At each 1 ms grid point a backlog above HighWater raises k_C or k_B. -/
def execPrescaleGrid1ms (s : State) : StepOutcome :=
  s.run .prescaleGrid1ms fun s => s.onBase fun c => c.grid1

/-- `PRESCALE_GRID_10MS` (R210).  At each 10 ms grid point a backlog below LowWater lowers k_B or k_C. -/
def execPrescaleGrid10ms (s : State) : StepOutcome :=
  s.run .prescaleGrid10ms fun s => s.onBase fun c => c.grid10

/-- `CAROUSEL_STATUS_READ` (R212).  Reading TailKey latches tail, head and depth. -/
def execCarouselStatusRead (src : Nat) (s : State) : StepOutcome :=
  s.run (.carouselStatusRead src) fun s => s.onConcUp fun c => c.hr src O.tailKey

end Sys2Proof.Machine
end

