-- ==== Sys2Proof/Machine/CmdClocks.lean ====
section
/-! DEFINITION. The commands of the clocks, the gates and the power states (chapter 15). -/

namespace Sys2Proof.Machine

/-- `CLOCK_SOURCE_DEAD` (R332).  A monitor sees 64 reference cycles without an edge and declares the source dead. -/
def execClockSourceDead (p : Part) (n : Nat) (s : State) : StepOutcome :=
  s.run (.clockSourceDead p n) fun s => s.atUp p (fun c => c.clockDead n) fun f => f.clockDead n

/-- `CLOCK_SOURCE_ALIVE` (R332).  A monitor declares a dead source alive again and pending switches proceed. -/
def execClockSourceAlive (p : Part) (n : Nat) (s : State) : StepOutcome :=
  s.run (.clockSourceAlive p n) fun s => s.atUp p (fun c => (c.clockAlive n).resume) fun f => f.clockAlive n

/-- `STABILITY_WINDOW` (R338).  A 1 ms window judges a fast clock's ratio, three good windows making it stable. -/
def execStabilityWindow (p : Part) (n : Nat) (good : Bool) (s : State) : StepOutcome :=
  s.run (.stabilityWindow p n good) fun s => s.atUp p (fun c => c.stabilityWindow n good) fun f => f.stabilityWindow n good

/-- `AO_TRIM_WINDOW` (R336).  A 1 ms window trims the always-on RC against the base clock. -/
def execAoTrimWindow (p : Part) (ppm : Int) (s : State) : StepOutcome :=
  s.run (.aoTrimWindow p ppm) fun s => s.atUp p (fun c => c.aoTrimWindow ppm) fun f => f.aoTrimWindow ppm

/-- `AO_CRYSTAL_RETURN` (R336).  After 1 s alive the AO crystal again drives D0. -/
def execAoCrystalReturn (s : State) : StepOutcome :=
  s.run .aoCrystalReturn fun s => s.onConcUp fun c => c.crystalReturn

/-- `METER_RUN` (R339).  MeterRun starts a frequency measurement. -/
def execMeterRun (src v : Nat) (s : State) : StepOutcome :=
  s.run (.meterRun src v) fun s => s.onConcUp fun c => c.hw src O.meterRun v

/-- `METER_GATE_END` (R339).  The meter gate ends and count and deviation are reported. -/
def execMeterGateEnd (count : Nat) (s : State) : StepOutcome :=
  s.run (.meterGateEnd count) fun s => s.onHardware fun c => c.meterEnd count

/-- `CLOCK_GATE_WRITE` (R340).  A gate write closes or opens block clocks when their interfaces are idle. -/
def execClockGateWrite (p : Part) (src busy v : Nat) (s : State) : StepOutcome :=
  s.run (.clockGateWrite p src busy v) fun s => s.atUp p (fun c => c.hostWrite src (sourceLane src) busy O.gateControl.index O.gateControl.sub O.gateControl.bytes v) fun f => f.hostWrite src busy O.feGateControl.index O.feGateControl.sub O.feGateControl.bytes v

/-- `GATE_FORCE` (R340).  A gate waiting 64 busy cycles is forced and flagged. -/
def execGateForce (p : Part) (b : Nat) (s : State) : StepOutcome :=
  s.run (.gateForce p b) fun s => s.at p (fun c => c.forceGate b) fun f => f.forceGate b

/-- `POWER_REQUEST_ASLEEP` (R344).  A PowerRequest of ASLEEP runs through STANDBY to ASLEEP. -/
def execPowerRequestAsleep (src : Nat) (s : State) : StepOutcome :=
  s.run (.powerRequestAsleep src) fun s => s.onConcUp fun c => c.powerWrite src 1

/-- `POWER_REQUEST_COLD_STANDBY` (R344).  A PowerRequest of COLD_STANDBY starts the relinquish procedure. -/
def execPowerRequestColdStandby (src : Nat) (s : State) : StepOutcome :=
  s.run (.powerRequestColdStandby src) fun s => s.onConcUp fun c => c.powerWrite src 2

/-- `POWER_REQUEST_STANDBY` (R344).  A PowerRequest of STANDBY wakes or leaves OBSERVE to STANDBY. -/
def execPowerRequestStandby (src : Nat) (s : State) : StepOutcome :=
  s.run (.powerRequestStandby src) fun s => s.onConcUp fun c => c.powerWrite src 3

/-- `POWER_REQUEST_OBSERVE` (R344).  A PowerRequest of OBSERVE brings the part to OBSERVE. -/
def execPowerRequestObserve (src : Nat) (s : State) : StepOutcome :=
  s.run (.powerRequestObserve src) fun s => s.onConcUp fun c => c.powerWrite src 4

/-- `WAKE_AT_ALARM` (R344).  The time counter reaching WakeAt wakes the concentrator from ASLEEP. -/
def execWakeAtAlarm (s : State) : StepOutcome :=
  s.run .wakeAtAlarm fun s => s.onHardware fun c => c.wakeAlarm

/-- `WAKE_LADDER_COMPLETE` (R345).  The wake ladder from ASLEEP finishes and the concentrator is in STANDBY. -/
def execWakeLadderComplete (s : State) : StepOutcome :=
  s.run .wakeLadderComplete fun s => s.onHardware fun c => c.wakeDone.resume

/-- `FE_MODE_REQUEST_SLEEP` (R346).  FeModeRequest SLEEP takes the front-end through STANDBY to SLEEP. -/
def execFeModeRequestSleep (side : Nat) (s : State) : StepOutcome :=
  s.run (.feModeRequestSleep side) fun s => s.onFe fun f => f.hw side O.feModeRequest 1 0

/-- `FE_MODE_REQUEST_STANDBY` (R346).  FeModeRequest STANDBY puts the groups to sleep. -/
def execFeModeRequestStandby (side : Nat) (s : State) : StepOutcome :=
  s.run (.feModeRequestStandby side) fun s => s.onFe fun f => f.hw side O.feModeRequest 2 0

/-- `FE_MODE_REQUEST_OBSERVE` (R346).  FeModeRequest OBSERVE enters observation with groups per their modes. -/
def execFeModeRequestObserve (side : Nat) (s : State) : StepOutcome :=
  s.run (.feModeRequestObserve side) fun s => s.onFe fun f => f.hw side O.feModeRequest 3 0

/-- `FE_SLEEP_PARK` (R346).  After the response is acknowledged or 1 ms, the front-end parks its lanes. -/
def execFeSleepPark (s : State) : StepOutcome :=
  s.run .feSleepPark fun s => s.onFe fun f => f.sleepPark

/-- `FE_WAKE_COMPLETE` (R346).  A front-end woken by signal detect reaches STANDBY. -/
def execFeWakeComplete (s : State) : StepOutcome :=
  s.run .feWakeComplete fun s => s.onFe fun f => f.wakeDone

end Sys2Proof.Machine
end

