-- ==== Sys2Proof/Machine/CmdDebug.lean ====
section
/-! DEFINITION. The commands of the probes and of the test access port (chapter 24). -/

namespace Sys2Proof.Machine

/-- `PROBE_SELECT_WRITE` (R495).  A probe selector entry routes a catalogue signal to a probe ball. -/
def execProbeSelectWrite (p : Part) (src n v : Nat) (s : State) : StepOutcome :=
  s.run (.probeSelectWrite p src n v) fun s => s.atUp p (fun c => c.hw src O.probeSelect (entrySet 32 (c.get O.probeSelect) n v)) fun f => f.hw src O.feProbe v n

/-- `TAP_INSTRUCTION_UPDATE` (R501).  A TAP instruction change takes effect and leaving EXTEST, CLAMP or HIGHZ resets the part. -/
def execTapInstructionUpdate (p : Part) (code : Nat) (s : State) : StepOutcome :=
  s.run (.tapInstructionUpdate p code) fun s => s.atRaw p (fun c => c.tapInstruction code) fun f => f.tapInstruction code

/-- `TAP_TOKEN_UPDATE` (R500).  A token shifted in over JTAG is judged at Update-DR as a DebugToken write. -/
def execTapTokenUpdate (v : Nat) (s : State) : StepOutcome :=
  s.run (.tapTokenUpdate v) fun s => s.onConcUp fun c => c.tapToken (toBytes O.debugToken.bytes v)

/-- `DMI_ACCESS` (R502).  A debug module access completes or fails while its scope is locked. -/
def execDmiAccess (op addr v : Nat) (s : State) : StepOutcome :=
  s.run (.dmiAccess op addr v) fun s => s.onConcUp fun c => c.dmi op addr v

end Sys2Proof.Machine
end

