-- ==== Sys2Proof/Machine/CmdDict.lean ====
section
/-! DEFINITION. The commands of the object dictionary, CAN and sessions (chapter 14). -/

namespace Sys2Proof.Machine

/-- `USDO_REQUEST` (R311).  A CAN USDO transfer reads or writes an object. -/
def execUsdoRequest (session : Nat) (write : Bool) (index sub len v : Nat) (toggle last : Bool) (s : State) : StepOutcome :=
  s.run (.usdoRequest session write index sub len v toggle last) fun s => s.onConcUp fun c => c.usdoRequest session write index sub len v toggle last

/-- `NMT_START` (R311).  NMT start makes the node operational. -/
def execNmtStart (s : State) : StepOutcome :=
  s.run .nmtStart fun s => s.onConcUp fun c => c.nmtState 5

/-- `NMT_STOP` (R311).  NMT stop makes the node stopped. -/
def execNmtStop (s : State) : StepOutcome :=
  s.run .nmtStop fun s => s.onConcUp fun c => c.nmtState 4

/-- `NMT_ENTER_PRE_OPERATIONAL` (R311).  NMT enter pre-operational changes the CAN state. -/
def execNmtEnterPreOperational (s : State) : StepOutcome :=
  s.run .nmtEnterPreOperational fun s => s.onConcUp fun c => c.nmtState 0x7F

/-- `NMT_RESET_NODE` (R311).  NMT reset node resets the part or acts as reset communication. -/
def execNmtResetNode (pins : Nat) (s : State) : StepOutcome :=
  s.run (.nmtResetNode pins) fun s => s.onConcUp fun c => c.nmtResetNode pins

/-- `NMT_RESET_COMMUNICATION` (R311).  NMT reset communication re-reads node ID and rates and closes CAN sessions. -/
def execNmtResetCommunication (pins : Nat) (s : State) : StepOutcome :=
  s.run (.nmtResetCommunication pins) fun s => s.onConcUp fun c => c.nmtResetComm pins

/-- `CAN_HEARTBEAT` (R313).  The producer heartbeat period expires and a heartbeat is sent. -/
def execCanHeartbeat (s : State) : StepOutcome :=
  s.run .canHeartbeat fun s => s.onConcUp fun c => c.canHeartbeat

/-- `EMCY_SEND` (R313).  A queued EMCY is sent at least 10 ms after the previous one. -/
def execEmcySend (s : State) : StepOutcome :=
  s.run .emcySend fun s => s.onConcUp fun c => c.emcySend

/-- `TPDO_SEND` (R314).  A TPDO period expires and its mapped objects are sent. -/
def execTpdoSend (k : Nat) (s : State) : StepOutcome :=
  s.run (.tpdoSend k) fun s => s.onConcUp fun c => c.tpdoSend k

/-- `STORE_ALL` (R301).  The store signature copies P objects into flash. -/
def execStoreAll (src k v : Nat) (s : State) : StepOutcome :=
  s.run (.storeAll src k v) fun s => s.onConcUp fun c => c.hw src O.store v k

/-- `RESTORE_DEFAULTS` (R301).  The restore signature erases the stored set. -/
def execRestoreDefaults (src k v : Nat) (s : State) : StepOutcome :=
  s.run (.restoreDefaults src k v) fun s => s.onConcUp fun c => c.hw src O.restore v k

/-- `SESSION_OPEN` (R319).  A correct password opens the configuration session. -/
def execSessionOpen (src lane pw : Nat) (s : State) : StepOutcome :=
  s.run (.sessionOpen src lane pw) fun s => s.onConcUp fun c => c.hostWrite src lane 0 O.sessionOpen.index O.sessionOpen.sub O.sessionOpen.bytes pw

/-- `SESSION_CLOSE` (R319).  The holder closes the configuration session. -/
def execSessionClose (src v : Nat) (s : State) : StepOutcome :=
  s.run (.sessionClose src v) fun s => s.onConcUp fun c => c.hw src O.sessionClose v

/-- `SESSION_TIMEOUT` (R319).  SessionTimeout without a holder request ends the session. -/
def execSessionTimeout (s : State) : StepOutcome :=
  s.run .sessionTimeout fun s => s.onConcUp fun c => c.awake fun c => c.sessionTimeout

/-- `PASSWORD_CHANGE` (R320).  The session holder replaces the password. -/
def execPasswordChange (src pw : Nat) (s : State) : StepOutcome :=
  s.run (.passwordChange src pw) fun s => s.onConcUp fun c => c.hw src O.passwordChange pw

/-- `PASSWORD_LOCKOUT_END` (R320).  The 60 s lockout after three wrong passwords ends. -/
def execPasswordLockoutEnd (s : State) : StepOutcome :=
  s.run .passwordLockoutEnd fun s => s.onConcUp fun c => c.awake fun c => c.lockoutEnd

/-- `STAGING_TIMEOUT` (R305).  Staging idle for 1 s is discarded. -/
def execStagingTimeout (p : Part) (src index sub : Nat) (s : State) : StepOutcome :=
  s.run (.stagingTimeout p src index sub) fun s => s.at p (fun c => c.stagingTimeout src index sub) fun f => f.stagingTimeout src index sub

/-- `RELAY_REPEAT` (R317).  A relay without response for 4 ms is repeated. -/
def execRelayRepeat (s : State) : StepOutcome :=
  s.run .relayRepeat fun s => s.onConc fun c => c.relaysRepeat

/-- `RELAY_TIMEOUT` (R317).  A relay without response 20 ms after sending is answered with a timeout abort. -/
def execRelayTimeout (s : State) : StepOutcome :=
  s.run .relayTimeout fun s => s.onConc fun c => c.relaysTimeOut

/-- `ERROR_HISTORY_CLEAR` (R328).  Writing 0 to ErrorCount clears the EMCY history. -/
def execErrorHistoryClear (src v : Nat) (s : State) : StepOutcome :=
  s.run (.errorHistoryClear src v) fun s => s.onConcUp fun c => c.hw src O.errorCount v

/-- `REGISTER_WRITE` (R303).  A write to an object with no behaviour of its own is checked and applied. -/
def execRegisterWrite (p : Part) (src index sub len v : Nat) (s : State) : StepOutcome :=
  s.run (.registerWrite p src index sub len v) fun s => s.atUp p (fun c => c.registerWrite src index sub len v) fun f => f.hostWrite src 0 index sub len v

/-- `USDO_TIMEOUT` (R304).  A CAN USDO transfer that times out is aborted and changes nothing. -/
def execUsdoTimeout (session : Nat) (s : State) : StepOutcome :=
  s.run (.usdoTimeout session) fun s => s.onConcUp fun c => c.awake fun c => c.usdoTimeout session

end Sys2Proof.Machine
end

