-- ==== Sys2Proof/Machine/CmdEgress.lean ====
section
/-! DEFINITION. The commands of the egress (chapter 13). -/

namespace Sys2Proof.Machine

/-- `CLASS0_CELL_BUILD` (R292).  A word at the head of the class-0 egress queue starts a duplicated class-0 cell. -/
def execClass0CellBuild (s : State) : StepOutcome :=
  s.run .class0CellBuild fun s => s.onBase fun c => c.buildClass0

/-- `BULK_RECORD_CLOSE` (R289).  A front-end bulk record closes 10 µs after its first word. -/
def execBulkRecordClose (s : State) : StepOutcome :=
  s.run .bulkRecordClose fun s => s.onBase fun c => c.bulksDue

/-- `CLASS0_RESIDENCE_READ` (R297).  Reading Class0Residence returns the maximum and resets it. -/
def execClass0ResidenceRead (src : Nat) (s : State) : StepOutcome :=
  s.run (.class0ResidenceRead src) fun s => s.onConcUp fun c => c.hr src O.class0Residence

end Sys2Proof.Machine
end

