-- ==== Sys2Proof/Machine/CmdEngines.lean ====
section
/-! DEFINITION. The commands of the engines, their tasks and slices (chapter 10). -/

namespace Sys2Proof.Machine

/-- `ENGINE_INSTRUCTION` (R216).  An engine context executes an ordinary RISC-V instruction, raising any exception. -/
def execEngineInstruction (e : Nat) (s : State) : StepOutcome :=
  s.run (.engineInstruction e) fun s => s.onBase fun c => c.engineCommand e .ordinary

/-- `QPOP` (R220).  qpop returns the next slice word and advances the feed, or a sentinel. -/
def execQpop (e : Nat) (s : State) : StepOutcome :=
  s.run (.qpop e) fun s => s.onBase fun c => c.engineCommand e (.xqtm 0)

/-- `QPEEK` (R220).  qpeek returns a word ahead in the feed without advancing. -/
def execQpeek (e : Nat) (s : State) : StepOutcome :=
  s.run (.qpeek e) fun s => s.onBase fun c => c.engineCommand e (.xqtm 1)

/-- `QTIME` (R220).  qtime returns slice start, ends, number or flags. -/
def execQtime (e : Nat) (s : State) : StepOutcome :=
  s.run (.qtime e) fun s => s.onBase fun c => c.engineCommand e (.xqtm 2)

/-- `QHIST` (R220).  qhist atomically adds to a saturating counter and returns the old value. -/
def execQhist (e : Nat) (s : State) : StepOutcome :=
  s.run (.qhist e) fun s => s.onBase fun c => c.engineCommand e (.xqtm 3)

/-- `QTRIG` (R220).  qtrig offers a trigger at a key with tier and profile. -/
def execQtrig (e : Nat) (s : State) : StepOutcome :=
  s.run (.qtrig e) fun s => s.onBase fun c => c.engineCommand e (.xqtm 4)

/-- `QEMIT` (R220).  qemit puts a primitive into the class-0 emit queue from a class-0 context. -/
def execQemit (e : Nat) (s : State) : StepOutcome :=
  s.run (.qemit e) fun s => s.onBase fun c => c.engineCommand e (.xqtm 5)

/-- `QWAIT` (R220).  qwait returns at once or makes the context WAITING for feed data or a limit. -/
def execQwait (e : Nat) (s : State) : StepOutcome :=
  s.run (.qwait e) fun s => s.onBase fun c => c.engineCommand e (.xqtm 6)

/-- `QSLICE` (R220).  qslice releases the current slice and makes the next pending one current. -/
def execQslice (e : Nat) (s : State) : StepOutcome :=
  s.run (.qslice e) fun s => s.onBase fun c => c.engineCommand e (.xqtm 7)

/-- `QWAIT_LIMIT_EXPIRY` (R220).  A WAITING context's qwait limit passes and it returns with the limit bit. -/
def execQwaitLimitExpiry (s : State) : StepOutcome :=
  s.run .qwaitLimitExpiry fun s => s.onBase fun c => c.qwaitsExpire

/-- `RESULT_RETURN` (R221).  The delayed result of a load, qhist or qtrig reaches its destination register. -/
def execResultReturn (x rd : Nat) (s : State) : StepOutcome :=
  s.run (.resultReturn x rd) fun s => s.onBase fun c => c.resultReturn x rd

/-- `FEED_DATA_ARRIVAL` (R231).  Slice words reach a context's feed buffer, waking a waiting context. -/
def execFeedDataArrival (x n : Nat) (s : State) : StepOutcome :=
  s.run (.feedDataArrival x n) fun s => s.onBase fun c => c.feedArrival x n

/-- `ECALL_EXIT` (R229).  Service EXIT drains the instance's movers, makes it IDLE and records the status. -/
def execEcallExit (e : Nat) (s : State) : StepOutcome :=
  s.run (.ecallExit e) fun s => s.onBase fun c => c.engineCommand e (.service 0)

/-- `ECALL_SET_RESTART` (R229).  Service SET_RESTART registers the restart point and stack. -/
def execEcallSetRestart (e : Nat) (s : State) : StepOutcome :=
  s.run (.ecallSetRestart e) fun s => s.onBase fun c => c.engineCommand e (.service 1)

/-- `ECALL_LOG` (R229).  Service LOG posts one log entry as a bulk record. -/
def execEcallLog (e : Nat) (s : State) : StepOutcome :=
  s.run (.ecallLog e) fun s => s.onBase fun c => c.engineCommand e (.service 2)

/-- `SERVICE_COMPLETE` (R229).  The Ringmaster completes a service call and the context leaves SERVICE. -/
def execServiceComplete (x : Nat) (s : State) : StepOutcome :=
  s.run (.serviceComplete x) fun s => s.onBase fun c => c.serviceComplete x

/-- `INSTANCE_START` (R226).  The start command checks resources and makes the instance STARTING. -/
def execInstanceStart (src : Nat) (s : State) : StepOutcome :=
  s.run (.instanceStart src) fun s => s.onConcUp fun c => c.hw src O.instanceCommand 1

/-- `INSTANCE_SUSPEND` (R236).  The suspend command makes a context SUSPENDED. -/
def execInstanceSuspend (src : Nat) (s : State) : StepOutcome :=
  s.run (.instanceSuspend src) fun s => s.onConcUp fun c => c.hw src O.instanceCommand 2

/-- `INSTANCE_RESUME` (R236).  The resume command returns a suspended or faulted context to its state. -/
def execInstanceResume (src : Nat) (s : State) : StepOutcome :=
  s.run (.instanceResume src) fun s => s.onConcUp fun c => c.hw src O.instanceCommand 3

/-- `INSTANCE_KILL` (R262).  The kill command drains the instance's movers and frees its resources. -/
def execInstanceKill (src : Nat) (s : State) : StepOutcome :=
  s.run (.instanceKill src) fun s => s.onConcUp fun c => c.hw src O.instanceCommand 4

/-- `DRAIN_COMPLETE` (R262).  All channels of an instance have drained and its ASID, channels and frames are freed. -/
def execDrainComplete (x : Nat) (s : State) : StepOutcome :=
  s.run (.drainComplete x) fun s => s.onBase fun c => c.drainComplete x

/-- `INSTANCE_RESTART` (R228).  The restart command restarts a context at its restart point. -/
def execInstanceRestart (src : Nat) (s : State) : StepOutcome :=
  s.run (.instanceRestart src) fun s => s.onConcUp fun c => c.hw src O.instanceCommand 5

/-- `INSTANCE_RUNNABLE` (R226).  A STARTING instance's page tables are built and it becomes RUNNABLE. -/
def execInstanceRunnable (x : Nat) (s : State) : StepOutcome :=
  s.run (.instanceRunnable x) fun s => s.onBase fun c => c.instanceRunnable x

/-- `TASK_LOAD` (R224).  TaskLoadSlot verifies the staged image and installs it in a slot. -/
def execTaskLoad (src k : Nat) (s : State) : StepOutcome :=
  s.run (.taskLoad src k) fun s => s.onConcUp fun c => c.hw src O.taskLoadSlot k

/-- `TASK_UNLOAD` (R224).  TaskUnload empties a slot whose instances are all IDLE. -/
def execTaskUnload (src k : Nat) (s : State) : StepOutcome :=
  s.run (.taskUnload src k) fun s => s.onConcUp fun c => c.hw src O.taskUnload k

/-- `PARITY_RESTART` (R232).  A register-file parity error aborts and restarts the instance at its restart point. -/
def execParityRestart (x : Nat) (s : State) : StepOutcome :=
  s.run (.parityRestart x) fun s => s.onBase fun c => c.parityRestart x

/-- `CLUSTER_IDLE_TIMEOUT` (R215).  A cluster idle for ClusterIdle stops its clocks and sleeps. -/
def execClusterIdleTimeout (k : Nat) (s : State) : StepOutcome :=
  s.run (.clusterIdleTimeout k) fun s => s.onBase fun c => c.clusterSleep k

/-- `CLUSTER_WAKE_COMPLETE` (R215).  A sleeping cluster finishes waking after a runnable context or access. -/
def execClusterWakeComplete (k : Nat) (s : State) : StepOutcome :=
  s.run (.clusterWakeComplete k) fun s => s.onBase fun c => c.clusterWake k

end Sys2Proof.Machine
end

