-- ==== Sys2Proof/Machine/CmdFaults.lean ====
section
/-! DEFINITION. The commands of fault accounting, self-test, annealing and scrubbing (chapter 16). -/

namespace Sys2Proof.Machine

/-- `FAULT_DECREMENT` (R351).  Every 600 s of always-on time each non-zero fault counter loses 1. -/
def execFaultDecrement (p : Part) (s : State) : StepOutcome :=
  s.run (.faultDecrement p) fun s => s.at p (fun c => c.faultDecrement) fun f => f.faultDecrement

/-- `RESOURCE_SELF_TEST_START` (R355).  A drained SUSPECT resource starts its self-test. -/
def execResourceSelfTestStart (p : Part) (kind num : Nat) (s : State) : StepOutcome :=
  s.run (.resourceSelfTestStart p kind num) fun s => s.at p (fun c => c.selfTestStart kind num) fun f => f.selfTestStart kind num

/-- `RESOURCE_SELF_TEST_COMPLETE` (R352).  A self-test ends and the resource returns HEALTHY or is RETIRED. -/
def execResourceSelfTestComplete (p : Part) (kind num : Nat) (passed : Bool) (s : State) : StepOutcome :=
  s.run (.resourceSelfTestComplete p kind num passed) fun s => s.at p (fun c => c.testEnds kind num passed) fun f => f.selfTestComplete kind num passed

/-- `ANNEAL_RUN` (R362).  AnnealRun in STANDBY starts a sleep pass. -/
def execAnnealRun (src : Nat) (s : State) : StepOutcome :=
  s.run (.annealRun src) fun s => s.onConcUp fun c => c.hw src O.annealRun 1

/-- `ANNEAL_PASS_COMPLETE` (R362).  An Annealer pass finishes its work. -/
def execAnnealPassComplete (failing : List (Nat × Nat)) (s : State) : StepOutcome :=
  s.run (.annealPassComplete failing) fun s => s.onConc fun c => c.annealDone failing

/-- `ANNEAL_BUDGET_EXPIRY` (R363).  AnnealBudget expires and the pass ends with work left pending. -/
def execAnnealBudgetExpiry (s : State) : StepOutcome :=
  s.run .annealBudgetExpiry fun s => s.onConc fun c => c.annealOver

/-- `FE_ANNEAL_RUN` (R364).  FeAnnealRun starts a front-end pass in STANDBY. -/
def execFeAnnealRun (side : Nat) (s : State) : StepOutcome :=
  s.run (.feAnnealRun side) fun s => s.onFe fun f => f.hw side O.feAnnealRun 1 0

/-- `FE_ANNEAL_COMPLETE` (R364).  A front-end pass ends and reports its result. -/
def execFeAnnealComplete (failing : List (Nat × Nat)) (s : State) : StepOutcome :=
  s.run (.feAnnealComplete failing) fun s => s.onFe fun f => f.annealComplete failing

/-- `HBM_SCRUB_LINE` (R365).  The Roustabout reads the next written HBM line at its steady rate. -/
def execHbmScrubLine (busy : Bool) (k data check : Nat) (s : State) : StepOutcome :=
  s.run (.hbmScrubLine busy k data check) fun s => s.onConc fun c => c.hbmScrub busy k data check

/-- `SRAM_SCRUB_WORD` (R365).  The Roustabout reads the next SRAM word of its scrub cycle. -/
def execSramScrubWord (data check : Nat) (s : State) : StepOutcome :=
  s.run (.sramScrubWord data check) fun s => s.onConc fun c => c.sramScrub data check

/-- `SCRUB_LINE_RETRY` (R366).  A line skipped for a pending write is returned to after 1 ms. -/
def execScrubLineRetry (n : Nat) (busy : Bool) (s : State) : StepOutcome :=
  s.run (.scrubLineRetry n busy) fun s => s.onConc fun c => c.scrubRetry n busy

/-- `FE_CONFIG_SCRUB` (R368).  Every 10 ms the front-end scrubs its configuration SRAM. -/
def execFeConfigScrub (corrected majority : Nat) (lost : List (Nat × Nat)) (s : State) : StepOutcome :=
  s.run (.feConfigScrub corrected majority lost) fun s => s.onFe fun f => f.configScrub corrected majority lost

/-- `FAULT_LOG_ACK` (R370).  FaultLogAck advances the acknowledged point and clears error-register bits. -/
def execFaultLogAck (src v : Nat) (s : State) : StepOutcome :=
  s.run (.faultLogAck src v) fun s => s.onConcUp fun c => c.hw src O.faultLogAck v

/-- `FE_RETIRED_RESTORE_WRITE` (R374).  FeRetiredRestore adds retired slots and locks their assignments. -/
def execFeRetiredRestoreWrite (side v : Nat) (s : State) : StepOutcome :=
  s.run (.feRetiredRestoreWrite side v) fun s => s.onFe fun f => f.hw side O.feRetiredRestore v 0

end Sys2Proof.Machine
end

