-- ==== Sys2Proof/Machine/CmdFeTiming.lean ====
section
/-! DEFINITION. The commands of the front-end timing: marks, the Cullet tables, groups (chapter 03). -/

namespace Sys2Proof.Machine

/-- `SECOND_MARK` (R130).  A SECOND_MARK word arrives in a control-only cell on the leased downlink and schedules its execution beat. -/
def execSecondMark (side : Nat) (w : Word) (age pos : Nat) (s : State) : StepOutcome :=
  s.run (.secondMark side w age pos) fun s => s.onFe fun f => (f.take side [w]).takeMark side (bits w.toNat 31 0) age pos

/-- `SECOND_MARK_EXECUTE` (R42).  64 base ticks after the mark cell, counters reset, a commanded epoch starts and the second-mark word is queued. -/
def execSecondMarkExecute (s : State) : StepOutcome :=
  s.run .secondMarkExecute fun s => s.onFe fun f => f.executeMark

/-- `FLYWHEEL_EPOCH_START` (R44).  With no mark by beat 3,003,000,000 of an epoch, a flywheel epoch starts with the next second number. -/
def execFlywheelEpochStart (s : State) : StepOutcome :=
  s.run .flywheelEpochStart fun s => s.onFe fun f => f.flywheel

/-- `CULLET_HISTOGRAM_FULL` (R49).  A slot histogram reaches N edges, stops counting and starts its table computation. -/
def execCulletHistogramFull (g k : Nat) (s : State) : StepOutcome :=
  s.run (.culletHistogramFull g k) fun s => s.onFe fun f => f.histogramFull g k

/-- `CULLET_TABLE_COMPUTED` (R50).  A table computation completes and the table is accepted into shadow or rejected. -/
def execCulletTableComputed (g k : Nat) (s : State) : StepOutcome :=
  s.run (.culletTableComputed g k) fun s => s.onFe fun f => f.tableComputed g k

/-- `PULSER_INJECT` (R54).  The group pulser injects a random-phase pulse into the next fed slot. -/
def execPulserInject (g beat code : Nat) (s : State) : StepOutcome :=
  s.run (.pulserInject g beat code) fun s => s.onFe fun f => f.inject g beat code

/-- `CULLET_TABLE_LOAD` (R52).  A host-loaded table is checked and placed in shadow for the next mark. -/
def execCulletTableLoad (side len v : Nat) (s : State) : StepOutcome :=
  s.run (.culletTableLoad side len v) fun s => s.onFe fun f => f.hostWrite side 0 O.culletTableData.index O.culletTableData.sub len v

/-- `CULLET_FREEZE_WRITE` (R53).  Setting or clearing a group's Freeze bit stops histogramming or discards the partial histogram. -/
def execCulletFreezeWrite (side v : Nat) (s : State) : StepOutcome :=
  s.run (.culletFreezeWrite side v) fun s => s.onFe fun f => f.hw side O.freeze v 0

/-- `HISTOGRAM_EXPONENT_WRITE` (R66).  A change of HistogramExponent discards and restarts every partial histogram. -/
def execHistogramExponentWrite (side v : Nat) (s : State) : StepOutcome :=
  s.run (.histogramExponentWrite side v) fun s => s.onFe fun f => f.hw side O.histogramExponent v 0

/-- `TIME_CORRECTION_WRITE` (R60).  A write of TimeOffset, WalkTable or WalkEnable becomes pending until the next mark. -/
def execTimeCorrectionWrite (side index sub len v : Nat) (s : State) : StepOutcome :=
  s.run (.timeCorrectionWrite side index sub len v) fun s => s.onFe fun f => f.hostWrite side 0 index sub len v

/-- `GROUP_REQUEST_WAKE` (R61).  The wake mask of GroupRequest starts the wake of the named sleeping groups. -/
def execGroupRequestWake (side mask : Nat) (s : State) : StepOutcome :=
  s.run (.groupRequestWake side mask) fun s => s.onFe fun f => f.hw side O.groupRequest mask 0

/-- `GROUP_REQUEST_SLEEP` (R61).  The sleep mask of GroupRequest puts the named ON_DEMAND or AUTO groups to sleep. -/
def execGroupRequestSleep (side mask : Nat) (s : State) : StepOutcome :=
  s.run (.groupRequestSleep side mask) fun s => s.onFe fun f => (f.hw side O.groupRequest (mask * 2 ^ 16) 0).settleMode

/-- `GROUP_WAKE` (R130).  A GROUP_WAKE fast command wakes the groups of its mask. -/
def execGroupWake (side : Nat) (w : Word) (s : State) : StepOutcome :=
  s.run (.groupWake side w) fun s => s.onFe fun f => (f.take side [w]).fast side fun f => f.wakeMask (bits w.toNat 15 0)

/-- `GROUP_SLEEP` (R130).  A GROUP_SLEEP fast command puts the groups of its mask to sleep. -/
def execGroupSleep (side : Nat) (w : Word) (s : State) : StepOutcome :=
  s.run (.groupSleep side w) fun s => s.onFe fun f => (f.take side [w]).fast side fun f => (f.sleepMask (bits w.toNat 15 0)).settleMode

/-- `GROUP_POWER_MODE_WRITE` (R66).  A change of a group's power mode takes effect at once, and ALWAYS starts a wake. -/
def execGroupPowerModeWrite (side g v : Nat) (s : State) : StepOutcome :=
  s.run (.groupPowerModeWrite side g v) fun s => s.onFe fun f => f.hw side O.groupPowerMode v g

/-- `AO_ACTIVITY_SAMPLE` (R62).  The always-on domain samples a sleeping AUTO group's activity latch and requests its wake. -/
def execAoActivitySample (g : Nat) (s : State) : StepOutcome :=
  s.run (.aoActivitySample g) fun s => s.onFe fun f => f.sampleActivity g

/-- `GROUP_PLL_LOCKED` (R62).  A waking group's PLL declares lock. -/
def execGroupPllLocked (g : Nat) (s : State) : StepOutcome :=
  s.run (.groupPllLocked g) fun s => s.onFe fun f => f.pllLocked g

/-- `GROUP_DLL_LOCKED` (R62).  A waking group's DLL declares lock and its coarse counter is loaded from the chip counter. -/
def execGroupDllLocked (g : Nat) (s : State) : StepOutcome :=
  s.run (.groupDllLocked g) fun s => s.onFe fun f => f.dllLocked g

/-- `GROUP_WAKE_COMPLETE` (R62).  A waking group becomes awake, stamps crossings and emits group event 0x01. -/
def execGroupWakeComplete (g : Nat) (s : State) : StepOutcome :=
  s.run (.groupWakeComplete g) fun s => s.onFe fun f => (f.wakeComplete g).settleMode

/-- `GROUP_IDLE_TIMEOUT` (R61).  An AUTO group without converted edges for GroupIdleTime goes to sleep. -/
def execGroupIdleTimeout (g : Nat) (s : State) : StepOutcome :=
  s.run (.groupIdleTimeout g) fun s => s.onFe fun f => (f.idleTimeout g).settleMode

/-- `GROUP_LOCK_LOSS` (R64).  A group PLL or DLL loses lock, stops stamping and re-enters the wake sequence. -/
def execGroupLockLoss (g : Nat) (s : State) : StepOutcome :=
  s.run (.groupLockLoss g) fun s => s.onFe fun f => (f.lockLoss g).settleMode

end Sys2Proof.Machine
end

