-- ==== Sys2Proof/Machine/CmdGather.lean ====
section
/-! DEFINITION. The commands of the Gather (chapter 08). -/

namespace Sys2Proof.Machine

/-- `GATHER_CELL_TAKE` (R178).  The Gather takes a class-2 cell and sorts, sides or consumes each word against H. -/
def execGatherCellTake (l : Nat) (s : State) : StepOutcome :=
  s.run (.gatherCellTake l) fun s => s.onBase fun c => c.cellTake l

/-- `HORIZON_ADVANCE` (R177).  Once per base tick the Gather recomputes H from LIVE ports' progress and the sort window. -/
def execHorizonAdvance (s : State) : StepOutcome :=
  s.run .horizonAdvance fun s => s.onBase fun c => c.horizonStep

/-- `LANE_STALE_TIMEOUT` (R181).  A lane with no good class-2 cell for StaleTicks becomes lane-stale. -/
def execLaneStaleTimeout (l : Nat) (s : State) : StepOutcome :=
  s.run (.laneStaleTimeout l) fun s => s.onBase fun c => c.laneStale l

/-- `SLICE_COMPLETE` (R186).  H reaches the end of a slice span and the slice is handed to its subscriptions. -/
def execSliceComplete (s : State) : StepOutcome :=
  s.run .sliceComplete fun s => s.onBase fun c => c.sliceComplete

/-- `CHANNEL_RATES_PUBLISH` (R188).  The per-channel hit counts of a completed second are published. -/
def execChannelRatesPublish (s : State) : StepOutcome :=
  s.run .channelRatesPublish fun s => s.onBase fun c => c.publishRates

/-- `PORT_ENABLE_WRITE` (R172).  A PortEnable write puts a port into DISABLED, unclaimed, or releases it to be claimed. -/
def execPortEnableWrite (src v : Nat) (s : State) : StepOutcome :=
  s.run (.portEnableWrite src v) fun s => s.onConcUp fun c => c.hw src O.portEnable v

end Sys2Proof.Machine
end

