-- ==== Sys2Proof/Machine/CmdHitPath.lean ====
section
/-! DEFINITION. The commands of the front-end hit path and its uplinks (chapter 04). -/

namespace Sys2Proof.Machine

/-- `RATE_WINDOW_END` (R68).  A 938-base-tick rate window ends and each channel's prescale exponent is updated. -/
def execRateWindowEnd (s : State) : StepOutcome :=
  s.run .rateWindowEnd fun s => s.onFe fun f => f.rateWindowEnd

/-- `SORTER_TAKE` (R76).  The group sorter takes the lowest-keyed oldest derandomiser entry while it has room. -/
def execSorterTake (g flips : Nat) (s : State) : StepOutcome :=
  s.run (.sorterTake g flips) fun s => s.onFe fun f => f.sorterTake g flips

/-- `SORTER_RELEASE` (R75).  The sorter releases its lowest word once its key is at or below the group horizon. -/
def execSorterRelease (g flips : Nat) (s : State) : StepOutcome :=
  s.run (.sorterRelease g flips) fun s => s.onFe fun f => f.sorterRelease g flips

/-- `MERGER_TAKE` (R77).  The chip merger takes the lowest-keyed released word once it is below every sorter horizon. -/
def execMergerTake (s : State) : StepOutcome :=
  s.run .mergerTake fun s => s.onFe fun f => f.mergerTake

/-- `UPLINK_SLOT` (R81).  At each M-cell slot the front-end fills each usable uplink with class 0, 1/3, 2 or idle. -/
def execUplinkSlot (side : Nat) (s : State) : StepOutcome :=
  s.run (.uplinkSlot side) fun s => s.onFe fun f => f.uplinkSlot side

/-- `SCALER_INTERVAL_END` (R89).  A scaler interval ends and one scaler record per live channel is emitted. -/
def execScalerIntervalEnd (s : State) : StepOutcome :=
  s.run .scalerIntervalEnd fun s => s.onFe fun f => f.scalerTick

/-- `SORTER_STATUS_READ` (R93).  Reading a SorterStatus sub-index resets its peak to the present occupancy. -/
def execSorterStatusRead (side g : Nat) (s : State) : StepOutcome :=
  s.run (.sorterStatusRead side g) fun s => s.onFe fun f => f.hostRead side O.sorterStatus.index (O.sorterStatus.sub + g)

end Sys2Proof.Machine
end

