-- ==== Sys2Proof/Machine/CmdInputs.lean ====
section
/-! DEFINITION. The commands of the front-end inputs (chapter 02) and of its object tables. -/

namespace Sys2Proof.Machine

/-- `TIMING_CROSSING` (R39).  A timing discriminator leading edge on a channel latches the coarse count and raw code and starts a candidate hit. -/
def execTimingCrossing (c beat code width : Nat) (val : Option Nat) (s : State) : StepOutcome :=
  s.run (.timingCrossing c beat code width val) fun s => s.onFe fun f => f.crossing c beat code width val

/-- `TRAILING_EDGE` (R31).  The timing discriminator trailing edge ends the time-over-threshold and the hit word enters the derandomiser. -/
def execTrailingEdge (c fine ups : Nat) (reading : Bool) (s : State) : StepOutcome :=
  s.run (.trailingEdge c fine ups reading) fun s => s.onFe fun f => f.trailing c fine ups reading

/-- `TOT_SATURATED` (R31).  The time-over-threshold count reaches 1,023 beats and the hit word leaves the channel. -/
def execTotSaturated (c beat ups : Nat) (reading : Bool) (s : State) : StepOutcome :=
  s.run (.totSaturated c beat ups reading) fun s => s.onFe fun f => f.totFull c beat ups reading

/-- `LOST_HIT_REPORT_FULL` (R74).  A lost-hit report whose count reaches 127 closes. -/
def execLostHitReportFull (c : Nat) (s : State) : StepOutcome :=
  s.run (.lostHitReportFull c) fun s => s.onFe fun f => f.reportFull c

/-- `BASELINE_SATURATION_CHANGE` (R23).  DC input current crosses 500 µA, and the baseline-saturated bit follows. -/
def execBaselineSaturationChange (c microAmps : Nat) (s : State) : StepOutcome :=
  s.run (.baselineSaturationChange c microAmps) fun s => s.onFe fun f => f.baseline c microAmps

/-- `CHANNEL_TABLE_WRITE` (R37).  A completed channel-table transfer takes effect for all 256 channels in one base tick. -/
def execChannelTableWrite (side index sub len v : Nat) (s : State) : StepOutcome :=
  s.run (.channelTableWrite side index sub len v) fun s => s.onFe fun f => f.hostWrite side 0 index sub len v

/-- `CHANNEL_SETTLE_END` (R32).  The 200 µs settling of a channel leaving OFF ends and crossings are no longer gated. -/
def execChannelSettleEnd (c : Nat) (s : State) : StepOutcome :=
  s.run (.channelSettleEnd c) fun s => s.onFe fun f => f.settleEnd c

/-- `SPARE_ASSIGN_WRITE` (R34).  A change of the group input switch moves an input to or from slot 16 and starts blanking. -/
def execSpareAssignWrite (side g v : Nat) (s : State) : StepOutcome :=
  s.run (.spareAssignWrite side g v) fun s => s.onFe fun f => f.hw side O.spareAssignGroup v g

/-- `SPARE_BLANK_END` (R34).  The 20 µs or 200 µs blank of a reassigned channel ends. -/
def execSpareBlankEnd (c : Nat) (s : State) : StepOutcome :=
  s.run (.spareBlankEnd c) fun s => s.onFe fun f => f.blankEnd c

/-- `BASELINE_STATUS_READ` (R38).  Reading BaselineStatus returns the table and clears every saturated-since-read bit. -/
def execBaselineStatusRead (side : Nat) (s : State) : StepOutcome :=
  s.run (.baselineStatusRead side) fun s => s.onFe fun f => f.hostRead side O.baselineStatus.index O.baselineStatus.sub

end Sys2Proof.Machine
end

