-- ==== Sys2Proof/Machine/CmdLanes.lean ====
section
/-! DEFINITION. The commands of the lanes of both parts: bring-up, alignment, training, parking, test modes (chapter 05). -/

namespace Sys2Proof.Machine

/-- `SIGNAL_DETECT` (R104).  A lane detects signal and moves from NO_SIGNAL to clock recovery, waking parked ends where enabled. -/
def execSignalDetect (l : LaneRef) (s : State) : StepOutcome :=
  s.run (.signalDetect l) fun s => s.atLane l (fun c i => (c.signalDetect i).wakeLane i) (fun f k => f.downSignal k) fun f _ => f

/-- `SIGNAL_LOSS` (R104).  Loss of signal detect returns a lane to NO_SIGNAL. -/
def execSignalLoss (l : LaneRef) (s : State) : StepOutcome :=
  s.run (.signalLoss l) fun s => s.atLane l (fun c i => c.signalLoss i) (fun f k => f.downNoSignal k) fun f _ => f

/-- `CDR_LOCKED` (R104).  Clock recovery locks and the blind receiver enters HUNT. -/
def execCdrLocked (l : LaneRef) (s : State) : StepOutcome :=
  s.run (.cdrLocked l) fun s => s.atLane l (fun c i => c.cdrLocked i) (fun f k => f.downCdr k) fun f _ => f

/-- `CDR_LOCK_TIMEOUT` (R104).  No clock-recovery lock within 200 µs returns the lane to NO_SIGNAL with a retry count. -/
def execCdrLockTimeout (l : LaneRef) (s : State) : StepOutcome :=
  s.run (.cdrLockTimeout l) fun s => s.atLane l (fun c i => c.cdrTimeout i) (fun f k => f.downCdrTimeout k) fun f _ => f

/-- `CELL_ARRIVAL` (R123).  A cell slot is judged at its marker and a good cell is destuffed, CRC-checked and processed. -/
def execCellArrival (l : LaneRef) (line : Nat) (s : State) : StepOutcome :=
  s.run (.cellArrival l line) fun s => s.atLane l (fun c i => c.cellSlot i line) (fun f k => f.downSlot k line) fun f _ => f

/-- `TIGHTROPE_JUDGE` (R106).  After two slots Tightrope judges the marker flags of an ingress lane and slips or proceeds. -/
def execTightropeJudge (x : Nat) (s : State) : StepOutcome :=
  s.run (.tightropeJudge x) fun s => s.onHardware fun c => c.tightJudge x

/-- `TIGHTROPE_RETRY` (R107).  The 1 ms wait after a Tightrope failure ends and Tightrope starts again. -/
def execTightropeRetry (x : Nat) (s : State) : StepOutcome :=
  s.run (.tightropeRetry x) fun s => s.onHardware fun c => c.tightRetry x

/-- `TRAIN_DETECT_SENSE` (R109).  A DETECT lane's periodic termination sense or signal-detect hold moves it to TRAIN. -/
def execTrainDetectSense (x : Nat) (positive : Bool) (s : State) : StepOutcome :=
  s.run (.trainDetectSense x positive) fun s => s.onHardware fun c => c.detectSense x positive

/-- `TRAIN_DWELL_END` (R110).  A preset's TrainDwell of error counting ends and the sweep requests the next or best preset. -/
def execTrainDwellEnd (x : Nat) (s : State) : StepOutcome :=
  s.run (.trainDwellEnd x) fun s => s.onHardware fun c => c.dwellEnd x

/-- `TRAINING_TIMEOUT` (R109).  A training phase timeout returns the lane to DETECT after a hold-off and counts a retrain. -/
def execTrainingTimeout (x : Nat) (s : State) : StepOutcome :=
  s.run (.trainingTimeout x) fun s => s.onHardware fun c => c.trainTimeout x

/-- `TRAIN_HOLDOFF_END` (R109).  The 1 ms hold-off after a training failure ends and DETECT resumes. -/
def execTrainHoldoffEnd (x : Nat) (s : State) : StepOutcome :=
  s.run (.trainHoldoffEnd x) fun s => s.onHardware fun c => c.holdoffEnd x

/-- `LANE_PARK_REQUEST` (R112).  A park request by object or mode change starts parking a lane. -/
def execLaneParkRequest (src x : Nat) (s : State) : StepOutcome :=
  s.run (.laneParkRequest src x) fun s => s.onConcUp fun c => c.laneBits src x fun e => setBit e 1 true

/-- `PARK_ENTRY` (R112).  Once the replay buffer is empty or 1 ms has passed, the lane switches off its driver and clock recovery. -/
def execParkEntry (x : Nat) (s : State) : StepOutcome :=
  s.run (.parkEntry x) fun s => s.onHardware fun c => c.parkEntry x

/-- `LANE_UNPARK` (R113).  An unpark by object or signal detect starts the lane's return to service. -/
def execLaneUnpark (src x : Nat) (s : State) : StepOutcome :=
  s.run (.laneUnpark src x) fun s => s.onConcUp fun c => c.laneBits src x fun e => setBit e 1 false

/-- `UNPARK_DEADLINE` (R113).  A lane not aligned or ACTIVE 800 µs after unpark stays in HUNT or goes to DETECT. -/
def execUnparkDeadline (l : LaneRef) (s : State) : StepOutcome :=
  s.run (.unparkDeadline l) fun s => s.atLane l (fun c i => c.unparkDeadline i) (fun f k => f.unparkDeadline k) fun f _ => f

/-- `PRBS_TEST_START` (R102).  A PRBS code in LaneControl puts a concentrator lane into test mode. -/
def execPrbsTestStart (src x code : Nat) (s : State) : StepOutcome :=
  s.run (.prbsTestStart src x code) fun s => s.onConcUp fun c => c.laneBits src x fun e => e % 4 + code * 4 + e / 16 * 16

/-- `FE_PRBS_TEST_START` (R103).  A non-zero front-end PRBS mode puts an uplink or downlink into test mode. -/
def execFePrbsTestStart (side : Nat) (l : LaneRef) (code : Nat) (s : State) : StepOutcome :=
  s.run (.fePrbsTestStart side l code) fun s => s.onFe fun f => f.prbsWrite side l code

/-- `FE_PRBS_TEST_STOP` (R103).  Writing code 0 ends a front-end test mode at once and the lane restarts bring-up. -/
def execFePrbsTestStop (side : Nat) (l : LaneRef) (s : State) : StepOutcome :=
  s.run (.fePrbsTestStop side l) fun s => s.onFe fun f => f.prbsWrite side l 0

/-- `PRBS_DURATION_END` (R103).  PrbsDuration expires and the front-end test mode ends by itself. -/
def execPrbsDurationEnd (l : LaneRef) (s : State) : StepOutcome :=
  s.run (.prbsDurationEnd l) fun s => s.atLane l (fun c _ => c) (fun f k => f.prbsEndDown k) fun f n => f.prbsEndUp (n / 2) (n % 2)

/-- `QUAD_PLL_LOCK_LOSS` (R115).  A quad PLL losing lock takes every lane of its quad out of service. -/
def execQuadPllLockLoss (p : Part) (n : Nat) (s : State) : StepOutcome :=
  s.run (.quadPllLockLoss p n) fun s => s.at p (fun c => c.quadLoss n) fun f => f.pllLoss (n % 2)

/-- `QUAD_PLL_RELOCK` (R115).  A quad PLL relocks and its lanes restart bring-up. -/
def execQuadPllRelock (p : Part) (n : Nat) (s : State) : StepOutcome :=
  s.run (.quadPllRelock p n) fun s => s.at p (fun c => c.quadRelock n) fun f => f.pllRelock (n % 2)

/-- `PRBS_CHECKER_LOCK` (R102).  A PRBS checker declares lock after 64 consecutive error-free received bits. -/
def execPrbsCheckerLock (l : LaneRef) (s : State) : StepOutcome :=
  s.run (.prbsCheckerLock l) fun s => s.atLane l (fun c i => c.prbsLock i) (fun f k => f.prbsLock k) fun f _ => f

/-- `PRBS_BIT_ERROR` (R102).  A locked PRBS checker counts an erroneous received bit and drops lock after 64 errors within 1,024 bits. -/
def execPrbsBitError (l : LaneRef) (bits : Nat) (s : State) : StepOutcome :=
  s.run (.prbsBitError l bits) fun s => s.atLane l (fun c i => c.prbsError i bits) (fun f k => f.prbsError k bits) fun f _ => f

/-- `PRBS_TEST_STOP` (R102).  A LaneControl write of PRBS code 0 ends a concentrator lane's test mode and restarts bring-up. -/
def execPrbsTestStop (src x : Nat) (s : State) : StepOutcome :=
  s.run (.prbsTestStop src x) fun s => s.onConcUp fun c => c.laneBits src x fun e => e % 4 + e / 16 * 16

/-- `LANE_ENABLE_WRITE` (R117).  The enable bit of LaneControl takes a lane into or out of DISABLED. -/
def execLaneEnableWrite (src x : Nat) (on : Bool) (s : State) : StepOutcome :=
  s.run (.laneEnableWrite src x on) fun s => s.onConcUp fun c => c.laneBits src x fun e => setBit e 0 on

end Sys2Proof.Machine
end

