-- ==== Sys2Proof/Machine/CmdLight.lean ====
section
/-! DEFINITION. The commands of the light: flashes, compliance, feedback (chapter 21). -/

namespace Sys2Proof.Machine

/-- `FLASH_FIRE` (R448).  FlashFire schedules a single flash for the third base tick. -/
def execFlashFire (src v : Nat) (s : State) : StepOutcome :=
  s.run (.flashFire src v) fun s => s.onConcUp fun c => c.hw src O.flashFire v

/-- `FLASH_START` (R448).  A flash turns on its outputs and offers a tier-C trigger. -/
def execFlashStart (s : State) : StepOutcome :=
  s.run .flashStart fun s => s.onBase fun c => c.flashStart

/-- `FLASH_END` (R448).  FlashWidth beats elapse and the flash outputs turn off. -/
def execFlashEnd (s : State) : StepOutcome :=
  s.run .flashEnd fun s => s.onBase fun c => c.flashEnd

/-- `LED_COMPLIANCE_LOSS` (R445).  A light sink pin below 0.6 V flags and counts a compliance loss. -/
def execLedComplianceLoss (n : Nat) (s : State) : StepOutcome :=
  s.run (.ledComplianceLoss n) fun s => s.onHardware fun c => c.ledLoss n

/-- `LED_COMPLIANCE_RESTORED` (R445).  A light sink pin that returns above its compliance voltage clears the compliance-lost-now flag. -/
def execLedComplianceRestored (n : Nat) (s : State) : StepOutcome :=
  s.run (.ledComplianceRestored n) fun s => s.onHardware fun c => c.ledRestored n

/-- `FEEDBACK_RUN_START` (R449).  FeedbackRun 1 starts bisecting an output's fraction to the target. -/
def execFeedbackRunStart (src : Nat) (s : State) : StepOutcome :=
  s.run (.feedbackRunStart src) fun s => s.onConcUp fun c => c.hw src O.feedbackRun 1

/-- `FEEDBACK_RUN_ABORT` (R449).  FeedbackRun 0 aborts a feedback run. -/
def execFeedbackRunAbort (src : Nat) (s : State) : StepOutcome :=
  s.run (.feedbackRunAbort src) fun s => s.onConcUp fun c => c.hw src O.feedbackRun 0

/-- `FEEDBACK_STEP` (R449).  After settling, a feedback step averages 16 conversions and bisects. -/
def execFeedbackStep (codes : List Int) (s : State) : StepOutcome :=
  s.run (.feedbackStep codes) fun s => s.onBase fun c => c.feedbackStep codes

end Sys2Proof.Machine
end

