-- ==== Sys2Proof/Machine/CmdLink.lean ====
section
/-! DEFINITION. The commands of the link protocol: slots, timers, management messages and fast words (chapter 06). -/

namespace Sys2Proof.Machine

/-- `TX_SLOT` (R141).  At each slot boundary a transmitter sends the first of control-only, replay, class 0, other class or idle. -/
def execTxSlot (x : Nat) (s : State) : StepOutcome :=
  s.run (.txSlot x) fun s => s.onBase fun c => c.txSlot x

/-- `REPLAY_TIMER_EXPIRY` (R137).  T_replay without acknowledgement progress starts a replay from U. -/
def execReplayTimerExpiry (l : LaneRef) (s : State) : StepOutcome :=
  s.run (.replayTimerExpiry l) fun s => s.atLane l (fun c i => c.replayTimeout i) (fun f _ => f) fun f n => f.upReplayTimeout (n / 2) (n % 2)

/-- `ACK_PROGRESS_TIMEOUT` (R143).  10 ms without acknowledgement progress resets the link or uplink scope. -/
def execAckProgressTimeout (l : LaneRef) (s : State) : StepOutcome :=
  s.run (.ackProgressTimeout l) fun s => s.atLane l (fun c i => c.progressTimeout i) (fun f _ => f) fun f n => f.upProgressTimeout (n / 2) (n % 2)

/-- `ANSWER_TIMEOUT` (R142).  No answer within 256 slots repeats the initiate run and counts an answer timeout. -/
def execAnswerTimeout (l : LaneRef) (s : State) : StepOutcome :=
  s.run (.answerTimeout l) fun s => s.atLane l (fun c i => c.answerTimeout i) (fun f _ => f) fun f n => f.upAnswerTimeout (n / 2) (n % 2)

/-- `MGMT_READ` (R135).  A READ message returns the whole value of an object. -/
def execMgmtRead (p : Path) (tid index sub : Nat) (poisoned : Bool) (s : State) : StepOutcome :=
  s.run (.mgmtRead p tid index sub poisoned) fun s => s.mgmt p { tid := tid, op := 1, index := index, sub := sub, poisoned := poisoned }

/-- `MGMT_WRITE` (R135).  A WRITE message writes the whole value of an object. -/
def execMgmtWrite (p : Path) (tid index sub len v : Nat) (poisoned : Bool) (s : State) : StepOutcome :=
  s.run (.mgmtWrite p tid index sub len v poisoned) fun s => s.mgmt p { tid := tid, op := 2, index := index, sub := sub, len := len, val := v, poisoned := poisoned }

/-- `MGMT_READ_AT` (R135).  A READ_AT message returns a byte range of an object and its length. -/
def execMgmtReadAt (p : Path) (tid index sub off cnt : Nat) (poisoned : Bool) (s : State) : StepOutcome :=
  s.run (.mgmtReadAt p tid index sub off cnt poisoned) fun s => s.mgmt p { tid := tid, op := 3, index := index, sub := sub, off := off, cnt := cnt, poisoned := poisoned }

/-- `MGMT_WRITE_AT` (R305).  A WRITE_AT message stages a segment and applies the object at last = 1. -/
def execMgmtWriteAt (p : Path) (tid index sub off : Nat) (last : Bool) (len v : Nat) (poisoned : Bool) (s : State) : StepOutcome :=
  s.run (.mgmtWriteAt p tid index sub off last len v poisoned) fun s => s.mgmt p { tid := tid, op := 4, index := index, sub := sub, off := off, last := last, len := len, val := v, poisoned := poisoned }

/-- `MGMT_RESPONSE` (R317).  A front-end response to a relay is returned to the host with its own transaction ID. -/
def execMgmtResponse (l : Nat) (ws : List Word) (s : State) : StepOutcome :=
  s.run (.mgmtResponse l ws) fun s => s.onConc fun c => (c.take (laneIn l) ws).mgmtResponse (l / 2) ws

/-- `ECHO_REQUEST` (R159).  The front-end receives ECHO_REQUEST and schedules its ECHO_REPLY. -/
def execEchoRequest (side : Nat) (w : Word) (age : Nat) (s : State) : StepOutcome :=
  s.run (.echoRequest side w age) fun s => s.onFe fun f => (f.take side [w]).echoRequest side (bits w.toNat 15 0) age

/-- `ECHO_REPLY` (R164).  An ECHO_REPLY reaching the concentrator registers the TIU stop for its tag. -/
def execEchoReply (l : Nat) (w : Word) (beat sub : Nat) (s : State) : StepOutcome :=
  s.run (.echoReply l w beat sub) fun s => s.onHardware fun c => (c.take (laneIn l) [w]).ungated 0 fun c => c.echoReply l (bits w.toNat 15 0) beat sub

/-- `LEASE_RENEW` (R377).  A front-end receiving a valid renewal resets its lease timer, otherwise refuses it. -/
def execLeaseRenew (side : Nat) (w : Word) (s : State) : StepOutcome :=
  s.run (.leaseRenew side w) fun s => s.onFe fun f => (f.take side [w]).leaseRenew side (bits w.toNat 31 0)

/-- `LEASE_CLAIM` (R377).  A front-end grants a claim while no side holds the lease, otherwise refuses it. -/
def execLeaseClaim (side : Nat) (w : Word) (both : Bool) (s : State) : StepOutcome :=
  s.run (.leaseClaim side w both) fun s => s.onFe fun f => (f.take side [w]).leaseClaim side both

/-- `LEASE_ACK` (R381).  The concentrator receives a lease answer and on a grant configures the front-end. -/
def execLeaseAck (l : Nat) (w : Word) (s : State) : StepOutcome :=
  s.run (.leaseAck l w) fun s => s.onConc fun c => (c.take (laneIn l) [w]).leaseAck (l / 2) w

/-- `FE_FAULT` (R371).  The concentrator posts a received FE_FAULT in its log and forwards it as FE_FAULT_FWD. -/
def execFeFault (l : Nat) (w : Word) (s : State) : StepOutcome :=
  s.run (.feFault l w) fun s => s.onConc fun c =>
    (c.take (laneIn l) [w]).feFault (l / 2) w.toNat (receivedAt (laneIn l) [w] c.links.inbox c.tick)

/-- `BE_ECHO_REQUEST` (R169).  A back-end echo request is answered with BE_ECHO_REPLY carrying the turnaround. -/
def execBeEchoRequest (n : Nat) (w : Word) (age : Nat) (s : State) : StepOutcome :=
  s.run (.beEchoRequest n w age) fun s => s.onConc fun c => (c.take (laneBe n) [w]).beEchoRequest n (bits w.toNat 15 0) age

end Sys2Proof.Machine
end

