-- ==== Sys2Proof/Machine/CmdMovers.lean ====
section
/-! DEFINITION. The commands of the data movers, the Marver units and the flip mask (chapters 11 and 12). -/

namespace Sys2Proof.Machine

/-- `MOVER_TAIL_WRITE` (R253).  A Tail write posts descriptors or is refused when it exceeds the ring. -/
def execMoverTailWrite (ch v : Nat) (s : State) : StepOutcome :=
  s.run (.moverTailWrite ch v) fun s => s.onBase fun c => c.moverTail ch v

/-- `MOVER_RESUME` (R260).  RESUME re-reads a halted descriptor and continues at bytes done. -/
def execMoverResume (ch : Nat) (s : State) : StepOutcome :=
  s.run (.moverResume ch) fun s => s.onBase fun c => c.moverResume ch

/-- `MOVER_ABORT` (R260).  ABORT completes the halted or running descriptor as ABORTED. -/
def execMoverAbort (ch : Nat) (s : State) : StepOutcome :=
  s.run (.moverAbort ch) fun s => s.onBase fun c => c.moverAbort ch

/-- `MOVER_COPY` (R255).  A COPY descriptor starts and copies bytes beat by beat. -/
def execMoverCopy (ch beats : Nat) (s : State) : StepOutcome :=
  s.run (.moverCopy ch beats) fun s => s.onBase fun c => c.moverRun ch 1 beats

/-- `MOVER_SCATTER` (R255).  A SCATTER descriptor starts and writes strided elements. -/
def execMoverScatter (ch beats : Nat) (s : State) : StepOutcome :=
  s.run (.moverScatter ch beats) fun s => s.onBase fun c => c.moverRun ch 2 beats

/-- `MOVER_FILL` (R255).  A FILL descriptor starts and writes the pattern. -/
def execMoverFill (ch beats : Nat) (s : State) : StepOutcome :=
  s.run (.moverFill ch beats) fun s => s.onBase fun c => c.moverRun ch 3 beats

/-- `MOVER_SEND` (R290).  A SEND descriptor starts and hands bytes to the bulk queue. -/
def execMoverSend (ch beats : Nat) (s : State) : StepOutcome :=
  s.run (.moverSend ch beats) fun s => s.onBase fun c => c.moverRun ch 4 beats

/-- `MOVER_COMPRESS` (R272).  A COMPRESS descriptor gets a Marver unit and codes its input into blocks. -/
def execMoverCompress (ch beats : Nat) (s : State) : StepOutcome :=
  s.run (.moverCompress ch beats) fun s => s.onBase fun c => c.moverRun ch 5 beats

/-- `MOVER_CRC` (R255).  A CRC descriptor starts and computes CRC-32C over the source. -/
def execMoverCrc (ch beats : Nat) (s : State) : StepOutcome :=
  s.run (.moverCrc ch beats) fun s => s.onBase fun c => c.moverRun ch 6 beats

/-- `DESCRIPTOR_COMPLETE` (R257).  A descriptor's writes are accepted, its completion is written and Head advances. -/
def execDescriptorComplete (ch : Nat) (s : State) : StepOutcome :=
  s.run (.descriptorComplete ch) fun s => s.onBase fun c => c.descriptorComplete ch

/-- `MARVER_BLOCK_FLUSH` (R272).  A block's input ends, its codes are flushed and its header words written. -/
def execMarverBlockFlush (ch : Nat) (s : State) : StepOutcome :=
  s.run (.marverBlockFlush ch) fun s => s.onBase fun c => c.marverFlush ch

/-- `FLIP_ARM_WRITE` (R250).  FlipArm arms or disarms the flip mask. -/
def execFlipArmWrite (src v : Nat) (s : State) : StepOutcome :=
  s.run (.flipArmWrite src v) fun s => s.onConcUp fun c => c.hw src O.flipArm v

/-- `ECC_LAST_ERROR_READ` (R265).  Reading LastErrorAddress latches the last-error fields. -/
def execEccLastErrorRead (src : Nat) (s : State) : StepOutcome :=
  s.run (.eccLastErrorRead src) fun s => s.onConcUp fun c => c.hr src O.lastErrorAddress

end Sys2Proof.Machine
end

