-- ==== Sys2Proof/Machine/CmdPair.lean ====
section
/-! DEFINITION. The commands of leases and of the pair (chapter 17). -/

namespace Sys2Proof.Machine

/-- `LEASE_EXPIRY` (R377).  The front-end lease timer reaches 0 and the holder becomes none. -/
def execLeaseExpiry (s : State) : StepOutcome :=
  s.run .leaseExpiry fun s => s.onFe fun f => f.lapse

/-- `LEASE_RENEW_SEND` (R379).  Every 10 ms the holder sends LEASE_RENEW on each leased port. -/
def execLeaseRenewSend (p : Nat) (s : State) : StepOutcome :=
  s.run (.leaseRenewSend p) fun s => s.onConc fun c => c.renewSend p

/-- `LEASE_CLAIM_SEND` (R381).  An ACTIVE concentrator claims an unheld aligned port every 100 ms or after the refusal's remaining time. -/
def execLeaseClaimSend (p : Nat) (s : State) : StepOutcome :=
  s.run (.leaseClaimSend p) fun s => s.onConc fun c => c.claimSend p

/-- `LOCAL_LEASE_EXPIRY` (R379).  45 ms after the last answered renewal the concentrator stops acting and the port is UNLEASED. -/
def execLocalLeaseExpiry (s : State) : StepOutcome :=
  s.run .localLeaseExpiry fun s => s.onConc fun c => c.localExpiries

/-- `LOCKSTEP_FAILURE` (R382).  A Ringmaster core mismatch stops all outputs and enters FAILED. -/
def execLockstepFailure (s : State) : StepOutcome :=
  s.run .lockstepFailure fun s => s.onConcUp fun c => c.lockstepFailure

/-- `FAILED_HEARTBEAT_END` (R382).  The 100 ms of FAILED heartbeats after a lockstep failure ends. -/
def execFailedHeartbeatEnd (s : State) : StepOutcome :=
  s.run .failedHeartbeatEnd fun s => s.onConcUp fun c => c.failedHeartbeatEnd

/-- `HEARTBEAT_SEND` (R384).  Every 2 ms a partner sends HEARTBEAT and HEARTBEAT_TIME on the peer lanes. -/
def execHeartbeatSend (s : State) : StepOutcome :=
  s.run .heartbeatSend fun s => s.onConc fun c => c.heartbeatSend

/-- `HEARTBEAT` (R384).  A partner's HEARTBEAT is received and its state recorded. -/
def execHeartbeat (n : Nat) (w : Word) (other : Nat) (s : State) : StepOutcome :=
  s.run (.heartbeat n w other) fun s => s.onConc fun c => (c.take (lanePeer n) [w]).heartbeatIn w other

/-- `HEARTBEAT_TIME` (R383).  A HEARTBEAT_TIME word's seconds and arrival tick are recorded. -/
def execHeartbeatTime (n : Nat) (w : Word) (s : State) : StepOutcome :=
  s.run (.heartbeatTime n w) fun s => s.onConc fun c => (c.take (lanePeer n) [w]).heartbeatTime w

/-- `HEARTBEAT_LOSS` (R384).  No valid heartbeat for 60 ms declares the heartbeat lost. -/
def execHeartbeatLoss (s : State) : StepOutcome :=
  s.run .heartbeatLoss fun s => s.onConc fun c => c.heartbeatLoss

/-- `RELINQUISH` (R387).  A received RELINQUISH starts a takeover at the standby. -/
def execRelinquish (n : Nat) (w : Word) (s : State) : StepOutcome :=
  s.run (.relinquish n w) fun s => s.onConc fun c => (c.take (lanePeer n) [w]).relinquishReceived

/-- `TAKEOVER_REQUEST` (R391).  A received TAKEOVER_REQUEST makes the active partner relinquish. -/
def execTakeoverRequest (n : Nat) (w : Word) (s : State) : StepOutcome :=
  s.run (.takeoverRequest n w) fun s => s.onConc fun c => (c.take (lanePeer n) [w]).takeoverRequest

/-- `TAKEOVER_COMPLETE` (R388).  Images verified and instances started, the new active posts takeover complete. -/
def execTakeoverComplete (s : State) : StepOutcome :=
  s.run .takeoverComplete fun s => s.onConc fun c => c.takeoverComplete

/-- `TAKEOVER_CLAIM_TIMEOUT` (R389).  All claims refused for 2 s return the concentrator to COLD_STANDBY with PartnerLost. -/
def execTakeoverClaimTimeout (s : State) : StepOutcome :=
  s.run .takeoverClaimTimeout fun s => s.onConc fun c => c.takeoverClaimTimeout

/-- `CHECKPOINT_PUSH` (R385).  The active partner pushes a complete checkpoint after a change or each period. -/
def execCheckpointPush (s : State) : StepOutcome :=
  s.run .checkpointPush fun s => s.onConc fun c => c.checkpointPush

/-- `CHECKPOINT_RECEIVE` (R386).  A completed CheckpointData transfer becomes the standby's valid checkpoint. -/
def execCheckpointReceive (k : Checkpoint) (version : Bool) (s : State) : StepOutcome :=
  s.run (.checkpointReceive k version) fun s => s.onConc fun c => c.checkpointIn k version

/-- `CHECKPOINT_IMAGE_RECEIVE` (R386).  A pushed task image is written to the standby's flash image area. -/
def execCheckpointImageReceive (len v : Nat) (s : State) : StepOutcome :=
  s.run (.checkpointImageReceive len v) fun s => s.onConcUp fun c => c.hostWrite 2 (sourceLane 2) 0 O.checkpointImage.index O.checkpointImage.sub len v

/-- `PARTNER_RELINQUISH` (R391).  PartnerCommand 1 on the active partner runs the relinquish procedure. -/
def execPartnerRelinquish (src : Nat) (s : State) : StepOutcome :=
  s.run (.partnerRelinquish src) fun s => s.onConcUp fun c => c.hw src O.partnerCommand 1

/-- `PARTNER_REQUEST_TAKEOVER` (R391).  PartnerCommand 2 on the standby sends TAKEOVER_REQUEST. -/
def execPartnerRequestTakeover (src : Nat) (s : State) : StepOutcome :=
  s.run (.partnerRequestTakeover src) fun s => s.onConcUp fun c => c.hw src O.partnerCommand 2

/-- `PARTNER_FORCE_TAKEOVER` (R387).  PartnerCommand 3 forces a takeover. -/
def execPartnerForceTakeover (src : Nat) (s : State) : StepOutcome :=
  s.run (.partnerForceTakeover src) fun s => s.onConcUp fun c => c.hw src O.partnerCommand 3

/-- `ROLE_DECISION` (R375).  After up to 60 ms at lease claim a prefer-standby unit becomes COLD_STANDBY or ACTIVE. -/
def execRoleDecision (s : State) : StepOutcome :=
  s.run .roleDecision fun s => s.onConc fun c => c.roleDecided

/-- `STANDBY_SELF_TEST_STEP` (R383).  The cold standby tests its next SRAM macro or logic slice. -/
def execStandbySelfTestStep (pass : Bool) (s : State) : StepOutcome :=
  s.run (.standbySelfTestStep pass) fun s => s.onConc fun c => c.selfTestStep pass

end Sys2Proof.Machine
end

