-- ==== Sys2Proof/Machine/CmdReset.lean ====
section
/-! DEFINITION. The commands of supply, reset, watchdogs, boot and temperature (chapters 22 and 23). -/

namespace Sys2Proof.Machine

/-- `BROWN_OUT` (R460).  Supply below 4.2 V for 2 µs asserts a power-on reset. -/
def execBrownOut (p : Part) (s : State) : StepOutcome :=
  s.run (.brownOut p) fun s => s.atRaw p (fun c => c.brownOut) fun f => f.brownOut

/-- `SUPPLY_RELEASE` (R461).  Supply above 4.4 V releases reset and starts the regulators. -/
def execSupplyRelease (p : Part) (s : State) : StepOutcome :=
  s.run (.supplyRelease p) fun s => s.atRaw p (fun c => c.supplyRelease) fun f => f.supplyRelease

/-- `RST_N_ASSERT` (R464).  RST_N low for 10 µs asserts a system reset. -/
def execRstNAssert (p : Part) (us : Nat) (s : State) : StepOutcome :=
  s.run (.rstNAssert p us) fun s => s.atRaw p (fun c => c.rstAssert us) fun f => f.rstAssert us

/-- `RST_N_RELEASE` (R464).  RST_N sampled high ends the system reset. -/
def execRstNRelease (p : Part) (s : State) : StepOutcome :=
  s.run (.rstNRelease p) fun s => s.atRaw p (fun c => c.rstRelease) fun f => f.rstRelease

/-- `RST_N_STUCK` (R465).  RST_N low for 5 s is treated as stuck and the part leaves reset. -/
def execRstNStuck (p : Part) (s : State) : StepOutcome :=
  s.run (.rstNStuck p) fun s => s.atRaw p (fun c => c.rstStuck) fun f => f.rstStuck

/-- `RESET_COMMAND` (R466).  The reset signature in ResetCommand schedules a concentrator system reset. -/
def execResetCommand (src v : Nat) (s : State) : StepOutcome :=
  s.run (.resetCommand src v) fun s => s.onConcUp fun c => c.hw src O.resetCommand v

/-- `FE_RESET_COMMAND` (R466).  The reset signature in FeResetCommand schedules a front-end system reset. -/
def execFeResetCommand (side v : Nat) (s : State) : StepOutcome :=
  s.run (.feResetCommand side v) fun s => s.onFe fun f => f.hw side O.feResetCommand v 0

/-- `SOFTWARE_RESET_DUE` (R466).  10 ms or 1 ms after the response the requested system reset happens. -/
def execSoftwareResetDue (p : Part) (s : State) : StepOutcome :=
  s.run (.softwareResetDue p) fun s => s.atRaw p (fun c => c.resetDue) fun f => f.resetDue

/-- `WATCHDOG_RESTART` (R467).  The firmware restarts the Ringmaster watchdog. -/
def execWatchdogRestart (s : State) : StepOutcome :=
  s.run .watchdogRestart fun s => s.onConc fun c => c.watchdogRestart

/-- `WATCHDOG_EXPIRY` (R467).  No restart for WatchdogPeriod causes a system reset. -/
def execWatchdogExpiry (s : State) : StepOutcome :=
  s.run .watchdogExpiry fun s => s.onHardware fun c => c.watchdogExpiry

/-- `BOOT_WATCHDOG_EXPIRY` (R468).  STANDBY not reached within 60 s causes a system reset. -/
def execBootWatchdogExpiry (s : State) : StepOutcome :=
  s.run .bootWatchdogExpiry fun s => s.onConcUp fun c => c.bootWatchdog

/-- `BOOT_LADDER` (R469).  After reset the concentrator runs its boot ladder to STANDBY or RECOVERY. -/
def execBootLadder (pins : Nat) (cold : Bool) (failing : List (Nat × Nat)) (newerBad olderBad : Bool) (s : State) : StepOutcome :=
  s.run (.bootLadder pins cold failing newerBad olderBad) fun s => s.onConcUp fun c => c.bootLadder pins cold failing newerBad olderBad

/-- `WARMUP_COMPLETE` (R470).  Both HBM sensors reach 0 °C and the boot proceeds. -/
def execWarmupComplete (s : State) : StepOutcome :=
  s.run .warmupComplete fun s => s.onConcUp fun c => c.warmupDone

/-- `WARMUP_LIMIT` (R470).  A warm-up lasting 600 s posts cause 0x2E. -/
def execWarmupLimit (s : State) : StepOutcome :=
  s.run .warmupLimit fun s => s.onConcUp fun c => c.warmupLimit

/-- `FE_BOOT_LADDER` (R472).  After reset the front-end runs its boot ladder to STANDBY awaiting a downlink. -/
def execFeBootLadder (failing : List (Nat × Nat)) (s : State) : StepOutcome :=
  s.run (.feBootLadder failing) fun s => s.onFeRaw fun f => f.bootLadder failing

/-- `DIE_OVERTEMP_WARNING` (R490).  Die above 110 °C posts a warning, repeated every 10 s. -/
def execDieOvertempWarning (p : Part) (milliC : Int) (s : State) : StepOutcome :=
  s.run (.dieOvertempWarning p milliC) fun s => s.atUp p (fun c => c.overTempWarning milliC) fun f => f.overTempWarning milliC

/-- `DIE_OVERTEMP_SHUTDOWN` (R490).  Die above 125 °C removes core power as a brown-out. -/
def execDieOvertempShutdown (p : Part) (milliC : Int) (s : State) : StepOutcome :=
  s.run (.dieOvertempShutdown p milliC) fun s => s.atRaw p (fun c => c.overTempShutdown milliC) fun f => f.overTempShutdown milliC

/-- `RST_N_STUCK_REARM` (R465).  After a stuck release, RST_N sampled high without a break for 100 ms is watched again. -/
def execRstNStuckRearm (p : Part) (s : State) : StepOutcome :=
  s.run (.rstNStuckRearm p) fun s => s.atRaw p (fun c => c.rstRearm) fun f => f.rstRearm

/-- `DIE_OVERTEMP_RECOVERY` (R490).  The die cools below 115 °C after an over-temperature shutdown and the part leaves reset. -/
def execDieOvertempRecovery (p : Part) (milliC : Int) (s : State) : StepOutcome :=
  s.run (.dieOvertempRecovery p milliC) fun s => s.atRaw p (fun c => c.overTempRecovery milliC) fun f => f.overTempRecovery milliC

/-- `BUCK_STOP` (R482).  VBUCK below 1.0 V for 2 ms stops the front-end buck converter and takes the core down. -/
def execBuckStop (s : State) : StepOutcome :=
  s.run .buckStop fun s => s.onFeRaw fun f => f.buckStop

/-- `BUCK_RESTART` (R482).  20 ms after a buck stop the converter restarts. -/
def execBuckRestart (s : State) : StepOutcome :=
  s.run .buckRestart fun s => s.onFeRaw fun f => f.buckRestart

end Sys2Proof.Machine
end

