-- ==== Sys2Proof/Machine/CmdSafety.lean ====
section
/-! DEFINITION. The commands of the Safety Net (chapter 21). -/

namespace Sys2Proof.Machine

/-- `SAFETY_INPUT_CHANGE` (R450).  A Safety Net input holds a new level for 0.5 ms and permission is re-evaluated. -/
def execSafetyInputChange (n level : Nat) (s : State) : StepOutcome :=
  s.run (.safetyInputChange n level) fun s => s.onSafety fun c => c.safetyInput n level

/-- `RELEASE_DELAY_END` (R451).  The permit conditions held for ReleaseDelay make the state PERMITTED. -/
def execReleaseDelayEnd (s : State) : StepOutcome :=
  s.run .releaseDelayEnd fun s => s.onSafety fun c => c.releaseDelayEnd

/-- `BIAS_REQUEST_WRITE` (R451).  BiasRequest sets the requested Safety Net outputs. -/
def execBiasRequestWrite (src v : Nat) (s : State) : StepOutcome :=
  s.run (.biasRequestWrite src v) fun s => s.onConcUp fun c => c.hw src O.biasRequest v

/-- `RELAY_FEEDBACK_CHECK` (R452).  FeedbackTime after a change, a feedback mismatch sets FAULT. -/
def execRelayFeedbackCheck (k : Nat) (high : Bool) (s : State) : StepOutcome :=
  s.run (.relayFeedbackCheck k high) fun s => s.onSafety fun c => c.relayFeedback k high

/-- `TEST_PULSE_START` (R453).  Every 10 s an on output is driven off for 300 µs. -/
def execTestPulseStart (k : Nat) (s : State) : StepOutcome :=
  s.run (.testPulseStart k) fun s => s.onSafety fun c => c.testPulseStart k

/-- `TEST_PULSE_END` (R453).  The test pulse ends and its readback is judged. -/
def execTestPulseEnd (off on : Bool) (s : State) : StepOutcome :=
  s.run (.testPulseEnd off on) fun s => s.onSafety fun c => c.testPulseEnd off on

/-- `STIMULUS_TEST` (R454).  The stimulus LED is flashed and SN_LIGHT must rise and fall in time. -/
def execStimulusTest (rose fell : Bool) (s : State) : StepOutcome :=
  s.run (.stimulusTest rose fell) fun s => s.onSafety fun c => c.stimulusTest rose fell

/-- `SAFETY_CLEAR_FAULT` (R459).  SafetyCommand 1 clears a Safety Net fault. -/
def execSafetyClearFault (src : Nat) (s : State) : StepOutcome :=
  s.run (.safetyClearFault src) fun s => s.onConcUp fun c => c.hw src O.safetyCommand 1

/-- `SAFETY_RUN_STIMULUS` (R454).  SafetyCommand 2 runs the stimulus test. -/
def execSafetyRunStimulus (src : Nat) (rose fell : Bool) (s : State) : StepOutcome :=
  s.run (.safetyRunStimulus src rose fell) fun s => s.onConcUp fun c => c.hwWith src O.safetyCommand 2 (.stimulus rose fell) fun c => c.safetyRunStimulus src rose fell

/-- `SAFETY_BUNDLE_WRITE` (R455).  A signed Safety Net bundle is verified, stored and applied. -/
def execSafetyBundleWrite (src v : Nat) (s : State) : StepOutcome :=
  s.run (.safetyBundleWrite src v) fun s => s.onConcUp fun c => c.hw src O.safetyBundleData v

end Sys2Proof.Machine
end

