-- ==== Sys2Proof/Machine/CmdSecurity.lean ====
section
/-! DEFINITION. The commands of enrolment, firmware, attestation and debug unlock (chapter 18). -/

namespace Sys2Proof.Machine

/-- `OWNER_KEY_ENROL` (R398).  The session holder burns the owner key hash and seal. -/
def execOwnerKeyEnrol (src hash : Nat) (cut : Bool) (s : State) : StepOutcome :=
  s.run (.ownerKeyEnrol src hash cut) fun s => s.onConcUp fun c => c.hwWith src O.ownerKeyHash hash (.enrol hash cut) fun c => c.enrolOwner hash cut

/-- `FIRMWARE_FLOOR_COMMIT` (R399).  FirmwareFloorCommit raises the firmware floor to the running version. -/
def execFirmwareFloorCommit (src v : Nat) (s : State) : StepOutcome :=
  s.run (.firmwareFloorCommit src v) fun s => s.onConcUp fun c => c.hw src O.firmwareFloorCommit v

/-- `OWNER_FLOOR_COMMIT` (R399).  OwnerFloorCommit raises the owner floor. -/
def execOwnerFloorCommit (src v : Nat) (s : State) : StepOutcome :=
  s.run (.ownerFloorCommit src v) fun s => s.onConcUp fun c => c.hw src O.ownerFloorCommit v

/-- `FIRMWARE_IMAGE_VERIFY` (R403).  The last segment of a firmware image triggers its verification in the inactive slot. -/
def execFirmwareImageVerify (src len v : Nat) (s : State) : StepOutcome :=
  s.run (.firmwareImageVerify src len v) fun s => s.onConcUp fun c => c.hostWrite src (sourceLane src) 0 O.firmwareImageData.index O.firmwareImageData.sub len v

/-- `FIRMWARE_ACTIVATE` (R403).  FirmwareActivate makes the written slot preferred on trial. -/
def execFirmwareActivate (src v : Nat) (s : State) : StepOutcome :=
  s.run (.firmwareActivate src v) fun s => s.onConcUp fun c => c.hw src O.firmwareActivate v

/-- `ATTEST_RUN` (R404).  AttestRun starts building a signed attestation report. -/
def execAttestRun (src v : Nat) (s : State) : StepOutcome :=
  s.run (.attestRun src v) fun s => s.onConcUp fun c => c.hw src O.attestRun v

/-- `ATTEST_COMPLETE` (R404).  The attestation report is signed and published. -/
def execAttestComplete (s : State) : StepOutcome :=
  s.run .attestComplete fun s => s.onConc fun c => c.attestDone

/-- `DEBUG_TOKEN` (R405).  A debug token written to DebugToken unlocks its scopes or is refused. -/
def execDebugToken (src v : Nat) (s : State) : StepOutcome :=
  s.run (.debugToken src v) fun s => s.onConcUp fun c => c.hw src O.debugToken v

/-- `DEBUG_LOCK` (R405).  DebugLock relocks every scope and draws a new challenge. -/
def execDebugLock (src v : Nat) (s : State) : StepOutcome :=
  s.run (.debugLock src v) fun s => s.onConcUp fun c => c.hw src O.debugLock v

end Sys2Proof.Machine
end

