-- ==== Sys2Proof/Machine/CmdTime.lean ====
section
/-! DEFINITION. The commands of the time base: the counter, PPS, marks, the TIU (chapter 07). -/

namespace Sys2Proof.Machine

/-- `ROLLOVER` (R148).  The nanosecond counter reaches 10^9 ns, increments seconds and starts a new second. -/
def execRollover (s : State) : StepOutcome :=
  s.run .rollover fun s => s.onConcUp fun c => c.secondEnds

/-- `PPS_WINDOW_CLOSE` (R154).  A PPS window closes without an accepted edge, counts a miss and may enter HOLDOVER. -/
def execPpsWindowClose (s : State) : StepOutcome :=
  s.run .ppsWindowClose fun s => s.onHardware fun c => c.ppsWindowClose

/-- `PPS_EDGE` (R152).  A PPS edge is captured, judged against its window and reported in a PPS_RECORD. -/
def execPpsEdge (falling : Bool) (delay : Nat) (s : State) : StepOutcome :=
  s.run (.ppsEdge falling delay) fun s => s.onHardware fun c => c.ppsEdge falling delay

/-- `ALIGN_ARM_WRITE` (R155).  Writing AlignArm arms or disarms alignment on the next PPS edge. -/
def execAlignArmWrite (src v : Nat) (s : State) : StepOutcome :=
  s.run (.alignArmWrite src v) fun s => s.onConcUp fun c => c.hw src O.alignArm v

/-- `INCREMENT_WRITE` (R151).  A written base or AO increment is range-checked and held pending until the next rollover. -/
def execIncrementWrite (src : Nat) (ao : Bool) (v : Nat) (s : State) : StepOutcome :=
  s.run (.incrementWrite src ao v) fun s => s.onConcUp fun c => c.hw src (if ao then O.incrementAo else O.incrementBase) v

/-- `COUNTER_TO_AO` (R150).  On a planned base-clock stop the counter switches to AO increments at an AO edge. -/
def execCounterToAo (s : State) : StepOutcome :=
  s.run .counterToAo fun s => s.onConcUp fun c => c.plannedStop

/-- `COUNTER_TO_BASE` (R150).  On a base-clock restart the counter switches back to base increments at an AO edge. -/
def execCounterToBase (s : State) : StepOutcome :=
  s.run .counterToBase fun s => s.onConcUp fun c => c.counterBack.resume

/-- `SECOND_MARK_SEND` (R157).  The concentrator sends SECOND_MARK for a port in the earliest slot that starts the epoch on time. -/
def execSecondMarkSend (p : Nat) (s : State) : StepOutcome :=
  s.run (.secondMarkSend p) fun s => s.onBase fun c => c.secondMarkSend p

/-- `TIU_RUN_START` (R164).  TiuRun 1 starts a TIU run in the configured mode. -/
def execTiuRunStart (src : Nat) (s : State) : StepOutcome :=
  s.run (.tiuRunStart src) fun s => s.onConcUp fun c => c.hw src O.tiuRun 1

/-- `TIU_RUN_ABORT` (R164).  TiuRun 0 aborts a TIU run. -/
def execTiuRunAbort (src : Nat) (s : State) : StepOutcome :=
  s.run (.tiuRunAbort src) fun s => s.onConcUp fun c => c.hw src O.tiuRun 0

/-- `TIU_ECHO_SEND` (R164).  In port-echo mode the TIU sends an ECHO_REQUEST every 180 base ticks. -/
def execTiuEchoSend (s : State) : StepOutcome :=
  s.run .tiuEchoSend fun s => s.onBase fun c => c.ungated 0 fun c => c.tiuEchoSend

/-- `TIU_START_EDGE` (R164).  A TI_START edge registers a pending start in pin mode. -/
def execTiuStartEdge (beat : Nat) (gate : Bool) (s : State) : StepOutcome :=
  s.run (.tiuStartEdge beat gate) fun s => s.onBase fun c => c.ungated 0 fun c => c.tiuStartEdge beat gate

/-- `TIU_STOP_EDGE` (R165).  A TI_STOP edge forms a sample or is rejected as out of order. -/
def execTiuStopEdge (beat sub : Nat) (s : State) : StepOutcome :=
  s.run (.tiuStopEdge beat sub) fun s => s.onBase fun c => c.ungated 0 fun c => c.tiuStopEdge beat sub

/-- `TIU_SAMPLE_TIMEOUT` (R165).  A start without a stop within 2^24 beats is discarded and counted. -/
def execTiuSampleTimeout (s : State) : StepOutcome :=
  s.run .tiuSampleTimeout fun s => s.onBase fun c => c.ungated 0 fun c => c.tiuTimeout

/-- `LATENCY_PERIOD_DUE` (R167).  LatencyPeriod expires and the Ringmaster starts measuring a leased port. -/
def execLatencyPeriodDue (p : Nat) (s : State) : StepOutcome :=
  s.run (.latencyPeriodDue p) fun s => s.onBase fun c => c.ungated 0 fun c => c.latencyDue p

/-- `TIME_NOW_READ` (R171).  Reading TimeSeconds latches all three counter fields. -/
def execTimeNowRead (src : Nat) (s : State) : StepOutcome :=
  s.run (.timeNowRead src) fun s => s.onConcUp fun c => c.hr src O.timeSeconds

/-- `PPS_CAPTURE_READ` (R171).  Reading PpsSeconds latches the capture and verdict. -/
def execPpsCaptureRead (src : Nat) (s : State) : StepOutcome :=
  s.run (.ppsCaptureRead src) fun s => s.onConcUp fun c => c.hr src O.ppsSeconds

end Sys2Proof.Machine
end

