-- ==== Sys2Proof/Machine/Dispatch.lean ====
section
/-! DEFINITION. What each command does: one arm per constructor, each the call of its meaning. -/

namespace Sys2Proof.Machine

/-- The effect of a command on everything but the queue. -/
def exec (i : Instr) (s : State) : Host.Outcome State Fault Refusal :=
  match i with
  | .timingCrossing c beat code width val => Sys2Proof.Machine.execTimingCrossing c beat code width val s
  | .trailingEdge c fine ups reading => Sys2Proof.Machine.execTrailingEdge c fine ups reading s
  | .totSaturated c beat ups reading => Sys2Proof.Machine.execTotSaturated c beat ups reading s
  | .lostHitReportFull c => Sys2Proof.Machine.execLostHitReportFull c s
  | .baselineSaturationChange c microAmps => Sys2Proof.Machine.execBaselineSaturationChange c microAmps s
  | .channelTableWrite side index sub len v => Sys2Proof.Machine.execChannelTableWrite side index sub len v s
  | .channelSettleEnd c => Sys2Proof.Machine.execChannelSettleEnd c s
  | .spareAssignWrite side g v => Sys2Proof.Machine.execSpareAssignWrite side g v s
  | .spareBlankEnd c => Sys2Proof.Machine.execSpareBlankEnd c s
  | .baselineStatusRead side => Sys2Proof.Machine.execBaselineStatusRead side s
  | .secondMark side w age pos => Sys2Proof.Machine.execSecondMark side w age pos s
  | .culletHistogramFull g k => Sys2Proof.Machine.execCulletHistogramFull g k s
  | .culletTableComputed g k => Sys2Proof.Machine.execCulletTableComputed g k s
  | .pulserInject g beat code => Sys2Proof.Machine.execPulserInject g beat code s
  | .culletTableLoad side len v => Sys2Proof.Machine.execCulletTableLoad side len v s
  | .culletFreezeWrite side v => Sys2Proof.Machine.execCulletFreezeWrite side v s
  | .histogramExponentWrite side v => Sys2Proof.Machine.execHistogramExponentWrite side v s
  | .timeCorrectionWrite side index sub len v => Sys2Proof.Machine.execTimeCorrectionWrite side index sub len v s
  | .groupRequestWake side mask => Sys2Proof.Machine.execGroupRequestWake side mask s
  | .groupRequestSleep side mask => Sys2Proof.Machine.execGroupRequestSleep side mask s
  | .groupWake side w => Sys2Proof.Machine.execGroupWake side w s
  | .groupSleep side w => Sys2Proof.Machine.execGroupSleep side w s
  | .groupPowerModeWrite side g v => Sys2Proof.Machine.execGroupPowerModeWrite side g v s
  | .aoActivitySample g => Sys2Proof.Machine.execAoActivitySample g s
  | .groupPllLocked g => Sys2Proof.Machine.execGroupPllLocked g s
  | .groupDllLocked g => Sys2Proof.Machine.execGroupDllLocked g s
  | .groupWakeComplete g => Sys2Proof.Machine.execGroupWakeComplete g s
  | .groupIdleTimeout g => Sys2Proof.Machine.execGroupIdleTimeout g s
  | .groupLockLoss g => Sys2Proof.Machine.execGroupLockLoss g s
  | .sorterTake g flips => Sys2Proof.Machine.execSorterTake g flips s
  | .sorterRelease g flips => Sys2Proof.Machine.execSorterRelease g flips s
  | .uplinkSlot side => Sys2Proof.Machine.execUplinkSlot side s
  | .sorterStatusRead side g => Sys2Proof.Machine.execSorterStatusRead side g s
  | .signalDetect l => Sys2Proof.Machine.execSignalDetect l s
  | .signalLoss l => Sys2Proof.Machine.execSignalLoss l s
  | .cdrLocked l => Sys2Proof.Machine.execCdrLocked l s
  | .cdrLockTimeout l => Sys2Proof.Machine.execCdrLockTimeout l s
  | .cellArrival l line => Sys2Proof.Machine.execCellArrival l line s
  | .tightropeJudge x => Sys2Proof.Machine.execTightropeJudge x s
  | .tightropeRetry x => Sys2Proof.Machine.execTightropeRetry x s
  | .trainDetectSense x positive => Sys2Proof.Machine.execTrainDetectSense x positive s
  | .trainDwellEnd x => Sys2Proof.Machine.execTrainDwellEnd x s
  | .trainingTimeout x => Sys2Proof.Machine.execTrainingTimeout x s
  | .trainHoldoffEnd x => Sys2Proof.Machine.execTrainHoldoffEnd x s
  | .laneParkRequest src x => Sys2Proof.Machine.execLaneParkRequest src x s
  | .parkEntry x => Sys2Proof.Machine.execParkEntry x s
  | .laneUnpark src x => Sys2Proof.Machine.execLaneUnpark src x s
  | .unparkDeadline l => Sys2Proof.Machine.execUnparkDeadline l s
  | .prbsTestStart src x code => Sys2Proof.Machine.execPrbsTestStart src x code s
  | .fePrbsTestStart side l code => Sys2Proof.Machine.execFePrbsTestStart side l code s
  | .fePrbsTestStop side l => Sys2Proof.Machine.execFePrbsTestStop side l s
  | .prbsDurationEnd l => Sys2Proof.Machine.execPrbsDurationEnd l s
  | .quadPllLockLoss p n => Sys2Proof.Machine.execQuadPllLockLoss p n s
  | .quadPllRelock p n => Sys2Proof.Machine.execQuadPllRelock p n s
  | .txSlot x => Sys2Proof.Machine.execTxSlot x s
  | .replayTimerExpiry l => Sys2Proof.Machine.execReplayTimerExpiry l s
  | .ackProgressTimeout l => Sys2Proof.Machine.execAckProgressTimeout l s
  | .answerTimeout l => Sys2Proof.Machine.execAnswerTimeout l s
  | .mgmtRead p tid index sub poisoned => Sys2Proof.Machine.execMgmtRead p tid index sub poisoned s
  | .mgmtWrite p tid index sub len v poisoned => Sys2Proof.Machine.execMgmtWrite p tid index sub len v poisoned s
  | .mgmtReadAt p tid index sub off cnt poisoned => Sys2Proof.Machine.execMgmtReadAt p tid index sub off cnt poisoned s
  | .mgmtWriteAt p tid index sub off last len v poisoned => Sys2Proof.Machine.execMgmtWriteAt p tid index sub off last len v poisoned s
  | .mgmtResponse l ws => Sys2Proof.Machine.execMgmtResponse l ws s
  | .echoRequest side w age => Sys2Proof.Machine.execEchoRequest side w age s
  | .echoReply l w beat sub => Sys2Proof.Machine.execEchoReply l w beat sub s
  | .leaseRenew side w => Sys2Proof.Machine.execLeaseRenew side w s
  | .leaseClaim side w both => Sys2Proof.Machine.execLeaseClaim side w both s
  | .leaseAck l w => Sys2Proof.Machine.execLeaseAck l w s
  | .feFault l w => Sys2Proof.Machine.execFeFault l w s
  | .beEchoRequest n w age => Sys2Proof.Machine.execBeEchoRequest n w age s
  | .ppsEdge falling delay => Sys2Proof.Machine.execPpsEdge falling delay s
  | .alignArmWrite src v => Sys2Proof.Machine.execAlignArmWrite src v s
  | .incrementWrite src ao v => Sys2Proof.Machine.execIncrementWrite src ao v s
  | .secondMarkSend p => Sys2Proof.Machine.execSecondMarkSend p s
  | .tiuRunStart src => Sys2Proof.Machine.execTiuRunStart src s
  | .tiuRunAbort src => Sys2Proof.Machine.execTiuRunAbort src s
  | .tiuStartEdge beat gate => Sys2Proof.Machine.execTiuStartEdge beat gate s
  | .tiuStopEdge beat sub => Sys2Proof.Machine.execTiuStopEdge beat sub s
  | .latencyPeriodDue p => Sys2Proof.Machine.execLatencyPeriodDue p s
  | .timeNowRead src => Sys2Proof.Machine.execTimeNowRead src s
  | .ppsCaptureRead src => Sys2Proof.Machine.execPpsCaptureRead src s
  | .gatherCellTake l => Sys2Proof.Machine.execGatherCellTake l s
  | .laneStaleTimeout l => Sys2Proof.Machine.execLaneStaleTimeout l s
  | .carouselStart src => Sys2Proof.Machine.execCarouselStart src s
  | .carouselStop src => Sys2Proof.Machine.execCarouselStop src s
  | .triginEdge n falling beat code width => Sys2Proof.Machine.execTriginEdge n falling beat code width s
  | .lookbackRequest n w1 w2 => Sys2Proof.Machine.execLookbackRequest n w1 w2 s
  | .extractionStart ch => Sys2Proof.Machine.execExtractionStart ch s
  | .extractionComplete ch => Sys2Proof.Machine.execExtractionComplete ch s
  | .carouselStatusRead src => Sys2Proof.Machine.execCarouselStatusRead src s
  | .engineInstruction e => Sys2Proof.Machine.execEngineInstruction e s
  | .qpop e => Sys2Proof.Machine.execQpop e s
  | .qpeek e => Sys2Proof.Machine.execQpeek e s
  | .qtime e => Sys2Proof.Machine.execQtime e s
  | .qhist e => Sys2Proof.Machine.execQhist e s
  | .qtrig e => Sys2Proof.Machine.execQtrig e s
  | .qemit e => Sys2Proof.Machine.execQemit e s
  | .qwait e => Sys2Proof.Machine.execQwait e s
  | .qslice e => Sys2Proof.Machine.execQslice e s
  | .resultReturn x rd => Sys2Proof.Machine.execResultReturn x rd s
  | .feedDataArrival x n => Sys2Proof.Machine.execFeedDataArrival x n s
  | .ecallExit e => Sys2Proof.Machine.execEcallExit e s
  | .ecallSetRestart e => Sys2Proof.Machine.execEcallSetRestart e s
  | .ecallLog e => Sys2Proof.Machine.execEcallLog e s
  | .serviceComplete x => Sys2Proof.Machine.execServiceComplete x s
  | .instanceStart src => Sys2Proof.Machine.execInstanceStart src s
  | .instanceSuspend src => Sys2Proof.Machine.execInstanceSuspend src s
  | .instanceResume src => Sys2Proof.Machine.execInstanceResume src s
  | .instanceKill src => Sys2Proof.Machine.execInstanceKill src s
  | .drainComplete x => Sys2Proof.Machine.execDrainComplete x s
  | .instanceRestart src => Sys2Proof.Machine.execInstanceRestart src s
  | .instanceRunnable x => Sys2Proof.Machine.execInstanceRunnable x s
  | .taskLoad src k => Sys2Proof.Machine.execTaskLoad src k s
  | .taskUnload src k => Sys2Proof.Machine.execTaskUnload src k s
  | .parityRestart x => Sys2Proof.Machine.execParityRestart x s
  | .clusterIdleTimeout k => Sys2Proof.Machine.execClusterIdleTimeout k s
  | .clusterWakeComplete k => Sys2Proof.Machine.execClusterWakeComplete k s
  | .moverTailWrite ch v => Sys2Proof.Machine.execMoverTailWrite ch v s
  | .moverResume ch => Sys2Proof.Machine.execMoverResume ch s
  | .moverAbort ch => Sys2Proof.Machine.execMoverAbort ch s
  | .moverCopy ch beats => Sys2Proof.Machine.execMoverCopy ch beats s
  | .moverScatter ch beats => Sys2Proof.Machine.execMoverScatter ch beats s
  | .moverFill ch beats => Sys2Proof.Machine.execMoverFill ch beats s
  | .moverSend ch beats => Sys2Proof.Machine.execMoverSend ch beats s
  | .moverCompress ch beats => Sys2Proof.Machine.execMoverCompress ch beats s
  | .moverCrc ch beats => Sys2Proof.Machine.execMoverCrc ch beats s
  | .descriptorComplete ch => Sys2Proof.Machine.execDescriptorComplete ch s
  | .marverBlockFlush ch => Sys2Proof.Machine.execMarverBlockFlush ch s
  | .flipArmWrite src v => Sys2Proof.Machine.execFlipArmWrite src v s
  | .eccLastErrorRead src => Sys2Proof.Machine.execEccLastErrorRead src s
  | .class0ResidenceRead src => Sys2Proof.Machine.execClass0ResidenceRead src s
  | .usdoRequest session write index sub len v toggle last => Sys2Proof.Machine.execUsdoRequest session write index sub len v toggle last s
  | .nmtResetNode pins => Sys2Proof.Machine.execNmtResetNode pins s
  | .nmtResetCommunication pins => Sys2Proof.Machine.execNmtResetCommunication pins s
  | .tpdoSend k => Sys2Proof.Machine.execTpdoSend k s
  | .storeAll src k v => Sys2Proof.Machine.execStoreAll src k v s
  | .restoreDefaults src k v => Sys2Proof.Machine.execRestoreDefaults src k v s
  | .sessionOpen src lane pw => Sys2Proof.Machine.execSessionOpen src lane pw s
  | .sessionClose src v => Sys2Proof.Machine.execSessionClose src v s
  | .passwordChange src pw => Sys2Proof.Machine.execPasswordChange src pw s
  | .stagingTimeout p src index sub => Sys2Proof.Machine.execStagingTimeout p src index sub s
  | .errorHistoryClear src v => Sys2Proof.Machine.execErrorHistoryClear src v s
  | .registerWrite p src index sub len v => Sys2Proof.Machine.execRegisterWrite p src index sub len v s
  | .clockSourceDead p n => Sys2Proof.Machine.execClockSourceDead p n s
  | .clockSourceAlive p n => Sys2Proof.Machine.execClockSourceAlive p n s
  | .stabilityWindow p n good => Sys2Proof.Machine.execStabilityWindow p n good s
  | .aoTrimWindow p ppm => Sys2Proof.Machine.execAoTrimWindow p ppm s
  | .meterRun src v => Sys2Proof.Machine.execMeterRun src v s
  | .meterGateEnd count => Sys2Proof.Machine.execMeterGateEnd count s
  | .clockGateWrite p src busy v => Sys2Proof.Machine.execClockGateWrite p src busy v s
  | .gateForce p b => Sys2Proof.Machine.execGateForce p b s
  | .powerRequestAsleep src => Sys2Proof.Machine.execPowerRequestAsleep src s
  | .powerRequestColdStandby src => Sys2Proof.Machine.execPowerRequestColdStandby src s
  | .powerRequestStandby src => Sys2Proof.Machine.execPowerRequestStandby src s
  | .powerRequestObserve src => Sys2Proof.Machine.execPowerRequestObserve src s
  | .feModeRequestSleep side => Sys2Proof.Machine.execFeModeRequestSleep side s
  | .feModeRequestStandby side => Sys2Proof.Machine.execFeModeRequestStandby side s
  | .feModeRequestObserve side => Sys2Proof.Machine.execFeModeRequestObserve side s
  | .faultDecrement p => Sys2Proof.Machine.execFaultDecrement p s
  | .resourceSelfTestStart p kind num => Sys2Proof.Machine.execResourceSelfTestStart p kind num s
  | .resourceSelfTestComplete p kind num passed => Sys2Proof.Machine.execResourceSelfTestComplete p kind num passed s
  | .annealRun src => Sys2Proof.Machine.execAnnealRun src s
  | .annealPassComplete failing => Sys2Proof.Machine.execAnnealPassComplete failing s
  | .feAnnealRun side => Sys2Proof.Machine.execFeAnnealRun side s
  | .feAnnealComplete failing => Sys2Proof.Machine.execFeAnnealComplete failing s
  | .hbmScrubLine busy k data check => Sys2Proof.Machine.execHbmScrubLine busy k data check s
  | .sramScrubWord data check => Sys2Proof.Machine.execSramScrubWord data check s
  | .scrubLineRetry n busy => Sys2Proof.Machine.execScrubLineRetry n busy s
  | .feConfigScrub corrected majority lost => Sys2Proof.Machine.execFeConfigScrub corrected majority lost s
  | .faultLogAck src v => Sys2Proof.Machine.execFaultLogAck src v s
  | .feRetiredRestoreWrite side v => Sys2Proof.Machine.execFeRetiredRestoreWrite side v s
  | .leaseRenewSend p => Sys2Proof.Machine.execLeaseRenewSend p s
  | .leaseClaimSend p => Sys2Proof.Machine.execLeaseClaimSend p s
  | .heartbeat n w other => Sys2Proof.Machine.execHeartbeat n w other s
  | .heartbeatTime n w => Sys2Proof.Machine.execHeartbeatTime n w s
  | .relinquish n w => Sys2Proof.Machine.execRelinquish n w s
  | .takeoverRequest n w => Sys2Proof.Machine.execTakeoverRequest n w s
  | .checkpointReceive k version => Sys2Proof.Machine.execCheckpointReceive k version s
  | .checkpointImageReceive len v => Sys2Proof.Machine.execCheckpointImageReceive len v s
  | .partnerRelinquish src => Sys2Proof.Machine.execPartnerRelinquish src s
  | .partnerRequestTakeover src => Sys2Proof.Machine.execPartnerRequestTakeover src s
  | .partnerForceTakeover src => Sys2Proof.Machine.execPartnerForceTakeover src s
  | .standbySelfTestStep pass => Sys2Proof.Machine.execStandbySelfTestStep pass s
  | .ownerKeyEnrol src hash cut => Sys2Proof.Machine.execOwnerKeyEnrol src hash cut s
  | .firmwareFloorCommit src v => Sys2Proof.Machine.execFirmwareFloorCommit src v s
  | .ownerFloorCommit src v => Sys2Proof.Machine.execOwnerFloorCommit src v s
  | .firmwareImageVerify src len v => Sys2Proof.Machine.execFirmwareImageVerify src len v s
  | .firmwareActivate src v => Sys2Proof.Machine.execFirmwareActivate src v s
  | .attestRun src v => Sys2Proof.Machine.execAttestRun src v s
  | .debugToken src v => Sys2Proof.Machine.execDebugToken src v s
  | .debugLock src v => Sys2Proof.Machine.execDebugLock src v s
  | .adcStart src => Sys2Proof.Machine.execAdcStart src s
  | .adcDataRead src => Sys2Proof.Machine.execAdcDataRead src s
  | .loopConversionRequest l input => Sys2Proof.Machine.execLoopConversionRequest l input s
  | .adcConversionComplete code rails => Sys2Proof.Machine.execAdcConversionComplete code rails s
  | .maxLoopDelayRead src => Sys2Proof.Machine.execMaxLoopDelayRead src s
  | .loopSample l => Sys2Proof.Machine.execLoopSample l s
  | .loopClearFault src l => Sys2Proof.Machine.execLoopClearFault src l s
  | .loopTuneStart src l => Sys2Proof.Machine.execLoopTuneStart src l s
  | .loopTuneAccept src l => Sys2Proof.Machine.execLoopTuneAccept src l s
  | .loopTuneAbort src l => Sys2Proof.Machine.execLoopTuneAbort src l s
  | .loopSetpointWrite src v => Sys2Proof.Machine.execLoopSetpointWrite src v s
  | .loopGainsWrite src v => Sys2Proof.Machine.execLoopGainsWrite src v s
  | .loopStatusRead src => Sys2Proof.Machine.execLoopStatusRead src s
  | .flashFire src v => Sys2Proof.Machine.execFlashFire src v s
  | .ledComplianceLoss n => Sys2Proof.Machine.execLedComplianceLoss n s
  | .feedbackRunStart src => Sys2Proof.Machine.execFeedbackRunStart src s
  | .feedbackRunAbort src => Sys2Proof.Machine.execFeedbackRunAbort src s
  | .feedbackStep codes => Sys2Proof.Machine.execFeedbackStep codes s
  | .safetyInputChange n level => Sys2Proof.Machine.execSafetyInputChange n level s
  | .biasRequestWrite src v => Sys2Proof.Machine.execBiasRequestWrite src v s
  | .relayFeedbackCheck k high => Sys2Proof.Machine.execRelayFeedbackCheck k high s
  | .testPulseStart k => Sys2Proof.Machine.execTestPulseStart k s
  | .testPulseEnd off on => Sys2Proof.Machine.execTestPulseEnd off on s
  | .stimulusTest rose fell => Sys2Proof.Machine.execStimulusTest rose fell s
  | .safetyClearFault src => Sys2Proof.Machine.execSafetyClearFault src s
  | .safetyRunStimulus src rose fell => Sys2Proof.Machine.execSafetyRunStimulus src rose fell s
  | .safetyBundleWrite src v => Sys2Proof.Machine.execSafetyBundleWrite src v s
  | .brownOut p => Sys2Proof.Machine.execBrownOut p s
  | .supplyRelease p => Sys2Proof.Machine.execSupplyRelease p s
  | .rstNAssert p us => Sys2Proof.Machine.execRstNAssert p us s
  | .rstNRelease p => Sys2Proof.Machine.execRstNRelease p s
  | .rstNStuck p => Sys2Proof.Machine.execRstNStuck p s
  | .resetCommand src v => Sys2Proof.Machine.execResetCommand src v s
  | .feResetCommand side v => Sys2Proof.Machine.execFeResetCommand side v s
  | .softwareResetDue p => Sys2Proof.Machine.execSoftwareResetDue p s
  | .bootLadder pins cold failing newerBad olderBad => Sys2Proof.Machine.execBootLadder pins cold failing newerBad olderBad s
  | .feBootLadder failing => Sys2Proof.Machine.execFeBootLadder failing s
  | .dieOvertempWarning p milliC => Sys2Proof.Machine.execDieOvertempWarning p milliC s
  | .dieOvertempShutdown p milliC => Sys2Proof.Machine.execDieOvertempShutdown p milliC s
  | .probeSelectWrite p src n v => Sys2Proof.Machine.execProbeSelectWrite p src n v s
  | .tapInstructionUpdate p code => Sys2Proof.Machine.execTapInstructionUpdate p code s
  | .tapTokenUpdate v => Sys2Proof.Machine.execTapTokenUpdate v s
  | .dmiAccess op addr v => Sys2Proof.Machine.execDmiAccess op addr v s
  | .prbsCheckerLock l => Sys2Proof.Machine.execPrbsCheckerLock l s
  | .prbsBitError l bits => Sys2Proof.Machine.execPrbsBitError l bits s
  | .prbsTestStop src x => Sys2Proof.Machine.execPrbsTestStop src x s
  | .laneEnableWrite src x on => Sys2Proof.Machine.execLaneEnableWrite src x on s
  | .portEnableWrite src v => Sys2Proof.Machine.execPortEnableWrite src v s
  | .ledComplianceRestored n => Sys2Proof.Machine.execLedComplianceRestored n s
  | .excitationComplianceChange k lost => Sys2Proof.Machine.execExcitationComplianceChange k lost s
  | .rstNStuckRearm p => Sys2Proof.Machine.execRstNStuckRearm p s
  | .dieOvertempRecovery p milliC => Sys2Proof.Machine.execDieOvertempRecovery p milliC s
  | .usdoTimeout session => Sys2Proof.Machine.execUsdoTimeout session s
  | .secondMarkExecute => Sys2Proof.Machine.execSecondMarkExecute s
  | .flywheelEpochStart => Sys2Proof.Machine.execFlywheelEpochStart s
  | .rateWindowEnd => Sys2Proof.Machine.execRateWindowEnd s
  | .mergerTake => Sys2Proof.Machine.execMergerTake s
  | .scalerIntervalEnd => Sys2Proof.Machine.execScalerIntervalEnd s
  | .rollover => Sys2Proof.Machine.execRollover s
  | .ppsWindowClose => Sys2Proof.Machine.execPpsWindowClose s
  | .counterToAo => Sys2Proof.Machine.execCounterToAo s
  | .counterToBase => Sys2Proof.Machine.execCounterToBase s
  | .tiuEchoSend => Sys2Proof.Machine.execTiuEchoSend s
  | .tiuSampleTimeout => Sys2Proof.Machine.execTiuSampleTimeout s
  | .horizonAdvance => Sys2Proof.Machine.execHorizonAdvance s
  | .sliceComplete => Sys2Proof.Machine.execSliceComplete s
  | .channelRatesPublish => Sys2Proof.Machine.execChannelRatesPublish s
  | .randomTrigger => Sys2Proof.Machine.execRandomTrigger s
  | .entryReady => Sys2Proof.Machine.execEntryReady s
  | .fillTimeout => Sys2Proof.Machine.execFillTimeout s
  | .prescaleGrid1ms => Sys2Proof.Machine.execPrescaleGrid1ms s
  | .prescaleGrid10ms => Sys2Proof.Machine.execPrescaleGrid10ms s
  | .qwaitLimitExpiry => Sys2Proof.Machine.execQwaitLimitExpiry s
  | .class0CellBuild => Sys2Proof.Machine.execClass0CellBuild s
  | .bulkRecordClose => Sys2Proof.Machine.execBulkRecordClose s
  | .nmtStart => Sys2Proof.Machine.execNmtStart s
  | .nmtStop => Sys2Proof.Machine.execNmtStop s
  | .nmtEnterPreOperational => Sys2Proof.Machine.execNmtEnterPreOperational s
  | .canHeartbeat => Sys2Proof.Machine.execCanHeartbeat s
  | .emcySend => Sys2Proof.Machine.execEmcySend s
  | .sessionTimeout => Sys2Proof.Machine.execSessionTimeout s
  | .passwordLockoutEnd => Sys2Proof.Machine.execPasswordLockoutEnd s
  | .relayRepeat => Sys2Proof.Machine.execRelayRepeat s
  | .relayTimeout => Sys2Proof.Machine.execRelayTimeout s
  | .aoCrystalReturn => Sys2Proof.Machine.execAoCrystalReturn s
  | .wakeAtAlarm => Sys2Proof.Machine.execWakeAtAlarm s
  | .wakeLadderComplete => Sys2Proof.Machine.execWakeLadderComplete s
  | .feSleepPark => Sys2Proof.Machine.execFeSleepPark s
  | .feWakeComplete => Sys2Proof.Machine.execFeWakeComplete s
  | .annealBudgetExpiry => Sys2Proof.Machine.execAnnealBudgetExpiry s
  | .leaseExpiry => Sys2Proof.Machine.execLeaseExpiry s
  | .localLeaseExpiry => Sys2Proof.Machine.execLocalLeaseExpiry s
  | .lockstepFailure => Sys2Proof.Machine.execLockstepFailure s
  | .failedHeartbeatEnd => Sys2Proof.Machine.execFailedHeartbeatEnd s
  | .heartbeatSend => Sys2Proof.Machine.execHeartbeatSend s
  | .heartbeatLoss => Sys2Proof.Machine.execHeartbeatLoss s
  | .takeoverComplete => Sys2Proof.Machine.execTakeoverComplete s
  | .takeoverClaimTimeout => Sys2Proof.Machine.execTakeoverClaimTimeout s
  | .checkpointPush => Sys2Proof.Machine.execCheckpointPush s
  | .roleDecision => Sys2Proof.Machine.execRoleDecision s
  | .attestComplete => Sys2Proof.Machine.execAttestComplete s
  | .adcCalibration => Sys2Proof.Machine.execAdcCalibration s
  | .tuneTimeout => Sys2Proof.Machine.execTuneTimeout s
  | .flashStart => Sys2Proof.Machine.execFlashStart s
  | .flashEnd => Sys2Proof.Machine.execFlashEnd s
  | .releaseDelayEnd => Sys2Proof.Machine.execReleaseDelayEnd s
  | .watchdogRestart => Sys2Proof.Machine.execWatchdogRestart s
  | .watchdogExpiry => Sys2Proof.Machine.execWatchdogExpiry s
  | .bootWatchdogExpiry => Sys2Proof.Machine.execBootWatchdogExpiry s
  | .warmupComplete => Sys2Proof.Machine.execWarmupComplete s
  | .warmupLimit => Sys2Proof.Machine.execWarmupLimit s
  | .buckStop => Sys2Proof.Machine.execBuckStop s
  | .buckRestart => Sys2Proof.Machine.execBuckRestart s

end Sys2Proof.Machine
end

