-- ==== Sys2Proof/Machine/Step.lean ====
section
/-! DEFINITION. The step of the block: the command at the front of the queue, or, on an empty queue, one base tick. -/

namespace Sys2Proof.Machine

/-- Take the command at the front and execute it on the state with the rest of the queue; with none waiting, one base tick of
both parts passes (DESIGN CHOICE, log entry 2). (DESIGN CHOICE, log entry 7). (DESIGN CHOICE, log entry 49) -/
def step (s : State) : Host.Outcome State Fault Refusal :=
  match s.pending with
  | [] => .next s.tick
  | c :: rest => exec c { s with pending := rest }

/-- The state with the command that a word of the table spells put at the front of its queue; the table gives no row any bits,
so no word spells one. (DESIGN CHOICE, log entry 7) -/
def State.withFetchWord (s : State) (nbits w : Nat) : State :=
  match Sys2Proof.decodeTableWord nbits w with
  | some c => { s with pending := c :: s.pending }
  | none => s

end Sys2Proof.Machine
end

