-- ==== Sys2Proof/Safety.lean ====
section
/-! DEFINITION. What a safe run is, and the terms that claims use: which part a command acts on, when a source's access passes the
checks that every access meets. -/

namespace Sys2Proof

open Sys2Proof.Machine

/-! ## The part a command acts on -/

/-- The part that holds a lane end. -/
def LaneRef.part : LaneRef → Part
  | .conc _ => .conc
  | .feDown _ => .fe
  | .feUp _ => .fe

/-- The part that takes requests of a way. -/
def Path.part : Path → Part
  | .feDown _ => .fe
  | .backEnd _ _ => .conc
  | .peer _ _ => .conc

/-- The part that a command acts on. -/
def Instr.target : Instr → Part
  | .timingCrossing _ _ _ _ _ => .fe
  | .trailingEdge _ _ _ _ => .fe
  | .totSaturated _ _ _ _ => .fe
  | .lostHitReportFull _ => .fe
  | .baselineSaturationChange _ _ => .fe
  | .channelTableWrite _ _ _ _ _ => .fe
  | .channelSettleEnd _ => .fe
  | .spareAssignWrite _ _ _ => .fe
  | .spareBlankEnd _ => .fe
  | .baselineStatusRead _ => .fe
  | .secondMark _ _ _ _ => .fe
  | .culletHistogramFull _ _ => .fe
  | .culletTableComputed _ _ => .fe
  | .pulserInject _ _ _ => .fe
  | .culletTableLoad _ _ _ => .fe
  | .culletFreezeWrite _ _ => .fe
  | .histogramExponentWrite _ _ => .fe
  | .timeCorrectionWrite _ _ _ _ _ => .fe
  | .groupRequestWake _ _ => .fe
  | .groupRequestSleep _ _ => .fe
  | .groupWake _ _ => .fe
  | .groupSleep _ _ => .fe
  | .groupPowerModeWrite _ _ _ => .fe
  | .aoActivitySample _ => .fe
  | .groupPllLocked _ => .fe
  | .groupDllLocked _ => .fe
  | .groupWakeComplete _ => .fe
  | .groupIdleTimeout _ => .fe
  | .groupLockLoss _ => .fe
  | .sorterTake _ _ => .fe
  | .sorterRelease _ _ => .fe
  | .uplinkSlot _ => .fe
  | .sorterStatusRead _ _ => .fe
  | .signalDetect l => l.part
  | .signalLoss l => l.part
  | .cdrLocked l => l.part
  | .cdrLockTimeout l => l.part
  | .cellArrival l _ => l.part
  | .tightropeJudge _ => .conc
  | .tightropeRetry _ => .conc
  | .trainDetectSense _ _ => .conc
  | .trainDwellEnd _ => .conc
  | .trainingTimeout _ => .conc
  | .trainHoldoffEnd _ => .conc
  | .laneParkRequest _ _ => .conc
  | .parkEntry _ => .conc
  | .laneUnpark _ _ => .conc
  | .unparkDeadline l => l.part
  | .prbsTestStart _ _ _ => .conc
  | .fePrbsTestStart _ _ _ => .fe
  | .fePrbsTestStop _ _ => .fe
  | .prbsDurationEnd l => l.part
  | .quadPllLockLoss p _ => p
  | .quadPllRelock p _ => p
  | .txSlot _ => .conc
  | .replayTimerExpiry l => l.part
  | .ackProgressTimeout l => l.part
  | .answerTimeout l => l.part
  | .mgmtRead p _ _ _ _ => p.part
  | .mgmtWrite p _ _ _ _ _ _ => p.part
  | .mgmtReadAt p _ _ _ _ _ _ => p.part
  | .mgmtWriteAt p _ _ _ _ _ _ _ _ => p.part
  | .mgmtResponse _ _ => .conc
  | .echoRequest _ _ _ => .fe
  | .echoReply _ _ _ _ => .conc
  | .leaseRenew _ _ => .fe
  | .leaseClaim _ _ _ => .fe
  | .leaseAck _ _ => .conc
  | .feFault _ _ => .conc
  | .beEchoRequest _ _ _ => .conc
  | .ppsEdge _ _ => .conc
  | .alignArmWrite _ _ => .conc
  | .incrementWrite _ _ _ => .conc
  | .secondMarkSend _ => .conc
  | .tiuRunStart _ => .conc
  | .tiuRunAbort _ => .conc
  | .tiuStartEdge _ _ => .conc
  | .tiuStopEdge _ _ => .conc
  | .latencyPeriodDue _ => .conc
  | .timeNowRead _ => .conc
  | .ppsCaptureRead _ => .conc
  | .gatherCellTake _ => .conc
  | .laneStaleTimeout _ => .conc
  | .carouselStart _ => .conc
  | .carouselStop _ => .conc
  | .triginEdge _ _ _ _ _ => .conc
  | .lookbackRequest _ _ _ => .conc
  | .extractionStart _ => .conc
  | .extractionComplete _ => .conc
  | .carouselStatusRead _ => .conc
  | .engineInstruction _ => .conc
  | .qpop _ => .conc
  | .qpeek _ => .conc
  | .qtime _ => .conc
  | .qhist _ => .conc
  | .qtrig _ => .conc
  | .qemit _ => .conc
  | .qwait _ => .conc
  | .qslice _ => .conc
  | .resultReturn _ _ => .conc
  | .feedDataArrival _ _ => .conc
  | .ecallExit _ => .conc
  | .ecallSetRestart _ => .conc
  | .ecallLog _ => .conc
  | .serviceComplete _ => .conc
  | .instanceStart _ => .conc
  | .instanceSuspend _ => .conc
  | .instanceResume _ => .conc
  | .instanceKill _ => .conc
  | .drainComplete _ => .conc
  | .instanceRestart _ => .conc
  | .instanceRunnable _ => .conc
  | .taskLoad _ _ => .conc
  | .taskUnload _ _ => .conc
  | .parityRestart _ => .conc
  | .clusterIdleTimeout _ => .conc
  | .clusterWakeComplete _ => .conc
  | .moverTailWrite _ _ => .conc
  | .moverResume _ => .conc
  | .moverAbort _ => .conc
  | .moverCopy _ _ => .conc
  | .moverScatter _ _ => .conc
  | .moverFill _ _ => .conc
  | .moverSend _ _ => .conc
  | .moverCompress _ _ => .conc
  | .moverCrc _ _ => .conc
  | .descriptorComplete _ => .conc
  | .marverBlockFlush _ => .conc
  | .flipArmWrite _ _ => .conc
  | .eccLastErrorRead _ => .conc
  | .class0ResidenceRead _ => .conc
  | .usdoRequest _ _ _ _ _ _ _ _ => .conc
  | .nmtResetNode _ => .conc
  | .nmtResetCommunication _ => .conc
  | .tpdoSend _ => .conc
  | .storeAll _ _ _ => .conc
  | .restoreDefaults _ _ _ => .conc
  | .sessionOpen _ _ _ => .conc
  | .sessionClose _ _ => .conc
  | .passwordChange _ _ => .conc
  | .stagingTimeout p _ _ _ => p
  | .errorHistoryClear _ _ => .conc
  | .registerWrite p _ _ _ _ _ => p
  | .clockSourceDead p _ => p
  | .clockSourceAlive p _ => p
  | .stabilityWindow p _ _ => p
  | .aoTrimWindow p _ => p
  | .meterRun _ _ => .conc
  | .meterGateEnd _ => .conc
  | .clockGateWrite p _ _ _ => p
  | .gateForce p _ => p
  | .powerRequestAsleep _ => .conc
  | .powerRequestColdStandby _ => .conc
  | .powerRequestStandby _ => .conc
  | .powerRequestObserve _ => .conc
  | .feModeRequestSleep _ => .fe
  | .feModeRequestStandby _ => .fe
  | .feModeRequestObserve _ => .fe
  | .faultDecrement p => p
  | .resourceSelfTestStart p _ _ => p
  | .resourceSelfTestComplete p _ _ _ => p
  | .annealRun _ => .conc
  | .annealPassComplete _ => .conc
  | .feAnnealRun _ => .fe
  | .feAnnealComplete _ => .fe
  | .hbmScrubLine _ _ _ _ => .conc
  | .sramScrubWord _ _ => .conc
  | .scrubLineRetry _ _ => .conc
  | .feConfigScrub _ _ _ => .fe
  | .faultLogAck _ _ => .conc
  | .feRetiredRestoreWrite _ _ => .fe
  | .leaseRenewSend _ => .conc
  | .leaseClaimSend _ => .conc
  | .heartbeat _ _ _ => .conc
  | .heartbeatTime _ _ => .conc
  | .relinquish _ _ => .conc
  | .takeoverRequest _ _ => .conc
  | .checkpointReceive _ _ => .conc
  | .checkpointImageReceive _ _ => .conc
  | .partnerRelinquish _ => .conc
  | .partnerRequestTakeover _ => .conc
  | .partnerForceTakeover _ => .conc
  | .standbySelfTestStep _ => .conc
  | .ownerKeyEnrol _ _ _ => .conc
  | .firmwareFloorCommit _ _ => .conc
  | .ownerFloorCommit _ _ => .conc
  | .firmwareImageVerify _ _ _ => .conc
  | .firmwareActivate _ _ => .conc
  | .attestRun _ _ => .conc
  | .debugToken _ _ => .conc
  | .debugLock _ _ => .conc
  | .adcStart _ => .conc
  | .adcDataRead _ => .conc
  | .loopConversionRequest _ _ => .conc
  | .adcConversionComplete _ _ => .conc
  | .maxLoopDelayRead _ => .conc
  | .loopSample _ => .conc
  | .loopClearFault _ _ => .conc
  | .loopTuneStart _ _ => .conc
  | .loopTuneAccept _ _ => .conc
  | .loopTuneAbort _ _ => .conc
  | .loopSetpointWrite _ _ => .conc
  | .loopGainsWrite _ _ => .conc
  | .loopStatusRead _ => .conc
  | .flashFire _ _ => .conc
  | .ledComplianceLoss _ => .conc
  | .feedbackRunStart _ => .conc
  | .feedbackRunAbort _ => .conc
  | .feedbackStep _ => .conc
  | .safetyInputChange _ _ => .conc
  | .biasRequestWrite _ _ => .conc
  | .relayFeedbackCheck _ _ => .conc
  | .testPulseStart _ => .conc
  | .testPulseEnd _ _ => .conc
  | .stimulusTest _ _ => .conc
  | .safetyClearFault _ => .conc
  | .safetyRunStimulus _ _ _ => .conc
  | .safetyBundleWrite _ _ => .conc
  | .brownOut p => p
  | .supplyRelease p => p
  | .rstNAssert p _ => p
  | .rstNRelease p => p
  | .rstNStuck p => p
  | .resetCommand _ _ => .conc
  | .feResetCommand _ _ => .fe
  | .softwareResetDue p => p
  | .bootLadder _ _ _ _ _ => .conc
  | .feBootLadder _ => .fe
  | .dieOvertempWarning p _ => p
  | .dieOvertempShutdown p _ => p
  | .probeSelectWrite p _ _ _ => p
  | .tapInstructionUpdate p _ => p
  | .tapTokenUpdate _ => .conc
  | .dmiAccess _ _ _ => .conc
  | .prbsCheckerLock l => l.part
  | .prbsBitError l _ => l.part
  | .prbsTestStop _ _ => .conc
  | .laneEnableWrite _ _ _ => .conc
  | .portEnableWrite _ _ => .conc
  | .ledComplianceRestored _ => .conc
  | .excitationComplianceChange _ _ => .conc
  | .rstNStuckRearm p => p
  | .dieOvertempRecovery p _ => p
  | .usdoTimeout _ => .conc
  | .secondMarkExecute => .fe
  | .flywheelEpochStart => .fe
  | .rateWindowEnd => .fe
  | .mergerTake => .fe
  | .scalerIntervalEnd => .fe
  | .rollover => .conc
  | .ppsWindowClose => .conc
  | .counterToAo => .conc
  | .counterToBase => .conc
  | .tiuEchoSend => .conc
  | .tiuSampleTimeout => .conc
  | .horizonAdvance => .conc
  | .sliceComplete => .conc
  | .channelRatesPublish => .conc
  | .randomTrigger => .conc
  | .entryReady => .conc
  | .fillTimeout => .conc
  | .prescaleGrid1ms => .conc
  | .prescaleGrid10ms => .conc
  | .qwaitLimitExpiry => .conc
  | .class0CellBuild => .conc
  | .bulkRecordClose => .conc
  | .nmtStart => .conc
  | .nmtStop => .conc
  | .nmtEnterPreOperational => .conc
  | .canHeartbeat => .conc
  | .emcySend => .conc
  | .sessionTimeout => .conc
  | .passwordLockoutEnd => .conc
  | .relayRepeat => .conc
  | .relayTimeout => .conc
  | .aoCrystalReturn => .conc
  | .wakeAtAlarm => .conc
  | .wakeLadderComplete => .conc
  | .feSleepPark => .fe
  | .feWakeComplete => .fe
  | .annealBudgetExpiry => .conc
  | .leaseExpiry => .fe
  | .localLeaseExpiry => .conc
  | .lockstepFailure => .conc
  | .failedHeartbeatEnd => .conc
  | .heartbeatSend => .conc
  | .heartbeatLoss => .conc
  | .takeoverComplete => .conc
  | .takeoverClaimTimeout => .conc
  | .checkpointPush => .conc
  | .roleDecision => .conc
  | .attestComplete => .conc
  | .adcCalibration => .conc
  | .tuneTimeout => .conc
  | .flashStart => .conc
  | .flashEnd => .conc
  | .releaseDelayEnd => .conc
  | .watchdogRestart => .conc
  | .watchdogExpiry => .conc
  | .bootWatchdogExpiry => .conc
  | .warmupComplete => .conc
  | .warmupLimit => .conc
  | .buckStop => .fe
  | .buckRestart => .fe

namespace Machine

/-! ## Safe runs -/

/-- Every command that waits has operands that it may have, so no step stops. -/
def State.safe (s : State) : Bool := s.pending.all Instr.wf

/-! ## Accesses that pass (R298-R300, R303, R319, R340, R402) -/

/-- The value that a write of `len` bytes leaves of `v`: its bits, without reserved fields (R8). -/
def Obj.taken (o : Obj) (len v : Nat) : Nat := o.masked (v % 2 ^ (8 * len))

/-- The concentrator as an access of source `src` finds it: woken where the access came over CAN (R344), the configuration
session's timer judged and, for its holder, restarted (R319). -/
def Conc.asked (c : Conc) (src : Nat) : Conc := (c.heard src).sessionTouch src

/-- The block that holds an object has its clock (R340). -/
def Conc.clocked (c : Conc) (index sub : Nat) : Prop := ∀ b, concBlockOf index sub = some b → c.gated b = false

/-- Source `src` is served: the part is out of reset, the source is one that it listens to, and the firmware, not the boot ROM,
answers (R303, R402, R471). -/
def Conc.serves (c : Conc) (src : Nat) : Prop :=
  c.up = true ∧ (c.heard src).listens src = true ∧ (c.asked src).rom = false

/-- A write of `len` bytes of `v` to position `i` of object `o` by source `src` passes the checks of every write: the source is
served, it may write the object, length and value fit, the object's block has its clock. -/
def Conc.admits (c : Conc) (src : Nat) (o : Obj) (len v : Nat) (i : Nat := 0) : Prop :=
  c.serves src ∧ o.checkWrite ((c.asked src).mayLock src) len v = .ok (o.taken len v) ∧
    (c.asked src).clocked o.index (o.sub + i)

/-- A read of object `o` by source `src` passes: the source is served, the object's block has its clock. -/
def Conc.shows (c : Conc) (src : Nat) (o : Obj) : Prop := c.serves src ∧ (c.asked src).clocked o.index o.sub

/-- A write of `len` bytes of `v` to object `o` of the front-end on the downlink of a side passes: the part and its base clock run, the
side holds the lease (R318), no gate discards the write (R340), length and value fit. -/
def Fe.admits (f : Fe) (side : Nat) (o : Obj) (len v : Nat) : Prop :=
  f.runs = true ∧ f.holder = side + 1 ∧ f.discardsWrite o = false ∧ o.checkWrite false len v = .ok (o.taken len v)

/-! ## One lane and its return path (R136, R139) -/

/-- One direction of a lane, from end to end: its transmitter, the data cells on the fibre in the order in which they were sent, the
far receiver, the returns on their way back; the payloads that entered and those that the receiver accepted. -/
structure Hop where
  tx : Tx := {}
  rx : Rx := {}
  flight : List Cell := []
  back : List Returns := []
  sent : List (List Word) := []
  got : List (List Word) := []
  deriving DecidableEq, Repr

/-- What may happen on a lane: a new cell enters, a replay starts, its next cell goes out, the next cell on the fibre arrives
good or fails its CRC, the receiver reports, a report arrives or is lost. -/
inductive HopEvent where
  | send (cls : Nat) (payload : List Word) (poison comp : Bool)
  | replay
  | resend
  | arrive
  | spoil
  | report
  | returned
  | unreturned
  deriving DecidableEq, Repr

/-- One event on a lane of kind `k` at a tick. -/
def Hop.next (k : LaneKind) (h : Hop) (e : Nat × HopEvent) : Hop :=
  match e.2 with
  | .send cls payload poison comp =>
    if h.tx.replay.isNone && h.tx.hasRoom k cls then
      let r := h.tx.sendNew cls payload poison comp e.1
      { h with tx := r.2, flight := h.flight ++ [r.1], sent := h.sent ++ [payload] }
    else h
  | .replay => { h with tx := h.tx.startReplay e.1 }
  | .resend =>
    match h.tx.replay with
    | none => h
    | some i =>
      match h.tx.buf[i]? with
      | some c => { h with tx := { h.tx with replay := if i + 1 < h.tx.buf.length then some (i + 1) else none },
                           flight := h.flight ++ [c] }
      | none => { h with tx := { h.tx with replay := none } }
  | .arrive =>
    match h.flight with
    | [] => h
    | c :: cs =>
      let r := h.rx.onSeq c
      { h with rx := r.2, flight := cs, got := if r.1 then h.got ++ [c.payload] else h.got }
  | .spoil =>
    match h.flight with
    | [] => h
    | _ :: cs => { h with rx := h.rx.onBad, flight := cs }
  | .report => { h with rx := (h.rx.returns k).2, back := h.back ++ [(h.rx.returns k).1] }
  | .returned =>
    match h.back with
    | [] => h
    | r :: rs => { h with tx := h.tx.applyReturns k r e.1, back := rs }
  | .unreturned => { h with back := h.back.drop 1 }

/-! ## Terms of the statements -/

/-- The entry that the hit of candidate `k` of channel `c` makes in the derandomiser, with a time-over-threshold and the upward
crossings of its validation discriminator (R30, R31, R41, R87). -/
def Fe.hitOf (f : Fe) (k : Cand) (tot c ups : Nat) : HitEntry :=
  let r := f.hitTime k tot
  { epoch := r.1, time := r.2.1, word := hitWord c k.prescaled (decide (2 ≤ ups)) (k.quality || r.2.2) tot r.2.1 }

/-- The lease as a command finds it (R377): none, or its holder, 1 side A and 2 side B, with the AO tick at which its timer
reaches 0. -/
def Fe.leaseNow (f : Fe) : Option (Nat × Option Nat) :=
  if f.lapse.get O.leaseHolder = 0 then none else some (f.lapse.get O.leaseHolder, f.lapse.sys.leaseEnd)

/-- `SessionOpen` is not locked by wrong passwords (R320). -/
def Conc.unlocked (c : Conc) : Bool := match c.dict.lockedUntil with | some t => decide (t ≤ c.tick) | none => true

end Machine

end Sys2Proof
end

