-- ==== Sys2Proof/Certificates/Slice0/Obligations.lean ====
section
/-! DEFINITION. The statements for the provers: the step and the queue, the link, the rules of the chapters, and, family by family,
that every command completes with the effect that its rule gives it. -/

open Sys2Proof Sys2Proof.Machine

/-- For every command and every state, the step of the state with that command at the front of its queue is the execution of the
command on the state with the rest of the queue. (spec/00_scope.md) -/
def Obligations.StepRunsTheFrontCommand : Prop :=
  ∀ (s : State) (i : Instr) (rest : List Instr), step { s with pending := i :: rest } = exec i { s with pending := rest }

/-- With no command waiting, the step answers the state after one base tick: the tick of the front-end advances by one, its
base-tick count too while its base clock runs and not otherwise, and no command waits. Where the base clock runs, the second
marks due in the tick that then begins have executed: none that still waits is due in it, where the marks stood in the order
of their execution; where it does not, no mark executes. What a step does on an empty queue is the model's choice (log entry
2). (spec/00_scope.md) -/
def Obligations.IdleStepIsOneTick : Prop :=
  ∀ s : State, s.pending = [] →
    step s = .next s.tick ∧ s.tick.pending = [] ∧ s.tick.fe.tick = s.fe.tick + 1 ∧
      (s.fe.baseRuns = true → s.tick.fe.now = s.fe.now + 1 ∧
        (s.fe.marks.Pairwise (fun a b => a.1 ≤ b.1) → ∀ m ∈ s.tick.fe.marks, s.tick.fe.now < m.1)) ∧
      (s.fe.baseRuns = false → s.tick.fe = { s.fe with tick := s.fe.tick + 1 })

/-- A command with an operand that no part has (a channel above 255, a side above 1, a word with another opcode) answers the fault
illFormed in every state: the parts have no such command, and the model gives it none of another's effects. (spec/00_scope.md,
spec/14_object_dictionary.md) -/
def Obligations.IllFormedCommandStops : Prop :=
  ∀ (i : Instr) (s : State), i.wf = false → exec i s = .fault .illFormed

/-- Every one of the 304 commands, with operands that a part has, answers a next state in every state, and leaves the queue of the
commands that wait as it is. (spec/00_scope.md) -/
def Obligations.WellFormedCommandsComplete : Prop :=
  ∀ (i : Instr) (s : State), i.wf = true → ∃ t, exec i s = .next t ∧ t.pending = s.pending

/-- From every state whose waiting commands are well formed, a run of any number of steps reaches a next state, again with only
well-formed commands waiting; the queue has lost exactly the commands that the steps took, in order. (spec/00_scope.md) -/
def Obligations.SafeRunsNeverStop : Prop :=
  ∀ (n : Nat) (s : State), s.safe = true →
    ∃ t, Host.Core.run Sys2Proof.core n s = .next t ∧ t.safe = true ∧ t.pending = s.pending.drop n

/-- After a power-on reset nothing stands in memory, no command waits, the nanosecond counter is zero, both reset causes read
power-on, and every other object of both dictionaries holds the default of its card. (R148, R463, R11) -/
def Obligations.ResetLeavesEveryObjectAtItsDefault : Prop :=
  State.reset.pending = [] ∧ State.reset.safe = true ∧ State.reset.conc.mem.bytes = [] ∧
  State.reset.conc.time.seconds = 0 ∧ State.reset.conc.time.acc = 0 ∧
  State.reset.conc.get O.resetCause = 1 ∧ State.reset.fe.get O.feResetCause = 1 ∧
  (∀ (o : Obj) (i : Nat), o.key i ≠ O.resetCause.key → State.reset.conc.get o i = o.dflt i) ∧
  (∀ (o : Obj) (i : Nat), o.key i ≠ O.feResetCause.key → State.reset.fe.get o i = o.dflt i)

/-- A command that acts on the front-end leaves the concentrator as it is, a command that acts on the concentrator leaves the
front-end as it is, and neither changes the queue. (spec/00_scope.md) -/
def Obligations.CommandsActOnTheirPartOnly : Prop :=
  ∀ (i : Instr) (s t : State), exec i s = .next t →
    (i.target = .fe → t.conc = s.conc) ∧ (i.target = .conc → t.fe = s.fe) ∧ t.pending = s.pending

/-- Run the whole queue of a safe state, or only those of its commands that act on one part: that part ends in the same state. No
command of the other part can change it, however the two are interleaved. (spec/00_scope.md) -/
def Obligations.PartsRunIndependently : Prop :=
  ∀ (s : State) (p : Part), s.safe = true →
    ∃ t u, Host.Core.run Sys2Proof.core s.pending.length s = .next t ∧
      Host.Core.run Sys2Proof.core (s.pending.filter fun i => decide (i.target = p)).length
        { s with pending := s.pending.filter fun i => decide (i.target = p) } = .next u ∧
      (p = .fe → t.fe = u.fe) ∧ (p = .conc → t.conc = u.conc)

/-- For every lane kind, every header of 32 bits and every payload of the lane's length, a receiver whose descrambler is in step
reads from the encoded slot that header and that payload with good stuffing and CRC, ends in the scrambler state of the
transmitter, and sees a good marker. (R97, R98, R99, R100, R122) -/
def Obligations.SlotRoundTrip : Prop :=
  ∀ (k : LaneKind) (scr hdr : Nat) (payload : List Word), hdr < 2 ^ 32 → payload.length = k.words →
    decodeSlot k scr (encodeSlot k scr hdr payload).1 = (some (hdr, payload), (encodeSlot k scr hdr payload).2) ∧
      goodMarker k (encodeSlot k scr hdr payload).1 = true

/-- A header of 32 bits gives back every field it was built from, at every value the fields can hold, with its reserved bits zero;
the return word of uplink 1 gives back the return fields and holds them at the bit positions that the header has. (R120, R140) -/
def Obligations.HeaderFieldsSurvive : Prop :=
  ∀ (c : Cell) (r : Returns), c.cls < 4 → c.kind < 4 → c.seq < 256 → r.ack < 256 → r.ccls < 4 → r.credits < 32 →
    headerOf c r < 2 ^ 32 ∧ cellOf (headerOf c r) c.payload = c ∧ returnsOf (headerOf c r) = r ∧ headerOf c r % 4 = 0 ∧
      returnsOf (returnWord r).toNat = r ∧ (returnWord r).toNat = bits (headerOf c r) 19 4 * 2 ^ 4

/-- Each scrambled bit is the data bit, the scrambled bit 39 before it and the scrambled bit 58 before it combined. A descrambler
in step recovers every bit; one with any other state recovers every bit from the 59th on, and is then in step. (R98) -/
def Obligations.DescramblerNeedsNoSeed : Prop :=
  ∀ (st st' : Nat) (bs : List Bool),
    descramble st (scramble st bs).1 = (bs, (scramble st bs).2) ∧
      (descramble st' (scramble st bs).1).1.drop 58 = bs.drop 58 ∧
      (58 ≤ bs.length → (descramble st' (scramble st bs).1).2 = (scramble st bs).2) ∧ ({} : Tx).scr = 2 ^ 58 - 1

/-- Whatever follows the body, a receiver that counts body bits recovers the body from its stuffed form and finds every stuff bit
the complement of the run before it; 33 equal body bits are never accepted. (R99) -/
def Obligations.StuffingIsUndone : Prop :=
  (∀ bs rest : List Bool, destuff bs.length false 0 (stuff false 0 bs ++ rest) = (bs, true)) ∧
  (∀ (n : Nat) (v : Bool) (rest : List Bool), 32 ≤ n → (destuff n false 0 (List.replicate 33 v ++ rest)).2 = false)

/-- The stuffed body holds no run of more than 32 equal bits and at most one stuff bit for every 31 body bits after the first;
with the marker, the stuffed body of every lane kind fits its slot, whatever its contents. (R99, R100) -/
def Obligations.StuffedBodyFitsItsSlot : Prop :=
  (∀ (bs a b : List Bool) (n : Nat) (v : Bool), stuff false 0 bs = a ++ List.replicate n v ++ b → n ≤ 32) ∧
  (∀ bs : List Bool, (stuff false 0 bs).length ≤ bs.length + (bs.length - 1) / 31) ∧
  ∀ (k : LaneKind) (bs : List Bool), bs.length = k.bodyBits → 16 + (stuff false 0 bs).length ≤ k.slotBits

/-- A transmitter that holds count g of a class and receives a report whose value is the true count n modulo 32, where n is at
least g and less than g + 32, holds n afterwards, and keeps the counts of the other classes. (R139) -/
def Obligations.CreditReportRecoversTheCount : Prop :=
  ∀ (k : LaneKind) (x : Tx) (r : Returns) (now n : Nat),
    Bank.get 0 x.got r.ccls ≤ n → n < Bank.get 0 x.got r.ccls + 32 → r.credits = n % 32 →
    Bank.get 0 (x.applyReturns k r now).got r.ccls = n ∧
      ∀ c, c ≠ r.ccls → Bank.get 0 (x.applyReturns k r now).got c = Bank.get 0 x.got c

/-- From link start, under any sequence of sends, replays, corrupted cells, reports and lost reports on a lane of any kind, the
payloads that the receiver accepted are the first of those that were sent, in their order and without repeat, and every
payload not yet accepted still stands in the replay buffer. (R136, R137, R138) -/
def Obligations.LinkDeliversEachCellOnceInOrder : Prop :=
  ∀ (k : LaneKind) (es : List (Nat × HopEvent)),
    (es.foldl (Hop.next k) {}).got <+: (es.foldl (Hop.next k) {}).sent ∧
      ∃ m, m ≤ (es.foldl (Hop.next k) {}).got.length ∧
        (es.foldl (Hop.next k) {}).tx.buf.map Cell.payload = (es.foldl (Hop.next k) {}).sent.drop m

/-- A management message header gives back its transaction ID, opcode, index, sub-index and length; CRC-32C over the bytes
"123456789" is E3069283 hex. (R134, R122) -/
def Obligations.MessageHeaderFieldsSurvive : Prop :=
  (∀ tid op index sub len : Nat, tid < 2 ^ 16 → op < 2 ^ 8 → index < 2 ^ 16 → sub < 2 ^ 8 → len < 2 ^ 16 →
    msgId (msgHeader tid op index sub len) = tid ∧ msgOp (msgHeader tid op index sub len) = op ∧
      msgIndex (msgHeader tid op index sub len) = index ∧ msgSub (msgHeader tid op index sub len) = sub ∧
      msgLen (msgHeader tid op index sub len) = len) ∧
  crc32c [0x31, 0x32, 0x33, 0x34, 0x35, 0x36, 0x37, 0x38, 0x39] = 0xE3069283

/-- At the trailing edge, or when the count has saturated, the hit of the leading edge enters the derandomiser as its newest
entry: time-over-threshold the whole beats between the two edges, which stand at 256ths of a beat, at most 1,023, and the time
of the leading edge with its corrections. No other channel and nothing of the concentrator changes; before saturation nothing
leaves. (R31) -/
def Obligations.HitLeavesWithItsTimeOverThreshold : Prop :=
  (∀ (s : State) (c fine ups : Nat) (reading : Bool) (k : Cand), c < 256 → fine < 8192 → s.fe.up = true →
    (s.fe.chan c).cand = some k →
    ∃ t, exec (.trailingEdge c fine ups reading) s = .next t ∧ t.conc = s.conc ∧ t.pending = s.pending ∧
      (t.fe.chan c).cand = none ∧ (t.fe.chan c).discHigh = false ∧ (∀ d, d ≠ c → t.fe.chan d = s.fe.chan d) ∧
      (t.fe.chan c).derand.getLast? = some (s.fe.hitOf k (min 1023 ((s.fe.now * 8192 + fine - k.lead) / 256)) c ups)) ∧
  (∀ (s : State) (c beat ups : Nat) (reading : Bool) (k : Cand), c < 256 → beat < 32 → s.fe.up = true →
    (s.fe.chan c).cand = some k →
    (k.lead / 256 + 1023 ≤ s.fe.now * 32 + beat →
      ∃ t, exec (.totSaturated c beat ups reading) s = .next t ∧ t.conc = s.conc ∧ t.pending = s.pending ∧
        (t.fe.chan c).cand = none ∧ (t.fe.chan c).discHigh = (s.fe.chan c).discHigh ∧
        (∀ d, d ≠ c → t.fe.chan d = s.fe.chan d) ∧ (t.fe.chan c).derand.getLast? = some (s.fe.hitOf k 1023 c ups)) ∧
    (s.fe.now * 32 + beat < k.lead / 256 + 1023 → exec (.totSaturated c beat ups reading) s = .next s))

/-- A hit word holds the channel in bits 60 to 53, prescaled, pile-up and quality in bits 52, 51 and 50, the time-over-threshold
in bits 49 to 40 and the time in bits 39 to 0, under word type 0. (R87) -/
def Obligations.HitWordFields : Prop :=
  ∀ (c tot t : Nat) (prescaled pileup quality : Bool), c < 256 → tot < 1024 → t < 2 ^ 40 →
    bits (hitWord c prescaled pileup quality tot t).toNat 63 61 = 0 ∧ bits (hitWord c prescaled pileup quality tot t).toNat 60 53 = c ∧
      bitAt (hitWord c prescaled pileup quality tot t).toNat 52 = prescaled ∧ bitAt (hitWord c prescaled pileup quality tot t).toNat 51 = pileup ∧
      bitAt (hitWord c prescaled pileup quality tot t).toNat 50 = quality ∧ bits (hitWord c prescaled pileup quality tot t).toNat 49 40 = tot ∧
      bits (hitWord c prescaled pileup quality tot t).toNat 39 0 = t

/-- A hit that reaches a full derandomiser is written; the oldest entry is discarded, or the next-oldest when the read of the
oldest has started. The discarded hit is counted as lost, and, where the channel has no report open, the report that opens
holds its time field and cause overwrite. (R71) -/
def Obligations.FullDerandomiserDiscardsTheOldest : Prop :=
  ∀ (f : Fe) (c : Nat) (h old : HitEntry) (reading : Bool), c < 256 → (f.chan c).derand.length = 32 →
    (f.chan c).derand[if reading then 1 else 0]? = some old →
    ((f.derandWrite c h reading).chan c).derand = (f.chan c).derand.eraseIdx (if reading then 1 else 0) ++ [h] ∧
      entryGet 32 ((f.derandWrite c h reading).get O.lostHits) c = satAdd 32 (entryGet 32 (f.get O.lostHits) c) 1 ∧
      ((f.chan c).report = none → ((f.derandWrite c h reading).chan c).report =
        some { epoch := old.epoch, time := old.time, count := 1, causes := LossCause.overwrite.bit }) ∧
      (∀ d, d ≠ c → (f.derandWrite c h reading).chan d = f.chan d)

/-- A word entered into a group's sorter whose words stand in the order of epoch, time, rank and tie leaves them in that order.
With fewer than 512 words in the sorter and none waiting at its entry it adds exactly that word and raises the peak to at
least the new length; otherwise the sorter stays and the word waits behind those at the entry. Every other group is unchanged.
(R75, R77) -/
def Obligations.SorterKeepsTheOrder : Prop :=
  ∀ (f : Fe) (g : Nat) (x : SortItem), (f.group g).sorter.Pairwise (fun a b => a.order ≤ b.order) →
    ((f.pushSorter g x).group g).sorter.Pairwise (fun a b => a.order ≤ b.order) ∧
      ((f.group g).wait = [] → (f.group g).sorter.length < 512 →
        ((f.pushSorter g x).group g).sorter.Perm (x :: (f.group g).sorter) ∧ ((f.pushSorter g x).group g).wait = [] ∧
          ((f.pushSorter g x).group g).peak = max (f.group g).peak ((f.group g).sorter.length + 1)) ∧
      ((f.group g).wait ≠ [] ∨ 512 ≤ (f.group g).sorter.length →
        (f.pushSorter g x).group g = { f.group g with wait := (f.group g).wait ++ [x] }) ∧
      ∀ j, j ≠ g → (f.pushSorter g x).group j = f.group j

/-- An accepted write of SpareAssign with input v of group g makes slot 16 serve that channel and leaves slot v serving none and
unpowered; every other channel of the group is served by its own slot, and no other group changes. With 255 the switch
connects no input: each channel of the group is served by its own slot. (R33) -/
def Obligations.SpareSwitchServesOneInput : Prop :=
  ∀ (s : State) (side g v : Nat), side < 2 → g < 16 → s.fe.admits side O.spareAssignGroup 1 v → (s.fe.group g).assignLocked = false →
    (v < 16 → s.fe.assigned g ≠ v →
      ∃ t, exec (.spareAssignWrite side g v) s = .next t ∧ t.conc = s.conc ∧ t.pending = s.pending ∧
        t.fe.get O.spareAssignGroup g = v ∧ t.fe.slotOf (16 * g + v) = 16 ∧ t.fe.servedBy g 16 = some (g * 16 + v) ∧
        t.fe.servedBy g v = none ∧ (t.fe.slot g v).powered = false ∧
        (∀ k, k < 16 → k ≠ v → t.fe.slotOf (16 * g + k) = k ∧ t.fe.servedBy g k = some (g * 16 + k)) ∧
        (∀ j, j < 16 → j ≠ g → t.fe.assigned j = s.fe.assigned j)) ∧
    (v = 255 →
      ∃ t, exec (.spareAssignWrite side g v) s = .next t ∧ t.conc = s.conc ∧ t.pending = s.pending ∧
        t.fe.servedBy g 16 = none ∧
        (∀ k, k < 16 → t.fe.slotOf (16 * g + k) = k ∧ t.fe.servedBy g k = some (g * 16 + k)) ∧
        (∀ j, j < 16 → j ≠ g → t.fe.assigned j = s.fe.assigned j))

/-- An accepted write of TimeOffset, WalkTable or WalkEnable changes only the pending value, which a read returns and a second
write replaces; the corrections in force stay. At the execution of the next mark, commanded or flywheel, the pending values
come into force. (R60) -/
def Obligations.CorrectionsWaitForTheMark : Prop :=
  (∀ (s : State) (side v : Nat) (o : Obj), (o = O.timeOffset ∨ o = O.walkTable ∨ o = O.walkEnable) → side < 2 →
    v < 2 ^ (8 * o.bytes) → s.fe.admits side o o.bytes v →
    exec (.timeCorrectionWrite side o.index o.sub o.bytes v) s = .next { s with fe := s.fe.put o v } ∧
      (s.fe.put o v).readVal o 0 = .ok v ∧ (s.fe.put o v).offset = s.fe.offset ∧ (s.fe.put o v).walk = s.fe.walk ∧
      (s.fe.put o v).walkEnable = s.fe.walkEnable ∧ ∀ w, ((s.fe.put o v).put o w).readVal o 0 = .ok w) ∧
  (∀ (s : State) (due second : Nat) (rest : List (Nat × Nat)), s.fe.up = true → s.fe.marks = (due, second) :: rest → due ≤ s.fe.now →
    ∃ t, exec .secondMarkExecute s = .next t ∧ t.fe.offset = s.fe.get O.timeOffset ∧ t.fe.walk = s.fe.get O.walkTable ∧
      t.fe.walkEnable = s.fe.get O.walkEnable) ∧
  (∀ s : State, s.fe.up = true → s.fe.kind ≠ 0 → flywheelTicks s.fe.kind ≤ s.fe.inEpoch → (∀ m ∈ s.fe.marks, s.fe.now < m.1) →
    ∃ t, exec .flywheelEpochStart s = .next t ∧ t.fe.offset = s.fe.get O.timeOffset ∧ t.fe.walk = s.fe.get O.walkTable ∧
      t.fe.walkEnable = s.fe.get O.walkEnable)

/-- A second-mark word on the leased downlink is executed 64 base ticks after its marker. At its execution the epoch number grows
by one, the epoch begins at that base tick, the current second is the one commanded and the epoch is commanded. Without a mark
by 3,003,000,000 beats of a commanded epoch, or 3,000,000,000 of a flywheel epoch, the epoch that starts has the next second
number, is a flywheel epoch and is counted; in the NONE period none starts, none starts before its beat, and none where a mark
executes at that beat. (R42, R44) -/
def Obligations.MarksStartEpochs : Prop :=
  (∀ (s : State) (side pos age : Nat) (w : Word), side < 2 → age < 64 → opcodeIs 0x01 w = true → s.fe.runs = true → (s.fe.take side [w]).holder = side + 1 →
    ∃ t, exec (.secondMark side w age pos) s = .next t ∧ t.conc = s.conc ∧
      t.fe.marks = insertMark (s.fe.now - age + 64 + pos, w.toNat % 2 ^ 32) s.fe.marks) ∧
  (∀ (s : State) (due second : Nat) (rest : List (Nat × Nat)), s.fe.up = true → s.fe.marks = (due, second) :: rest →
    (due ≤ s.fe.now → ∃ t, exec .secondMarkExecute s = .next t ∧ t.conc = s.conc ∧ t.fe.marks = rest ∧ t.fe.kind = 1 ∧
      t.fe.epoch = { idx := s.fe.epoch.idx + 1, start := s.fe.now, second := second % 2 ^ 32 } ∧
      t.fe.get O.currentSecond = second % 2 ^ 32 ∧ t.fe.get O.epochState = 1) ∧
    (s.fe.now < due → exec .secondMarkExecute s = .next s)) ∧
  (∀ s : State, s.fe.up = true →
    (s.fe.kind ≠ 0 → flywheelTicks s.fe.kind ≤ s.fe.inEpoch → (∀ m ∈ s.fe.marks, s.fe.now < m.1) → ∃ t, exec .flywheelEpochStart s = .next t ∧ t.conc = s.conc ∧
      t.fe.kind = 2 ∧ t.fe.epoch = { idx := s.fe.epoch.idx + 1, start := s.fe.now, second := (s.fe.epoch.second + 1) % 2 ^ 32 } ∧
      t.fe.get O.epochState = 2 ∧ t.fe.get O.flywheelEpochs = satAdd 32 (s.fe.get O.flywheelEpochs) 1) ∧
    (s.fe.kind = 0 ∨ s.fe.inEpoch < flywheelTicks s.fe.kind ∨ (∃ m ∈ s.fe.marks, m.1 ≤ s.fe.now) → exec .flywheelEpochStart s = .next s))

/-- With no holder, a claim makes the claiming side the holder, adds one to the lease number and sets the timer to 50,000 AO
ticks; of two claims in one AO tick side A is granted. The holder's renewal with the current number sets the timer again.
Every other claim or renewal changes neither holder nor number nor timer and is counted. Once the always-on tick in which the
timer runs out has passed, the holder is none (what arrives in that tick still counts, log entry 9). No lease command changes
the concentrator. (R377) -/
def Obligations.LeaseCommandsKeepTheLease : Prop :=
  (∀ (s : State) (side : Nat) (w : Word) (both : Bool), side < 2 → opcodeIs 0x06 w = true → s.fe.up = true →
    ∃ t, exec (.leaseClaim side w both) s = .next t ∧ t.conc = s.conc ∧ t.pending = s.pending ∧
      (s.fe.leaseNow = none ∧ ¬(side = 1 ∧ both = true) →
        t.fe.get O.leaseHolder = side + 1 ∧ t.fe.get O.leaseNumber = (s.fe.get O.leaseNumber + 1) % 2 ^ 32 ∧
          t.fe.sys.leaseEnd = some (s.fe.ao + 50000) ∧ t.fe.get O.leaseGrants = satAdd 32 (s.fe.get O.leaseGrants) 1) ∧
      (s.fe.leaseNow ≠ none ∨ (side = 1 ∧ both = true) →
        t.fe.leaseNow = s.fe.leaseNow ∧ t.fe.get O.leaseNumber = s.fe.get O.leaseNumber ∧
          t.fe.get O.leaseRefusals = satAdd 32 (s.fe.get O.leaseRefusals) 1)) ∧
  (∀ (s : State) (side : Nat) (w : Word), side < 2 → opcodeIs 0x05 w = true → s.fe.up = true →
    ∃ t, exec (.leaseRenew side w) s = .next t ∧ t.conc = s.conc ∧ t.pending = s.pending ∧
      t.fe.get O.leaseNumber = s.fe.get O.leaseNumber ∧
      (∀ e, s.fe.leaseNow = some (side + 1, e) → w.toNat % 2 ^ 32 = s.fe.get O.leaseNumber →
        t.fe.leaseNow = some (side + 1, some (s.fe.ao + 50000)) ∧ t.fe.get O.leaseRefusals = s.fe.get O.leaseRefusals) ∧
      ((∀ e, s.fe.leaseNow ≠ some (side + 1, e)) ∨ w.toNat % 2 ^ 32 ≠ s.fe.get O.leaseNumber →
        t.fe.leaseNow = s.fe.leaseNow ∧ t.fe.get O.leaseRefusals = satAdd 32 (s.fe.get O.leaseRefusals) 1)) ∧
  (∀ (s : State) (e : Nat), s.fe.up = true → s.fe.sys.leaseEnd = some e →
    (e < s.fe.ao → ∃ t, exec .leaseExpiry s = .next t ∧ t.conc = s.conc ∧ t.fe.get O.leaseHolder = 0 ∧ t.fe.sys.leaseEnd = none) ∧
    (s.fe.ao ≤ e → exec .leaseExpiry s = .next s))

/-- A write that would put into test mode the downlink on which it arrives is refused with abort 08000022 and the active downlink
as the owner, and changes nothing but the record of the abort. Once PrbsDuration has passed, test mode ends on a lane of the
front-end by itself, and its mode reads 0. (R103) -/
def Obligations.DownlinkOfTheRequestKeepsOutOfTestMode : Prop :=
  (∀ (s : State) (side code : Nat), side < 2 → 1 ≤ code → code < 4 →
    (List.range 2).all (fun n => decide (entryGet 4 (s.fe.get O.downlinkPrbsMode) n < 4)) = true →
    s.fe.admits side O.downlinkPrbsMode O.downlinkPrbsMode.bytes (entrySet 4 (s.fe.get O.downlinkPrbsMode) side code) →
    exec (.fePrbsTestStart side (.feDown side) code) s = .next { s with
      fe := s.fe.recordAbort side { code := 0x08000022, owner := 0x05 * 2 ^ 24 + side } O.downlinkPrbsMode.index O.downlinkPrbsMode.sub 0 }) ∧
  (∀ (s : State) (k due : Nat), k < 2 → s.fe.up = true → (s.fe.side k).down.st = .prbs → (s.fe.side k).down.prbs.until? = some due →
    due ≤ s.fe.tick → ∃ t, exec (.prbsDurationEnd (.feDown k)) s = .next t ∧ t.conc = s.conc ∧ (t.fe.side k).down.st = .hunt ∧
      entryGet 4 (t.fe.get O.downlinkPrbsMode) k = 0) ∧
  (∀ (s : State) (n due : Nat), n < 4 → s.fe.up = true → ((s.fe.side (n / 2)).up (n % 2)).st = .prbs →
    ((s.fe.side (n / 2)).up (n % 2)).prbs.until? = some due →
    due ≤ s.fe.tick → ∃ t, exec (.prbsDurationEnd (.feUp n)) s = .next t ∧ t.conc = s.conc ∧
      ((t.fe.side (n / 2)).up (n % 2)).st ≠ .prbs ∧ entryGet 4 (t.fe.get O.uplinkPrbsMode) n = 0)

/-- A fault event adds one to the counter, saturating at 255; from 8 the resource is SUSPECT, at once where the cause is
immediate, and then the counter is at least 8. A RETIRED resource ignores events. The decrement takes one off a counter above
0 and never changes the state. On the front-end a passed self-test makes a resource HEALTHY with its counter halved and
rounded down, the events of the test's own clock counted after; a failed one makes a slot, a group, an uplink or the PLL of a
side RETIRED. (R351, R352, R353, R372) -/
def Obligations.FaultEventsDriveTheHealth : Prop :=
  (∀ (h : Health) (immediate : Bool),
    (h.st = .retired → h.event immediate = h) ∧ h.decrement = { h with counter := h.counter - 1 } ∧
    (h.st ≠ .retired →
      (h.event immediate).counter = (if immediate then max (min (h.counter + 1) 255) 8 else min (h.counter + 1) 255) ∧
        ((h.event immediate).st = .suspect ↔ h.st = .suspect ∨ 8 ≤ (h.event immediate).counter) ∧
        (h.event immediate).st ≠ .retired)) ∧
  (∀ (f : Fe) (kind num : Nat), ((f.testPassed kind num).health kind num).st = .healthy ∧
    ((∀ n, (f.health kind num).before ≠ some (f.tick, n)) →
      ((f.testPassed kind num).health kind num).counter = (f.health kind num).counter / 2) ∧
    (∀ n, (f.health kind num).before = some (f.tick, n) →
      ((f.testPassed kind num).health kind num).counter = n / 2 + ((f.health kind num).counter - n))) ∧
  (∀ (f : Fe) (kind num : Nat), (kind = 0x10 ∧ num < 272) ∨ (kind = 0x11 ∧ num < 16) ∨ (kind = 0x12 ∧ num < 4) ∨ (kind = 0x14 ∧ num < 2) →
    ((f.testFailed kind num).health kind num).st = .retired)

/-- A register write that reaches a running front-end on a downlink whose side does not hold the lease is refused with abort
08000024: it counts in FeUnleasedRequests, its abort is recorded, and nothing else of either part changes. (R318) -/
def Obligations.UnleasedDownlinkIsRefused : Prop :=
  ∀ (s : State) (side index sub len v : Nat), side ≤ 1 → index < 2 ^ 16 → sub < 2 ^ 8 → s.fe.runs = true → s.fe.holder ≠ side + 1 →
    exec (.registerWrite .fe side index sub len v) s = .next { s with
      fe := (s.fe.count O.feUnleasedRequests).recordAbort side { code := 0x08000024 } index sub 0 }

/-- Counting on an event counter of either part adds up to its all-ones value and no further. Every object whose card marks it as
an event counter takes a write of zero, which clears it, and refuses every other value as out of range; the front-end's
counters read zero after it. (R9) -/
def Obligations.EventCountersSaturateAndClear : Prop :=
  (∀ (f : Fe) (o : Obj) (i n : Nat), (f.count o i n).get o i = min (f.get o i + n) (2 ^ (8 * o.bytes) - 1)) ∧
  (∀ (c : Conc) (o : Obj) (i n : Nat), (c.count o i n).get o i = min (c.get o i + n) (2 ^ (8 * o.bytes) - 1)) ∧
  (∀ (o : Obj) (v : Nat), (o ∈ feObjs ∨ o ∈ concObjs) → o.counter = true → v < 2 ^ (8 * o.bytes) →
    o.checkWrite false o.bytes v = if v = 0 then .ok 0 else .error Abort.range) ∧
  (∀ (f : Fe) (o : Obj) (i side : Nat), o ∈ feObjs → o.counter = true → f.applyObj side 0 o i 0 = .ok (f.put o 0 i))

/-- The value 74657372 hex written to ResetCommand, or to FeResetCommand on the leased downlink, requests a system reset of that
part 10 ms, or 1 ms, later; any other value is refused with abort 06090030 and requests none. When it is due the part is reset
with cause 7: its lease and its mode as after reset, its ladder at the first step; before that nothing happens. (R466, R463) -/
def Obligations.SystemResetOnRequest : Prop :=
  (∀ (s : State) (src : Nat), src ≤ 2 → s.conc.serves src →
    exec (.resetCommand src 0x74657372) s = .next { s with
      conc := (s.conc.asked src).withBoot fun b => { b with resetDue := some ((s.conc.asked src).tick + 10 * msTicks) } }) ∧
  (∀ (s : State) (src v : Nat), src ≤ 2 → v < 2 ^ 32 → v ≠ 0x74657372 → s.conc.serves src →
    exec (.resetCommand src v) s = .next { s with
        conc := (s.conc.asked src).recordAbort src { code := 0x06090030 } O.resetCommand.index O.resetCommand.sub 0 }) ∧
  (∀ (s : State) (side : Nat), side < 2 → s.fe.runs = true → s.fe.holder = side + 1 →
    exec (.feResetCommand side 0x74657372) s = .next { s with
      fe := s.fe.withSys fun y => { y with resetDue := some (s.fe.tick + msTicks) } }) ∧
  (∀ (s : State) (side v : Nat), side < 2 → v < 2 ^ 32 → v ≠ 0x74657372 → s.fe.runs = true → s.fe.holder = side + 1 →
    exec (.feResetCommand side v) s = .next { s with
      fe := s.fe.recordAbort side { code := 0x06090030 } O.feResetCommand.index O.feResetCommand.sub 0 }) ∧
  (∀ (s : State) (due : Nat), s.fe.sys.resetDue = some due →
    (due ≤ s.fe.tick → ∃ t, exec (.softwareResetDue .fe) s = .next t ∧ t.conc = s.conc ∧ t.fe.get O.feResetCause = 7 ∧
      t.fe.holder = 0 ∧ t.fe.sys.bootStep = 1 ∧ t.fe.up = false ∧ t.fe.chans = [] ∧ t.fe.epochs = [{}]) ∧
    (s.fe.tick < due → exec (.softwareResetDue .fe) s = .next s)) ∧
  (∀ (s : State) (due : Nat), s.conc.boot.resetDue = some due →
    (due ≤ s.conc.tick → ∃ t, exec (.softwareResetDue .conc) s = .next t ∧ t.fe = s.fe ∧ t.conc.get O.resetCause = 7 ∧
      t.conc.runs = false ∧ (∀ p, (t.conc.lease p).status = 0)) ∧
    (s.conc.tick < due → exec (.softwareResetDue .conc) s = .next s))

/-- Each base tick adds the base increment to the sub-second value, or each always-on edge the always-on increment while the
counter runs on that clock. A planned change to the always-on clock counts base increments until the next always-on edge, and
a change back adds the always-on increment at that edge. The tick in which the sum reaches 10^9 ns is kept, by how much it
passes it, and whether an always-on increment did. At the rollover 10^9 ns are subtracted, one is added to the 48-bit seconds,
and the pending increments come into use; one written in the tick of the rollover, or later, waits for the next (log entry
19). Below 10^9 ns the command changes nothing. (R148, R150, R151) -/
def Obligations.RolloverEndsTheSecond : Prop :=
  (∀ (x : TimeBase) (before : Nat), x.load = none → x.hand = 0 →
    { x.tick before with acc := x.acc, aoThisSecond := x.aoThisSecond, crossTick := x.crossTick, crossBeyond := x.crossBeyond,
                         crossAo := x.crossAo } = x ∧
    (x.tick before).aoThisSecond = (x.aoThisSecond || x.onAo) ∧
    (x.onAo = false → (x.tick before).acc = x.acc + x.incBase) ∧
    (x.onAo = true → aoOf before < aoOf (before + 1) → (x.tick before).acc = x.acc + x.incAo * 256) ∧
    (x.onAo = true → aoOf before = aoOf (before + 1) → (x.tick before).acc = x.acc) ∧
    (x.acc < 1000000000 * 2 ^ 32 → 1000000000 * 2 ^ 32 ≤ (x.tick before).acc →
      (x.tick before).crossTick = before + 1 ∧ (x.tick before).crossBeyond + 1000000000 * 2 ^ 32 = (x.tick before).acc ∧
        (x.tick before).crossAo = x.onAo)) ∧
  (∀ (x : TimeBase) (before : Nat), x.load = none →
    (x.onAo = false → x.hand = 0 → (x.toAo true).onAo = true ∧ (x.toAo true).acc = x.acc ∧
      (aoOf before = aoOf (before + 1) → ((x.toAo true).tick before).acc = x.acc + x.incBase ∧ ((x.toAo true).tick before).hand = 1) ∧
      (aoOf before < aoOf (before + 1) → ((x.toAo true).tick before).acc = x.acc ∧ ((x.toAo true).tick before).hand = 0)) ∧
    (x.onAo = true → x.hand = 0 → x.toBase.onAo = false ∧ x.toBase.acc = x.acc ∧
      (aoOf before = aoOf (before + 1) → (x.toBase.tick before).acc = x.acc ∧ (x.toBase.tick before).hand = 3) ∧
      (aoOf before < aoOf (before + 1) → (x.toBase.tick before).acc = x.acc + x.incAo * 256 ∧ (x.toBase.tick before).hand = 0))) ∧
  ∀ s : State, s.conc.up = true →
    (s.conc.time.acc < 1000000000 * 2 ^ 32 → exec .rollover s = .next s) ∧
    (1000000000 * 2 ^ 32 ≤ s.conc.time.acc → ∃ t, exec .rollover s = .next t ∧ t.fe = s.fe ∧ t.pending = s.pending ∧
      t.conc.time.acc + 1000000000 * 2 ^ 32 = s.conc.time.acc ∧ t.conc.time.seconds = (s.conc.time.seconds + 1) % 2 ^ 48 ∧
      t.conc.get O.incrementInUse = t.conc.time.incBase ∧
      ((∀ w, s.conc.time.wroteAt = some w → w < s.conc.rolloverTick) →
        t.conc.time.incBase = s.conc.get O.incrementBase ∧ t.conc.time.incAo = s.conc.get O.incrementAo) ∧
      (∀ w, s.conc.time.wroteAt = some w → s.conc.rolloverTick ≤ w →
        t.conc.time.incBase = s.conc.time.before.1 ∧ t.conc.time.incAo = s.conc.time.before.2))

/-- A base increment of 45,767,171,507 to 45,858,797,475, or an always-on increment of 511,488,000,000 to 512,512,000,000, becomes
the pending value, which a read returns; the increments in use and the counter stay, and the tick of the write is kept for a
rollover in it. Any other value is refused with abort 06090030 and changes nothing but the record of the abort. (R151) -/
def Obligations.IncrementsAreCheckedAndPending : Prop :=
  ∀ (s : State) (src v : Nat), src ≤ 2 → s.conc.serves src →
    (45767171507 ≤ v ∧ v ≤ 45858797475 → ∃ t, exec (.incrementWrite src false v) s = .next t ∧ t.fe = s.fe ∧ t.conc.get O.incrementBase = v ∧
      { t.conc.time with wroteAt := (s.conc.asked src).time.wroteAt, before := (s.conc.asked src).time.before } = (s.conc.asked src).time ∧
      t.conc.time.wroteAt = some (s.conc.asked src).tick ∧ t.conc.get O.incrementInUse = (s.conc.asked src).get O.incrementInUse) ∧
    (v < 45767171507 ∨ 45858797475 < v → v < 2 ^ 40 →
      exec (.incrementWrite src false v) s = .next { s with
        conc := (s.conc.asked src).recordAbort src { code := 0x06090030 } O.incrementBase.index O.incrementBase.sub 0 }) ∧
    (511488000000 ≤ v ∧ v ≤ 512512000000 → ∃ t, exec (.incrementWrite src true v) s = .next t ∧ t.fe = s.fe ∧ t.conc.get O.incrementAo = v ∧
      { t.conc.time with wroteAt := (s.conc.asked src).time.wroteAt, before := (s.conc.asked src).time.before } = (s.conc.asked src).time ∧
      t.conc.time.wroteAt = some (s.conc.asked src).tick) ∧
    (v < 511488000000 ∨ 512512000000 < v → v < 2 ^ 40 →
      exec (.incrementWrite src true v) s = .next { s with
        conc := (s.conc.asked src).recordAbort src { code := 0x06090030 } O.incrementAo.index O.incrementAo.sub 0 })

/-- NMT reset communication makes the node ID that of the pins when they read 1 to 127 and CanNodeIdSource is 0, and otherwise
CanNodeId; CanNodeIdInUse reads it. Every USDO session and a configuration session of CAN is closed, the state is
pre-operational and the last frame sent is the boot-up message. In the stopped state no USDO request is served. (R311, R312) -/
def Obligations.ResetCommunicationTakesTheNodeId : Prop :=
  (∀ (s : State) (pins : Nat), pins < 256 → s.conc.up = true → (s.conc.heard 0).canAlive = true → (s.conc.heard 0).ringAsleep = false → (s.conc.heard 0).rom = false →
    ∃ t, exec (.nmtResetCommunication pins) s = .next t ∧ t.fe = s.fe ∧ t.pending = s.pending ∧
      t.conc.dict.can.nodeId = (if (s.conc.heard 0).get O.canNodeIdSource = 1 ∨ pins % 128 = 0 then (s.conc.heard 0).get O.canNodeId
        else pins % 128) ∧
      t.conc.readVal O.canNodeIdInUse 0 = t.conc.dict.can.nodeId ∧ t.conc.dict.can.usdo = [] ∧ t.conc.dict.session ≠ some 0 ∧
      t.conc.dict.can.state = 0x7F ∧ t.conc.dict.can.sent.getLast? = some { cob := 0x700 + t.conc.dict.can.nodeId, bytes := [0] }) ∧
  (∀ c : Conc, c.dict.can.state = 4 → c.listens 0 = false)

/-- A right password opens the session for its source when no other source holds it. While another holds it the write is refused
and names that session; a wrong password is refused, counted, and, the third in a row, locks the object for 60 s, in which the
right one is refused too. A refused write never changes the holder. (R319, R320) -/
def Obligations.SessionIsExclusive : Prop :=
  ∀ (s : State) (src lane pw : Nat), src ≤ 2 → pw < 2 ^ 64 → s.conc.serves src →
    ((s.conc.asked src).unlocked = true → (s.conc.asked src).dict.session = none ∨ (s.conc.asked src).dict.session = some src →
      (s.conc.asked src).passwordOk pw = true →
      ∃ t, exec (.sessionOpen src lane pw) s = .next t ∧ t.fe = s.fe ∧ t.conc.dict.session = some src ∧ t.conc.dict.wrong = 0 ∧
        t.conc.od = (s.conc.asked src).od) ∧
    (∀ h, (s.conc.asked src).unlocked = true → (s.conc.asked src).dict.session = some h → h ≠ src →
      exec (.sessionOpen src lane pw) s = .next { s with
        conc := (s.conc.asked src).recordAbort src { code := 0x08000022, owner := 0x04 * 2 ^ 24 + h } O.sessionOpen.index O.sessionOpen.sub 0 }) ∧
    ((s.conc.asked src).unlocked = false →
      exec (.sessionOpen src lane pw) s = .next { s with
        conc := (s.conc.asked src).recordAbort src { code := 0x08000021 } O.sessionOpen.index O.sessionOpen.sub 0 }) ∧
    ((s.conc.asked src).unlocked = true → (s.conc.asked src).dict.session = none ∨ (s.conc.asked src).dict.session = some src →
      (s.conc.asked src).passwordOk pw = false →
      ∃ t, exec (.sessionOpen src lane pw) s = .next t ∧ t.fe = s.fe ∧ t.conc.dict.session = (s.conc.asked src).dict.session ∧
        t.conc.get O.passwordFailures = satAdd 32 ((s.conc.asked src).get O.passwordFailures) 1 ∧
        (2 ≤ (s.conc.asked src).dict.wrong → t.conc.dict.lockedUntil = some ((s.conc.asked src).tick + 60 * secTicks) ∧ t.conc.unlocked = false) ∧
        ((s.conc.asked src).dict.wrong < 2 → t.conc.dict.wrong = (s.conc.asked src).dict.wrong + 1))

/-- A write of FaultLogAck moves the acknowledged point to just past the number written, never back, and leaves the log as it is.
A class's bit of the error register is set exactly while an entry of a class with that bit lies beyond the acknowledged point.
(R370) -/
def Obligations.AcknowledgementOnlyAdvances : Prop :=
  (∀ (s : State) (src v : Nat), src ≤ 2 → v < 2 ^ 32 → s.conc.admits src O.faultLogAck 4 v →
    ∃ t, exec (.faultLogAck src v) s = .next t ∧ t.fe = s.fe ∧ t.conc.faults.log = (s.conc.asked src).faults.log ∧
      (v < (s.conc.asked src).faults.acked → t.conc = s.conc.asked src) ∧
      ((s.conc.asked src).faults.acked ≤ v → v < (s.conc.asked src).faults.next → t.conc.faults.acked = v + 1) ∧
      (s.conc.asked src).faults.acked ≤ t.conc.faults.acked) ∧
  (∀ (c : Conc) (b : Nat), b < 8 → (bitAt c.errorRegister b = true ↔
    ∃ k, k < 8 ∧ errorBit k = some b ∧ c.faults.acked < Bank.get 0 c.faults.lastOf k))

/-- At a lockstep failure the partner state is FAILED, the concentrator acts on no port and is mute, no waiting command or message
is left on a downlink, every enabled loop is at its stopped output, FAILED heartbeats are due for 100 ms, the newest entry of
the fault log has class 7 and cause 24 hex, and the Safety Net keeps its state; a failed concentrator stays as it is. (R382) -/
def Obligations.LockstepFailureSilencesTheRingmaster : Prop :=
  ∀ s : State, s.conc.up = true →
    (s.conc.pair.state = 5 → exec .lockstepFailure s = .next s) ∧
    (s.conc.pair.state ≠ 5 → ∃ t, exec .lockstepFailure s = .next t ∧ t.fe = s.fe ∧ t.pending = s.pending ∧
      t.conc.pair.state = 5 ∧ t.conc.mute = true ∧ (∀ p, t.conc.acts p = false) ∧
      (∀ p, p < 48 → (t.conc.lane (laneDown p)).tx.c0 = [] ∧ (t.conc.lane (laneDown p)).tx.c1 = [] ∧
        (t.conc.lane (laneDown p)).tx.c3 = [] ∧ (t.conc.lane (laneDown p)).tx.timed = []) ∧
      (∀ l, l < 16 → t.conc.loopEnabled l = true → (t.conc.loop l).st = 5) ∧
      t.conc.pair.failedUntil = some (s.conc.tick + 100 * msTicks) ∧ t.conc.safety = s.conc.safety ∧
      ∃ e, t.conc.faults.log.getLast? = some e ∧ e.cls = 7 ∧ e.cause = 0x24)

/-- While both scopes are locked or the debug module is gated, every DMI access completes with status 2 and reads zero, and
nothing of either part but that answer changes. The same holds of an access that concerns a hart whose scope is locked, the
selected one or the one that a write of dmcontrol selects (log entry 32), whatever the other scope. (R502) -/
def Obligations.LockedDebugModuleReadsZero : Prop :=
  ∀ (s : State) (op addr v : Nat), op < 4 → addr < 2 ^ 8 → v < 2 ^ 32 → s.conc.up = true →
    (s.conc.gated 8 = true ∨ s.conc.sec.unlocked = 0 ∨
      (∃ h, h = (if op = 2 ∧ addr % 128 = 0x10 then bits v 25 16 + bits v 15 6 * 1024 else s.conc.hartSel) ∧ h ≤ 384 ∧
        s.conc.hartOpen h = false)) →
    exec (.dmiAccess op addr v) s = .next { s with conc := { s.conc with tap := { s.conc.tap with op := 2, data := 0 } } }

/-- A concentrator acts on a port only while it holds the lease and no more than 45 ms have passed since the slot of the last
answered renewal. LOCAL_LEASE_EXPIRY gives up exactly the ports past that time: no command or message is left waiting on their
downlinks; every other port keeps its lease. (R379) -/
def Obligations.HolderActsForFortyFiveMilliseconds : Prop :=
  (∀ (c : Conc) (p : Nat), c.acts p = true → (c.lease p).status = 2 ∧ c.tick ≤ (c.lease p).base + 45 * msTicks) ∧
  ∀ s : State, s.conc.ringUp = true →
    ∃ t, exec .localLeaseExpiry s = .next t ∧ t.fe = s.fe ∧ t.pending = s.pending ∧
      ∀ p, p < 48 →
        ((s.conc.lease p).status = 2 ∧ (s.conc.lease p).base + 45 * msTicks < s.conc.tick →
          (t.conc.lease p).status = 0 ∧ t.conc.acts p = false ∧ (t.conc.lane (laneDown p)).tx.c0 = [] ∧
            (t.conc.lane (laneDown p)).tx.c1 = [] ∧ (t.conc.lane (laneDown p)).tx.c3 = [] ∧ (t.conc.lane (laneDown p)).tx.p1 = [] ∧
            (t.conc.lane (laneDown p)).tx.p3 = [] ∧ (t.conc.lane (laneDown p)).tx.timed = []) ∧
        (¬((s.conc.lease p).status = 2 ∧ (s.conc.lease p).base + 45 * msTicks < s.conc.tick) → t.conc.lease p = s.conc.lease p)

/-- A little-endian read of the bytes just written at an address gives their value; a byte at any address outside them reads as
before; and the memory keeps its canonical form. (R7) -/
def Obligations.MemoryReadsBackWhatWasWritten : Prop :=
  ∀ (m : MemSt) (a : Nat) (bs : List Nat), (∀ b ∈ bs, b < 256) →
    (m.putBytes a bs).get a bs.length = ofBytes bs ∧
      (∀ x, x < a ∨ a + bs.length ≤ x → (m.putBytes a bs).byte x = m.byte x) ∧
      (Memory.wf m.bytes = true → Memory.wf (m.putBytes a bs).bytes = true)

/-- A word for the back end joins the end of the 512-word queue, or, the queue full, waits behind it and is counted. A cell takes
at most 63 words from the head, and the words that wait move up in their order; nothing else leaves, and nothing is sent while
the part is mute. (R292) -/
def Obligations.ClassZeroQueueKeepsTheOrder : Prop :=
  (∀ (c : Conc) (at' : Nat) (w : Word), c.egr.c0.length ≤ 512 → (c.egr.held ≠ [] → c.egr.c0.length = 512) →
    (c.emitAt at' w).egr.c0 ++ (c.emitAt at' w).egr.held = c.egr.c0 ++ c.egr.held ++ [(at', w)] ∧ (c.emitAt at' w).egr.c0.length ≤ 512 ∧
      (c.emitAt at' w).get O.class0QueueFull = (if c.egr.c0.length < 512 then c.get O.class0QueueFull else satAdd 32 (c.get O.class0QueueFull) 1)) ∧
  ∀ s : State, s.conc.baseUp = true →
    (s.conc.egr.c0 = [] ∨ s.conc.class0Lanes = [] ∨ s.conc.mute = true → exec .class0CellBuild s = .next s) ∧
    (s.conc.egr.c0 ≠ [] → s.conc.class0Lanes ≠ [] → s.conc.mute = false → s.conc.egr.c0.length ≤ 512 →
      ∃ t, exec .class0CellBuild s = .next t ∧ t.fe = s.fe ∧ t.pending = s.pending ∧ t.conc.egr.c0.length ≤ 512 ∧
        s.conc.egr.c0.take 63 ++ (t.conc.egr.c0 ++ t.conc.egr.held) = s.conc.egr.c0 ++ s.conc.egr.held ∧
        ∃ l ∈ s.conc.class0Lanes, ∃ h, (t.conc.lane l).tx.q0.getLast? = some (h :: (s.conc.egr.c0.take 63).map Prod.snd))

/-- An accepted enrolment stores the hash and its seal, or, cut short, leaves it for the same hash to complete; once sealed every
further write is refused with abort 06010002, and a hash of all zeros or all ones with 06090030. No floor commit lowers a
floor; an accepted owner floor is the value written. (R398, R399) -/
def Obligations.OwnerEnrolmentIsPermanent : Prop :=
  (∀ (s : State) (src hash : Nat) (cut : Bool), src ≤ 2 → hash < 2 ^ 512 → s.conc.admits src O.ownerKeyHash 64 hash →
    ((s.conc.asked src).sec.owner = 0 ∨ ((s.conc.asked src).sec.owner = 2 ∧ hash = (s.conc.asked src).sec.ownerHash) →
      hash ≠ 0 → hash ≠ 2 ^ 512 - 1 →
      ∃ t, exec (.ownerKeyEnrol src hash cut) s = .next t ∧ t.fe = s.fe ∧
        t.conc.sec = { (s.conc.asked src).sec with ownerHash := hash, owner := if cut then 2 else 1 }) ∧
    ((s.conc.asked src).sec.owner = 1 → exec (.ownerKeyEnrol src hash cut) s = .next { s with
        conc := (s.conc.asked src).recordAbort src { code := 0x06010002 } O.ownerKeyHash.index O.ownerKeyHash.sub 0 }) ∧
    ((s.conc.asked src).sec.owner ≠ 1 → hash = 0 ∨ hash = 2 ^ 512 - 1 → exec (.ownerKeyEnrol src hash cut) s = .next { s with
        conc := (s.conc.asked src).recordAbort src { code := 0x06090030 } O.ownerKeyHash.index O.ownerKeyHash.sub 0 })) ∧
  (∀ (s t : State) (src v : Nat), exec (.ownerFloorCommit src v) s = .next t ∨ exec (.firmwareFloorCommit src v) s = .next t →
    s.conc.sec.ownerFloor ≤ t.conc.sec.ownerFloor ∧ s.conc.sec.fwFloor ≤ t.conc.sec.fwFloor) ∧
  (∀ (s : State) (src v : Nat), src ≤ 2 → v < 2 ^ 8 → s.conc.admits src O.ownerFloorCommit 1 v →
    (s.conc.asked src).sec.ownerFloor < v → v ≤ 24 →
    ∃ t, exec (.ownerFloorCommit src v) s = .next t ∧ t.fe = s.fe ∧ t.conc.sec.ownerFloor = v)

/-- An accepted store of everything makes a new stored set, with the front-end copies as last known, and keeps the one before as
the older copy; an accepted restore of everything leaves no stored set. Neither changes the present value of an object, nor
the front-end. (R301) -/
def Obligations.StoreKeepsThePreviousCopy : Prop :=
  (∀ (s : State) (src v : Nat), src ≤ 2 → v < 2 ^ 32 → s.conc.admits src O.store 4 v → (s.conc.asked src).gated 11 = false →
    ∃ t, exec (.storeAll src 0 v) s = .next t ∧ t.fe = s.fe ∧ t.conc.od = (s.conc.asked src).od ∧
      t.conc.flash.previous = (s.conc.asked src).flash.stored ∧
      ∃ d, t.conc.flash.stored = some d ∧ d.fe = (s.conc.asked src).dict.copies) ∧
  (∀ (s : State) (src v : Nat), src ≤ 2 → v < 2 ^ 32 → s.conc.admits src O.restore 4 v → (s.conc.asked src).gated 11 = false →
    ∃ t, exec (.restoreDefaults src 0 v) s = .next t ∧ t.fe = s.fe ∧ t.conc.od = (s.conc.asked src).od ∧
      t.conc.flash.stored = none ∧ t.conc.flash.previous = none)

/-- After any change of the Safety Net, output k is on exactly when the state is PERMITTED, bit k of BiasRequest is 1 and no test
pulse runs on it. A change of an input takes effect at once: the state is PERMITTED after it only if it was before and every
condition still holds. PERMITTED is entered only from REFUSED, once the conditions have held for ReleaseDelay. (R451) -/
def Obligations.BiasOutputsNeedEveryCondition : Prop :=
  (∀ (c : Conc) (g : Safety → Safety) (k : Nat), k < 2 →
    (bitAt (c.safetySet g).safety.outputs k = true ↔
      (c.safetySet g).safety.st = 2 ∧ bitAt (c.safetySet g).safety.request k = true ∧ ∀ tick, (c.safetySet g).safety.pulse ≠ some (k, tick))) ∧
  (∀ (s : State) (n level : Nat), n < 4 → s.conc.safetyUp = true →
    ∃ t, exec (.safetyInputChange n level) s = .next t ∧ t.fe = s.fe ∧
      (t.conc.safety.st = 2 → s.conc.safety.st = 2 ∧ t.conc.safety.conditions = true) ∧ (t.conc.safety.st = 3 ↔ s.conc.safety.st = 3)) ∧
  (∀ s : State, s.conc.safetyUp = true →
    ∃ t, exec .releaseDelayEnd s = .next t ∧ t.fe = s.fe ∧
      (t.conc.safety.st = 2 → s.conc.safety.st ≠ 2 → s.conc.safety.st = 1 ∧ s.conc.safety.conditions = true ∧
        ∃ b since, s.conc.safety.bundle = some b ∧ s.conc.safety.since = some since ∧ since + b.releaseDelay * msTicks < s.conc.tick))

/-- A write of a mover channel's tail that would post more descriptors than its ring has entries leaves the tail as it is, sets
its refused bit and is counted; any other is the new tail. Every other channel is unchanged. (R253) -/
def Obligations.TailWriteNeverOverfillsTheRing : Prop :=
  ∀ (s : State) (ch v : Nat), ch < 32 → v < 2 ^ 16 → s.conc.baseUp = true →
    ∃ t, exec (.moverTailWrite ch v) s = .next t ∧ t.fe = s.fe ∧ t.pending = s.pending ∧ (∀ j, j ≠ ch → t.conc.mover j = s.conc.mover j) ∧
      ((s.conc.mover ch).entries < (v + 65536 - (s.conc.mover ch).head) % 65536 →
        t.conc.mover ch = { s.conc.mover ch with tailRefused := true } ∧
          t.conc.get O.tailRefused = satAdd 32 (s.conc.get O.tailRefused) 1) ∧
      ((v + 65536 - (s.conc.mover ch).head) % 65536 ≤ (s.conc.mover ch).entries →
        (t.conc.mover ch).tail = v ∧ (t.conc.mover ch).head = (s.conc.mover ch).head ∧
          (t.conc.mover ch).posted ≤ (t.conc.mover ch).entries ∧ t.conc.od = s.conc.od)

/-- A ramp step moves towards the target by at most the slew limit times T, reaches it when it is that near, and never overshoots.
The feed-forward of a bias loop is the code nearest to 65,536 (1 - V_in / r) while r exceeds V_in, and 0 otherwise; a thermal
loop has none. Whatever the gains and the measurement, the output stays within its limits, and an integral that would wind up
further keeps its value. (R432, R433, R435) -/
def Obligations.LoopRampFeedForwardAndLimits : Prop :=
  (∀ (r target t : Rat) (slew : Nat), 0 ≤ t →
    (r ≤ target → r ≤ rampStep r target slew t ∧ rampStep r target slew t ≤ target) ∧
    (target ≤ r → target ≤ rampStep r target slew t ∧ rampStep r target slew t ≤ r) ∧
    (slew ≠ 0 → rampStep r target slew t - r ≤ (slew : Rat) * t ∧ r - rampStep r target slew t ≤ (slew : Rat) * t)) ∧
  (∀ (l : Nat) (v r : Rat), l < 12 → 0 ≤ v → v < r →
    65536 * (1 - v / r) - 1 / 2 ≤ (feedForward l (some v) r : Rat) ∧ (feedForward l (some v) r : Rat) ≤ 65536 * (1 - v / r) + 1 / 2) ∧
  (∀ (l : Nat) (v : Option Rat) (r : Rat), 12 ≤ l ∨ v = none ∨ (∃ x, v = some x ∧ r ≤ x) → feedForward l v r = 0) ∧
  (∀ (l : Nat) (g : Gains) (lo hi : Int) (x : Loop) (y : Rat) (j : Nat) (bump : Bool), lo ≤ hi →
    lo ≤ (controlLaw l g (lo, hi) x y j bump).u ∧ (controlLaw l g (lo, hi) x y j bump).u ≤ hi ∧
      (bump = false → (controlLaw l g (lo, hi) x y j bump).frozen = true → (controlLaw l g (lo, hi) x y j bump).i = x.i))

/-- A read of AdcData clears its new and overrun bits and keeps every other bit of it. A start while the host's request is pending
or converting is ignored and counted; one on a setup that a running loop owns is refused. (R421) -/
def Obligations.AdcDataReadClearsItsFlags : Prop :=
  (∀ (s : State) (src : Nat), src ≤ 2 → s.conc.shows src O.adcData →
    ∃ t, exec (.adcDataRead src) s = .next t ∧ t.fe = s.fe ∧ bitAt (t.conc.get O.adcData) 22 = false ∧ bitAt (t.conc.get O.adcData) 23 = false ∧
      (∀ b, b ≠ 22 → b ≠ 23 → bitAt (t.conc.get O.adcData) b = bitAt ((s.conc.asked src).get O.adcData) b) ∧
      t.conc.adc = { (s.conc.asked src).adc with readAt := some (s.conc.asked src).tick }) ∧
  (∀ (s : State) (src : Nat), src ≤ 2 → s.conc.admits src O.adcStart 1 1 →
    ((s.conc.asked src).adc.hostBusy = true →
      ∃ t, exec (.adcStart src) s = .next t ∧ t.fe = s.fe ∧ t.conc.adc = (s.conc.asked src).adc ∧
        t.conc.get O.startsIgnored = satAdd 32 ((s.conc.asked src).get O.startsIgnored) 1) ∧
    (∀ l, (s.conc.asked src).adc.hostBusy = false → ((s.conc.asked src).setup ((s.conc.asked src).get O.adcSelect)).kind ≠ 0 →
      (s.conc.asked src).setupOwner ((s.conc.asked src).get O.adcSelect) = some l →
      exec (.adcStart src) s = .next { s with conc := (s.conc.asked src).recordAbort src (loopAbort l) O.adcStart.index O.adcStart.sub 0 }))

/-- While a block is gated, a read of an object of it returns zeros without abort, and a write, whatever its source, its length
and its value, is discarded without abort before any other check; each such access is counted in GatedAccesses and changes
nothing else. Objects whose use claims the block are refused instead of discarded. (R340) -/
def Obligations.GatedBlocksReadZero : Prop :=
  (∀ (c : Conc) (index sub i b : Nat) (o : Obj), lookupObj concObjs index sub = .ok (o, i) → o.access ≠ .wo → o.access ≠ .const →
    concBlockOf index sub = some b → c.gated b = true → c.readObj index sub = .ok (o.bytes, 0, c.count O.gatedAccesses)) ∧
  (∀ (s : State) (src index sub len v i b : Nat) (o : Obj), src ≤ 2 → index < 2 ^ 16 → sub < 2 ^ 8 → s.conc.serves src →
    lookupObj concObjs index sub = .ok (o, i) →
    concBlockOf index sub = some b → (s.conc.asked src).gated b = true →
    (claimsGate index sub = false →
      exec (.registerWrite .conc src index sub len v) s = .next { s with conc := (s.conc.asked src).count O.gatedAccesses }) ∧
    (claimsGate index sub = true →
      exec (.registerWrite .conc src index sub len v) s = .next { s with conc := (s.conc.asked src).recordAbort src gateAbort index sub 0 }))

/-- A trigger that is admitted, alone or by merging, takes the next number of the 32-bit trigger counter, which then stands one
higher and wraps; a rejected trigger takes none and leaves the Carousel as it is. Starting a stopped Carousel sets the counter
to 0. (R205, R206) -/
def Obligations.TriggersAreNumberedInOrder : Prop :=
  (∀ (c : Conc) (tier a b : Nat) (pre : Bool),
    ((c.admitTrigger tier a b pre).1 = 3 → (c.admitTrigger tier a b pre).2.2.caro = c.caro) ∧
    ((c.admitTrigger tier a b pre).1 ≠ 3 → (c.admitTrigger tier a b pre).2.1 = c.caro.nextTrigger ∧
      (c.admitTrigger tier a b pre).2.2.caro.nextTrigger = (c.caro.nextTrigger + 1) % 2 ^ 32)) ∧
  (∀ c : Conc, c.caro.running = false → c.carouselStart.caro.running = true ∧ c.carouselStart.caro.nextTrigger = 0)

/-- The words of the Xqtm table decode to their instructions with their registers, and with a field that must be zero set, or a
selector above 4, to none; the three words that the rule spells decode as it says. (R219) -/
def Obligations.XqtmEncodings : Prop :=
  (∀ rd rs1 rs2 : Nat, rd < 32 → rs1 < 32 → rs2 < 32 →
    decode32 (rd * 2 ^ 7 + 0x0B) = some (.xqtm .qpop rd 0 0) ∧
    decode32 (rs1 * 2 ^ 15 + 1 * 2 ^ 12 + rd * 2 ^ 7 + 0x0B) = some (.xqtm .qpeek rd rs1 0) ∧
    decode32 (rs2 * 2 ^ 20 + rs1 * 2 ^ 15 + 3 * 2 ^ 12 + rd * 2 ^ 7 + 0x0B) = some (.xqtm .qhist rd rs1 rs2) ∧
    decode32 (rs2 * 2 ^ 20 + rs1 * 2 ^ 15 + 4 * 2 ^ 12 + rd * 2 ^ 7 + 0x0B) = some (.xqtm .qtrig rd rs1 rs2) ∧
    decode32 (rs1 * 2 ^ 15 + 5 * 2 ^ 12 + 0x0B) = some (.xqtm .qemit 0 rs1 0) ∧
    decode32 (rs1 * 2 ^ 15 + 6 * 2 ^ 12 + rd * 2 ^ 7 + 0x0B) = some (.xqtm .qwait rd rs1 0) ∧
    decode32 (7 * 2 ^ 12 + rd * 2 ^ 7 + 0x0B) = some (.xqtm .qslice rd 0 0)) ∧
  (∀ sel rd : Nat, sel < 128 → rd < 32 →
    decode32 (sel * 2 ^ 25 + 2 * 2 ^ 12 + rd * 2 ^ 7 + 0x0B) = if sel ≤ 4 then some (.xqtm (.qtime sel) rd 0 0) else none) ∧
  (∀ rs2 rd : Nat, 1 ≤ rs2 → rs2 < 32 → rd < 32 → decode32 (rs2 * 2 ^ 20 + rd * 2 ^ 7 + 0x0B) = none) ∧
  decode32 0x0000050B = some (.xqtm .qpop 10 0 0) ∧ decode32 0x0600250B = some (.xqtm (.qtime 3) 10 0 0) ∧
  decode32 0x00C5C50B = some (.xqtm .qtrig 10 11 12)

/-- Index x of 2000 to 207F hex of the front-end on port p is index 4000 + p * 80 + (x and 7F) hex of the concentrator, and every
index of the windows is one of these, so no other front-end index is reachable. A request to a window index goes, its
sub-index unchanged, to that port and index; one without a front-end object is refused with abort 06020000. (R316) -/
def Obligations.RelayWindowMapsEveryFrontEndIndex : Prop :=
  (∀ p x : Nat, p < 48 → 0x2000 ≤ x → x ≤ 0x207F → isWindow (0x4000 + p * 0x80 + (x &&& 0x7F)) = true ∧
    windowIndex p x = 0x4000 + p * 0x80 + (x &&& 0x7F) ∧ windowPort (windowIndex p x) = p ∧ windowFe (windowIndex p x) = x) ∧
  (∀ y : Nat, isWindow y = true → 0x4000 ≤ y ∧ y ≤ 0x57FF ∧ windowPort y < 48 ∧ 0x2000 ≤ windowFe y ∧ windowFe y ≤ 0x207F ∧
    windowIndex (windowPort y) (windowFe y) = y) ∧
  windowIndex 12 O.thresholdTiming.index = 0x4610 ∧
  (∀ (c : Conc) (src lane cls : Nat) (r : Req), r.poisoned = false → 1 ≤ r.op → r.op ≤ 4 → c.rom = false → isWindow r.index = true →
    (lookupObj feObjs (windowFe r.index) r.sub = .error Abort.noObject → c.perform src lane cls r = (some (.error Abort.noObject), c)) ∧
    (c.windowCheck src r = .ok () → c.perform src lane cls r = (none, c.addRelay (windowPort r.index) src lane cls r))) ∧
  (∀ (c : Conc) (r : Relay), r.req.bytes ≤ 40 → ((c.pushRelay r).lane (laneDown r.port)).tx.c1 =
    (c.lane (laneDown r.port)).tx.c1 ++ [({ r.req with tid := r.id, index := windowFe r.req.index } : Req).words]) ∧
  (∀ (c : Conc) (r : Relay), 40 < r.req.bytes → ((c.pushRelay r).lane (laneDown r.port)).tx.c3 =
    (c.lane (laneDown r.port)).tx.c3 ++ [({ r.req with tid := r.id, index := windowFe r.req.index } : Req).words])

/-- In every context x0 reads zero, also after a write of it; a write of any other register is read back as its 64-bit value and
leaves the other registers as they are. The register set is that of RISC-V, which the spec names (log entry 3). (R216) -/
def Obligations.EngineRegisterZeroReadsZero : Prop :=
  ∀ (x : Ctx) (r v : Nat), x.reg 0 = 0 ∧ (x.setReg 0 v).regs = x.regs ∧
    (r ≠ 0 → (x.setReg r v).reg r = v % 2 ^ 64 ∧ ∀ j, j ≠ r → (x.setReg r v).reg j = x.reg j)

/-- The commands of the inputs and of the hit path complete, each with its own effect: crossings and trailing edges, channel
tables and the spare switch, sorters, merger and scaler. (Rules of the commands: R23, R31, R32, R34, R37, R38, R39, R68, R74,
R75, R76, R77, R81, R89, R93.) -/
def Obligations.InputCommandsComplete : Prop :=
  ∀ s : State,
    (∀ (c beat code width : Nat) (val : Option Nat), c < 256 → beat < 32 → code < 256 → s.fe.up = true → exec (.timingCrossing c
      beat code width val) s = .next { s with
        fe := s.fe.crossing c beat code width val }) ∧
    (∀ (c fine ups : Nat) (reading : Bool), c < 256 → fine < 8192 → s.fe.up = true → exec (.trailingEdge c fine ups reading) s =
      .next { s with
        fe := s.fe.trailing c fine ups reading }) ∧
    (∀ (c beat ups : Nat) (reading : Bool), c < 256 → beat < 32 → s.fe.up = true → exec (.totSaturated c beat ups reading) s =
      .next { s with
        fe := s.fe.totFull c beat ups reading }) ∧
    (∀ (c : Nat), c < 256 → s.fe.up = true → exec (.lostHitReportFull c) s = .next { s with fe := s.fe.reportFull c }) ∧
    (∀ (c microAmps : Nat), c < 256 → s.fe.up = true → exec (.baselineSaturationChange c microAmps) s = .next { s with
        fe := s.fe.baseline c microAmps }) ∧
    (∀ (side v : Nat), side < 2 → s.fe.admits side O.thresholdTiming O.thresholdTiming.bytes v → exec (.channelTableWrite side
      O.thresholdTiming.index O.thresholdTiming.sub O.thresholdTiming.bytes v) s = .next { s with
        fe := s.fe.put O.thresholdTiming (O.thresholdTiming.taken O.thresholdTiming.bytes v) }) ∧
    (∀ (side v : Nat), side < 2 → s.fe.admits side O.thresholdValidation O.thresholdValidation.bytes v → exec
      (.channelTableWrite side O.thresholdValidation.index O.thresholdValidation.sub O.thresholdValidation.bytes v) s = .next {
      s with
        fe := s.fe.put O.thresholdValidation (O.thresholdValidation.taken O.thresholdValidation.bytes v) }) ∧
    (∀ (side v : Nat), side < 2 → s.fe.admits side O.biasTrim O.biasTrim.bytes v → exec (.channelTableWrite side
      O.biasTrim.index O.biasTrim.sub O.biasTrim.bytes v) s = .next { s with
        fe := s.fe.put O.biasTrim (O.biasTrim.taken O.biasTrim.bytes v) }) ∧
    (∀ (side v : Nat), side < 2 → s.fe.admits side O.channelMode O.channelMode.bytes v → (∀ c, c < 256 → entryGet 8
      (O.channelMode.taken O.channelMode.bytes v) c % 4 ≠ 3) → ∃ d, s.fe.writeChannelMode (O.channelMode.taken
      O.channelMode.bytes v) = .ok d ∧ exec (.channelTableWrite side O.channelMode.index O.channelMode.sub O.channelMode.bytes
      v) s = .next { s with
        fe := d }) ∧
    (∀ (side v : Nat), side < 2 → s.fe.admits side O.validationWindow O.validationWindow.bytes v → exec (.channelTableWrite side
      O.validationWindow.index O.validationWindow.sub O.validationWindow.bytes v) s = .next { s with
        fe := s.fe.put O.validationWindow (O.validationWindow.taken O.validationWindow.bytes v) }) ∧
    (∀ (c : Nat), c < 256 → s.fe.up = true → exec (.channelSettleEnd c) s = .next { s with fe := s.fe.settleEnd c }) ∧
    (∀ (side g v : Nat), side < 2 → g < 16 → v < 2 ^ 8 → s.fe.admits side O.spareAssignGroup O.spareAssignGroup.bytes v →
      (O.spareAssignGroup.taken O.spareAssignGroup.bytes v) < 16 ∨ (O.spareAssignGroup.taken O.spareAssignGroup.bytes v) = 255 →
      (s.fe.group g).assignLocked = false → ∃ d, s.fe.writeSpareAssign g (O.spareAssignGroup.taken O.spareAssignGroup.bytes v) =
      .ok d ∧ exec (.spareAssignWrite side g v) s = .next { s with
        fe := d }) ∧
    (∀ (c : Nat), c < 256 → s.fe.up = true → exec (.spareBlankEnd c) s = .next { s with fe := s.fe.blankEnd c }) ∧
    (∀ (side : Nat), side < 2 → s.fe.runs = true → s.fe.holder = side + 1 → exec (.baselineStatusRead side) s = .next { s with
        fe := s.fe.clearBaseline }) ∧
    (s.fe.up = true → exec .rateWindowEnd s = .next { s with fe := s.fe.rateWindowEnd }) ∧
    (∀ (g flips : Nat), g < 16 → s.fe.up = true → exec (.sorterTake g flips) s = .next { s with fe := s.fe.sorterTake g flips }) ∧
    (∀ (g flips : Nat), g < 16 → s.fe.up = true → exec (.sorterRelease g flips) s = .next { s with
        fe := s.fe.sorterRelease g flips }) ∧
    (s.fe.up = true → exec .mergerTake s = .next { s with fe := s.fe.mergerTake }) ∧
    (∀ (side : Nat), side < 2 → s.fe.up = true → exec (.uplinkSlot side) s = .next { s with fe := s.fe.uplinkSlot side }) ∧
    (s.fe.up = true → exec .scalerIntervalEnd s = .next { s with fe := s.fe.scalerTick }) ∧
    (∀ (side g : Nat), side < 2 → g < 16 → s.fe.runs = true → s.fe.holder = side + 1 → exec (.sorterStatusRead side g) s = .next
      { s with
        fe := s.fe.resetPeak g })

/-- The commands of the front-end timing complete, each with its own effect: second marks, the Cullet tables, pulsers and the
power of the groups. (Rules of the commands: R42, R44, R49, R50, R52, R53, R54, R60, R61, R62, R64, R66, R130.) -/
def Obligations.TimingCommandsComplete : Prop :=
  ∀ s : State,
    (∀ (side : Nat) (w : Word) (age pos : Nat), side < 2 → opcodeIs 0x01 w = true → age < 64 → s.fe.up = true → exec
      (.secondMark side w age pos) s = .next { s with
        fe := (s.fe.take side [w]).takeMark side (bits w.toNat 31 0) age pos }) ∧
    (s.fe.up = true → exec .secondMarkExecute s = .next { s with fe := s.fe.executeMark }) ∧
    (s.fe.up = true → exec .flywheelEpochStart s = .next { s with fe := s.fe.flywheel }) ∧
    (∀ (g k : Nat), g < 16 → k < 17 → s.fe.up = true → exec (.culletHistogramFull g k) s = .next { s with
        fe := s.fe.histogramFull g k }) ∧
    (∀ (g k : Nat), g < 16 → k < 17 → s.fe.up = true → exec (.culletTableComputed g k) s = .next { s with
        fe := s.fe.tableComputed g k }) ∧
    (∀ (g beat code : Nat), g < 16 → beat < 32 → code < 256 → s.fe.up = true → exec (.pulserInject g beat code) s = .next { s
                                                                                                                            with
        fe := s.fe.inject g beat code }) ∧
    (∀ (side len v : Nat), side < 2 → s.fe.admits side O.culletTableData len v → s.fe.live (s.fe.get O.culletTableSelect) = true
      → monotone (O.culletTableData.taken len v) = true → ∃ d, s.fe.loadTable (O.culletTableData.taken len v) = .ok d ∧ exec
      (.culletTableLoad side len v) s = .next { s with
        fe := d }) ∧
    (∀ (side v : Nat), side < 2 → v < 2 ^ 16 → s.fe.admits side O.freeze O.freeze.bytes v → exec (.culletFreezeWrite side v) s =
      .next { s with
        fe := s.fe.writeFreeze (O.freeze.taken O.freeze.bytes v) }) ∧
    (∀ (side v : Nat), side < 2 → v < 2 ^ 8 → s.fe.admits side O.histogramExponent O.histogramExponent.bytes v → exec
      (.histogramExponentWrite side v) s = .next { s with
        fe := s.fe.writeExponent (O.histogramExponent.taken O.histogramExponent.bytes v) }) ∧
    (∀ (side v : Nat), side < 2 → s.fe.admits side O.timeOffset O.timeOffset.bytes v → exec (.timeCorrectionWrite side
      O.timeOffset.index O.timeOffset.sub O.timeOffset.bytes v) s = .next { s with
        fe := s.fe.put O.timeOffset (O.timeOffset.taken O.timeOffset.bytes v) }) ∧
    (∀ (side v : Nat), side < 2 → s.fe.admits side O.walkTable O.walkTable.bytes v → exec (.timeCorrectionWrite side
      O.walkTable.index O.walkTable.sub O.walkTable.bytes v) s = .next { s with
        fe := s.fe.put O.walkTable (O.walkTable.taken O.walkTable.bytes v) }) ∧
    (∀ (side v : Nat), side < 2 → s.fe.admits side O.walkEnable O.walkEnable.bytes v → exec (.timeCorrectionWrite side
      O.walkEnable.index O.walkEnable.sub O.walkEnable.bytes v) s = .next { s with
        fe := s.fe.put O.walkEnable (O.walkEnable.taken O.walkEnable.bytes v) }) ∧
    (∀ (side mask : Nat), side < 2 → mask < 2 ^ 16 → s.fe.admits side O.groupRequest O.groupRequest.bytes mask → ∃ d,
      s.fe.writeGroupRequest (O.groupRequest.taken O.groupRequest.bytes mask) = .ok d ∧ exec (.groupRequestWake side mask) s =
      .next { s with
        fe := d }) ∧
    (∀ (side mask : Nat), side < 2 → mask < 2 ^ 16 → s.fe.admits side O.groupRequest O.groupRequest.bytes (mask * 2 ^ 16) → ∃ d,
      s.fe.writeGroupRequest (O.groupRequest.taken O.groupRequest.bytes (mask * 2 ^ 16)) = .ok d ∧ exec (.groupRequestSleep side
      mask) s = .next { s with
        fe := d.settleMode }) ∧
    (∀ (side : Nat) (w : Word), side < 2 → opcodeIs 0x03 w = true → s.fe.up = true → (s.fe.take side [w]).holder = side + 1 →
      exec (.groupWake side w) s = .next { s with
        fe := (s.fe.take side [w]).wakeMask (bits w.toNat 15 0) }) ∧
    (∀ (side : Nat) (w : Word), side < 2 → opcodeIs 0x04 w = true → s.fe.up = true → (s.fe.take side [w]).holder = side + 1 →
      exec (.groupSleep side w) s = .next { s with
        fe := ((s.fe.take side [w]).sleepMask (bits w.toNat 15 0)).settleMode }) ∧
    (∀ (side g v : Nat), side < 2 → g < 16 → v < 2 ^ 8 → s.fe.admits side O.groupPowerMode O.groupPowerMode.bytes v → exec
      (.groupPowerModeWrite side g v) s = .next { s with
        fe := s.fe.writePowerMode g (O.groupPowerMode.taken O.groupPowerMode.bytes v) }) ∧
    (∀ (g : Nat), g < 16 → s.fe.up = true → exec (.aoActivitySample g) s = .next { s with fe := s.fe.sampleActivity g }) ∧
    (∀ (g : Nat), g < 16 → s.fe.up = true → exec (.groupPllLocked g) s = .next { s with fe := s.fe.pllLocked g }) ∧
    (∀ (g : Nat), g < 16 → s.fe.up = true → exec (.groupDllLocked g) s = .next { s with fe := s.fe.dllLocked g }) ∧
    (∀ (g : Nat), g < 16 → s.fe.up = true → exec (.groupWakeComplete g) s = .next { s with
        fe := (s.fe.wakeComplete g).settleMode }) ∧
    (∀ (g : Nat), g < 16 → s.fe.up = true → exec (.groupIdleTimeout g) s = .next { s with
        fe := (s.fe.idleTimeout g).settleMode }) ∧
    (∀ (g : Nat), g < 16 → s.fe.up = true → exec (.groupLockLoss g) s = .next { s with fe := (s.fe.lockLoss g).settleMode })

/-- The commands of the lanes complete, each with its own effect: bring-up, training, parking, test modes and their timers. (Rules
of the commands: R102, R103, R104, R106, R107, R109, R110, R112, R113, R115, R117, R123.) -/
def Obligations.LaneCommandsComplete : Prop :=
  ∀ s : State,
    (∀ (i : Nat), 48 ≤ i ∧ i < 164 → s.conc.runs = true → exec (.signalDetect (.conc i)) s = .next { s with
        conc := (s.conc.signalDetect i).wakeLane i }) ∧
    (∀ (k : Nat), k < 2 → s.fe.up = true → exec (.signalDetect (.feDown k)) s = .next { s with fe := s.fe.downSignal k }) ∧
    (∀ (i : Nat), 48 ≤ i ∧ i < 164 → s.conc.runs = true → exec (.signalLoss (.conc i)) s = .next { s with
        conc := s.conc.signalLoss i }) ∧
    (∀ (k : Nat), k < 2 → s.fe.up = true → exec (.signalLoss (.feDown k)) s = .next { s with fe := s.fe.downNoSignal k }) ∧
    (∀ (i : Nat), 48 ≤ i ∧ i < 164 → s.conc.runs = true → exec (.cdrLocked (.conc i)) s = .next { s with
        conc := s.conc.cdrLocked i }) ∧
    (∀ (k : Nat), k < 2 → s.fe.up = true → exec (.cdrLocked (.feDown k)) s = .next { s with fe := s.fe.downCdr k }) ∧
    (∀ (i : Nat), 48 ≤ i ∧ i < 164 → s.conc.runs = true → exec (.cdrLockTimeout (.conc i)) s = .next { s with
        conc := s.conc.cdrTimeout i }) ∧
    (∀ (k : Nat), k < 2 → s.fe.up = true → exec (.cdrLockTimeout (.feDown k)) s = .next { s with fe := s.fe.downCdrTimeout k }) ∧
    (∀ (i line : Nat), 48 ≤ i ∧ i < 164 → s.conc.runs = true → exec (.cellArrival (.conc i) line) s = .next { s with
        conc := s.conc.cellSlot i line }) ∧
    (∀ (k line : Nat), k < 2 → s.fe.up = true → exec (.cellArrival (.feDown k) line) s = .next { s with
        fe := s.fe.downSlot k line }) ∧
    (∀ (x : Nat), 48 ≤ x ∧ x < 144 → s.conc.runs = true → exec (.tightropeJudge x) s = .next { s with
        conc := s.conc.tightJudge x }) ∧
    (∀ (x : Nat), 48 ≤ x ∧ x < 144 → s.conc.runs = true → exec (.tightropeRetry x) s = .next { s with
        conc := s.conc.tightRetry x }) ∧
    (∀ (x : Nat) (positive : Bool), 144 ≤ x ∧ x < 164 → s.conc.runs = true → exec (.trainDetectSense x positive) s = .next { s
                                                                                                                             with
        conc := s.conc.detectSense x positive }) ∧
    (∀ (x : Nat), 144 ≤ x ∧ x < 164 → s.conc.runs = true → exec (.trainDwellEnd x) s = .next { s with
        conc := s.conc.dwellEnd x }) ∧
    (∀ (x : Nat), 144 ≤ x ∧ x < 164 → s.conc.runs = true → exec (.trainingTimeout x) s = .next { s with
        conc := s.conc.trainTimeout x }) ∧
    (∀ (x : Nat), 144 ≤ x ∧ x < 164 → s.conc.runs = true → exec (.trainHoldoffEnd x) s = .next { s with
        conc := s.conc.holdoffEnd x }) ∧
    (∀ (src x : Nat) (c : Conc), src ≤ 2 → x < 164 → s.conc.admits src O.laneControl O.laneControl.bytes (entryUpd 8 (s.conc.get
      O.laneControl) x fun e => setBit e 1 true) → s.conc.asked src = c → (∀ i, i < 144 → bitAt (entryGet 8 (O.laneControl.taken
      O.laneControl.bytes (entryUpd 8 (s.conc.get O.laneControl) x fun e => setBit e 1 true)) i) 4 = false) → ∃ d,
      c.writeLaneControl (O.laneControl.taken O.laneControl.bytes (entryUpd 8 (s.conc.get O.laneControl) x fun e => setBit e 1
      true)) = .ok d ∧ exec (.laneParkRequest src x) s = .next { s with
        conc := d.noteChange O.laneControl }) ∧
    (∀ (x : Nat), x < 164 → s.conc.runs = true → exec (.parkEntry x) s = .next { s with conc := s.conc.parkEntry x }) ∧
    (∀ (src x : Nat) (c : Conc), src ≤ 2 → x < 164 → s.conc.admits src O.laneControl O.laneControl.bytes (entryUpd 8 (s.conc.get
      O.laneControl) x fun e => setBit e 1 false) → s.conc.asked src = c → (∀ i, i < 144 → bitAt (entryGet 8
      (O.laneControl.taken O.laneControl.bytes (entryUpd 8 (s.conc.get O.laneControl) x fun e => setBit e 1 false)) i) 4 =
      false) → ∃ d, c.writeLaneControl (O.laneControl.taken O.laneControl.bytes (entryUpd 8 (s.conc.get O.laneControl) x fun e
      => setBit e 1 false)) = .ok d ∧ exec (.laneUnpark src x) s = .next { s with
        conc := d.noteChange O.laneControl }) ∧
    (∀ (i : Nat), 48 ≤ i ∧ i < 164 → s.conc.runs = true → exec (.unparkDeadline (.conc i)) s = .next { s with
        conc := s.conc.unparkDeadline i }) ∧
    (∀ (k : Nat), k < 2 → s.fe.up = true → exec (.unparkDeadline (.feDown k)) s = .next { s with fe := s.fe.unparkDeadline k }) ∧
    (∀ (src x code : Nat) (c : Conc), src ≤ 2 → x < 164 → code < 4 → s.conc.admits src O.laneControl O.laneControl.bytes
      (entryUpd 8 (s.conc.get O.laneControl) x fun e => e % 4 + code * 4 + e / 16 * 16) → s.conc.asked src = c → (∀ i, i < 144 →
      bitAt (entryGet 8 (O.laneControl.taken O.laneControl.bytes (entryUpd 8 (s.conc.get O.laneControl) x fun e => e % 4 + code
      * 4 + e / 16 * 16)) i) 4 = false) → ∃ d, c.writeLaneControl (O.laneControl.taken O.laneControl.bytes (entryUpd 8
      (s.conc.get O.laneControl) x fun e => e % 4 + code * 4 + e / 16 * 16)) = .ok d ∧ exec (.prbsTestStart src x code) s =
      .next { s with
        conc := d.noteChange O.laneControl }) ∧
    (∀ (side k code : Nat), side < 2 → k < 2 → code < 4 → s.fe.admits side O.downlinkPrbsMode O.downlinkPrbsMode.bytes (entrySet
      4 (s.fe.get O.downlinkPrbsMode) k code) → (∀ n, n < 2 → entryGet 4 (O.downlinkPrbsMode.taken O.downlinkPrbsMode.bytes
      (entrySet 4 (s.fe.get O.downlinkPrbsMode) k code)) n ≤ 3) → entryGet 4 (O.downlinkPrbsMode.taken O.downlinkPrbsMode.bytes
      (entrySet 4 (s.fe.get O.downlinkPrbsMode) k code)) side = 0 → ∃ d, s.fe.writeDownPrbs side (O.downlinkPrbsMode.taken
      O.downlinkPrbsMode.bytes (entrySet 4 (s.fe.get O.downlinkPrbsMode) k code)) = .ok d ∧ exec (.fePrbsTestStart side (.feDown
      k) code) s = .next { s with
        fe := d }) ∧
    (∀ (side k code : Nat), side < 2 → k < 4 → code < 4 → s.fe.admits side O.uplinkPrbsMode O.uplinkPrbsMode.bytes (entrySet 4
      (s.fe.get O.uplinkPrbsMode) k code) → (∀ n, n < 4 → entryGet 4 (O.uplinkPrbsMode.taken O.uplinkPrbsMode.bytes (entrySet 4
      (s.fe.get O.uplinkPrbsMode) k code)) n ≤ 3) → ∃ d, s.fe.writeUpPrbs (O.uplinkPrbsMode.taken O.uplinkPrbsMode.bytes
      (entrySet 4 (s.fe.get O.uplinkPrbsMode) k code)) = .ok d ∧ exec (.fePrbsTestStart side (.feUp k) code) s = .next { s with
        fe := d }) ∧
    (∀ (side k : Nat), side < 2 → k < 2 → s.fe.admits side O.downlinkPrbsMode O.downlinkPrbsMode.bytes (entrySet 4 (s.fe.get
      O.downlinkPrbsMode) k 0) → (∀ n, n < 2 → entryGet 4 (O.downlinkPrbsMode.taken O.downlinkPrbsMode.bytes (entrySet 4
      (s.fe.get O.downlinkPrbsMode) k 0)) n ≤ 3) → entryGet 4 (O.downlinkPrbsMode.taken O.downlinkPrbsMode.bytes (entrySet 4
      (s.fe.get O.downlinkPrbsMode) k 0)) side = 0 → ∃ d, s.fe.writeDownPrbs side (O.downlinkPrbsMode.taken
      O.downlinkPrbsMode.bytes (entrySet 4 (s.fe.get O.downlinkPrbsMode) k 0)) = .ok d ∧ exec (.fePrbsTestStop side (.feDown k))
      s = .next { s with
        fe := d }) ∧
    (∀ (side k : Nat), side < 2 → k < 4 → s.fe.admits side O.uplinkPrbsMode O.uplinkPrbsMode.bytes (entrySet 4 (s.fe.get
      O.uplinkPrbsMode) k 0) → (∀ n, n < 4 → entryGet 4 (O.uplinkPrbsMode.taken O.uplinkPrbsMode.bytes (entrySet 4 (s.fe.get
      O.uplinkPrbsMode) k 0)) n ≤ 3) → ∃ d, s.fe.writeUpPrbs (O.uplinkPrbsMode.taken O.uplinkPrbsMode.bytes (entrySet 4
      (s.fe.get O.uplinkPrbsMode) k 0)) = .ok d ∧ exec (.fePrbsTestStop side (.feUp k)) s = .next { s with
        fe := d }) ∧
    (∀ (k : Nat), k < 2 → s.fe.up = true → exec (.prbsDurationEnd (.feDown k)) s = .next { s with fe := s.fe.prbsEndDown k }) ∧
    (∀ (n : Nat), n < 4 → s.fe.up = true → exec (.prbsDurationEnd (.feUp n)) s = .next { s with
        fe := s.fe.prbsEndUp (n / 2) (n % 2) }) ∧
    (∀ (n : Nat), n < 41 → s.conc.runs = true → exec (.quadPllLockLoss .conc n) s = .next { s with conc := s.conc.quadLoss n }) ∧
    (∀ (n : Nat), n < 41 → s.fe.up = true → exec (.quadPllLockLoss .fe n) s = .next { s with fe := s.fe.pllLoss (n % 2) }) ∧
    (∀ (n : Nat), n < 41 → s.conc.runs = true → exec (.quadPllRelock .conc n) s = .next { s with conc := s.conc.quadRelock n }) ∧
    (∀ (n : Nat), n < 41 → s.fe.up = true → exec (.quadPllRelock .fe n) s = .next { s with fe := s.fe.pllRelock (n % 2) }) ∧
    (∀ (i : Nat), 48 ≤ i ∧ i < 164 → s.conc.runs = true → exec (.prbsCheckerLock (.conc i)) s = .next { s with
        conc := s.conc.prbsLock i }) ∧
    (∀ (k : Nat), k < 2 → s.fe.up = true → exec (.prbsCheckerLock (.feDown k)) s = .next { s with fe := s.fe.prbsLock k }) ∧
    (∀ (i bits : Nat), 48 ≤ i ∧ i < 164 → s.conc.runs = true → exec (.prbsBitError (.conc i) bits) s = .next { s with
        conc := s.conc.prbsError i bits }) ∧
    (∀ (k bits : Nat), k < 2 → s.fe.up = true → exec (.prbsBitError (.feDown k) bits) s = .next { s with
        fe := s.fe.prbsError k bits }) ∧
    (∀ (src x : Nat) (c : Conc), src ≤ 2 → x < 164 → s.conc.admits src O.laneControl O.laneControl.bytes (entryUpd 8 (s.conc.get
      O.laneControl) x fun e => e % 4 + e / 16 * 16) → s.conc.asked src = c → (∀ i, i < 144 → bitAt (entryGet 8
      (O.laneControl.taken O.laneControl.bytes (entryUpd 8 (s.conc.get O.laneControl) x fun e => e % 4 + e / 16 * 16)) i) 4 =
      false) → ∃ d, c.writeLaneControl (O.laneControl.taken O.laneControl.bytes (entryUpd 8 (s.conc.get O.laneControl) x fun e
      => e % 4 + e / 16 * 16)) = .ok d ∧ exec (.prbsTestStop src x) s = .next { s with
        conc := d.noteChange O.laneControl }) ∧
    (∀ (src x : Nat) (on : Bool) (c : Conc), src ≤ 2 → x < 164 → s.conc.admits src O.laneControl O.laneControl.bytes (entryUpd 8
      (s.conc.get O.laneControl) x fun e => setBit e 0 on) → s.conc.asked src = c → (∀ i, i < 144 → bitAt (entryGet 8
      (O.laneControl.taken O.laneControl.bytes (entryUpd 8 (s.conc.get O.laneControl) x fun e => setBit e 0 on)) i) 4 = false) →
      ∃ d, c.writeLaneControl (O.laneControl.taken O.laneControl.bytes (entryUpd 8 (s.conc.get O.laneControl) x fun e => setBit
      e 0 on)) = .ok d ∧ exec (.laneEnableWrite src x on) s = .next { s with
        conc := d.noteChange O.laneControl })

/-- The commands of the link protocol complete, each with its own effect: slots, replay and credit timers, management requests and
the fast commands. (Rules of the commands: R135, R137, R141, R142, R143, R159, R164, R169, R305, R317, R371, R377, R381.) -/
def Obligations.LinkCommandsComplete : Prop :=
  ∀ s : State,
    (∀ (x : Nat), x < 164 → s.conc.baseUp = true → exec (.txSlot x) s = .next { s with conc := s.conc.txSlot x }) ∧
    (∀ (i : Nat), i < 164 → s.conc.runs = true → exec (.replayTimerExpiry (.conc i)) s = .next { s with
        conc := s.conc.replayTimeout i }) ∧
    (∀ (n : Nat), n < 4 → s.fe.up = true → exec (.replayTimerExpiry (.feUp n)) s = .next { s with
        fe := s.fe.upReplayTimeout (n / 2) (n % 2) }) ∧
    (∀ (i : Nat), i < 164 → s.conc.runs = true → exec (.ackProgressTimeout (.conc i)) s = .next { s with
        conc := s.conc.progressTimeout i }) ∧
    (∀ (n : Nat), n < 4 → s.fe.up = true → exec (.ackProgressTimeout (.feUp n)) s = .next { s with
        fe := s.fe.upProgressTimeout (n / 2) (n % 2) }) ∧
    (∀ (i : Nat), i < 164 → s.conc.runs = true → exec (.answerTimeout (.conc i)) s = .next { s with
        conc := s.conc.answerTimeout i }) ∧
    (∀ (n : Nat), n < 4 → s.fe.up = true → exec (.answerTimeout (.feUp n)) s = .next { s with
        fe := s.fe.upAnswerTimeout (n / 2) (n % 2) }) ∧
    (∀ (side tid index sub : Nat) (poisoned : Bool), side < 2 → tid < 2 ^ 16 → index < 2 ^ 16 → sub < 2 ^ 8 → s.fe.up = true →
      exec (.mgmtRead (.feDown side) tid index sub poisoned) s = .next { s with
        fe := s.fe.request side { tid := tid, op := 1, index := index, sub := sub, poisoned := poisoned } }) ∧
    (∀ (n cls tid index sub : Nat) (poisoned : Bool), n < 18 → cls = 1 ∨ cls = 3 → tid < 2 ^ 16 → index < 2 ^ 16 → sub < 2 ^ 8 →
      s.conc.ringUp = true → exec (.mgmtRead (.backEnd n cls) tid index sub poisoned) s = .next { s with
        conc := s.conc.request (laneBe n) cls { tid := tid, op := 1, index := index, sub := sub, poisoned := poisoned } }) ∧
    (∀ (n cls tid index sub : Nat) (poisoned : Bool), n < 2 → cls = 1 ∨ cls = 3 → tid < 2 ^ 16 → index < 2 ^ 16 → sub < 2 ^ 8 →
      s.conc.runs = true → exec (.mgmtRead (.peer n cls) tid index sub poisoned) s = .next { s with
        conc := s.conc.request (lanePeer n) cls { tid := tid, op := 1, index := index, sub := sub, poisoned := poisoned } }) ∧
    (∀ (side tid index sub len v : Nat) (poisoned : Bool), side < 2 → tid < 2 ^ 16 → index < 2 ^ 16 → sub < 2 ^ 8 → len < 2 ^ 16
      → s.fe.up = true → exec (.mgmtWrite (.feDown side) tid index sub len v poisoned) s = .next { s with
        fe := s.fe.request side { tid := tid, op := 2, index := index, sub := sub, len := len, val := v, poisoned := poisoned }
          }) ∧
    (∀ (n cls tid index sub len v : Nat) (poisoned : Bool), n < 18 → cls = 1 ∨ cls = 3 → tid < 2 ^ 16 → index < 2 ^ 16 → sub < 2
      ^ 8 → len < 2 ^ 16 → s.conc.ringUp = true → exec (.mgmtWrite (.backEnd n cls) tid index sub len v poisoned) s = .next { s
                                                                                                                              with
        conc := s.conc.request (laneBe n) cls { tid := tid, op := 2, index := index, sub := sub, len := len, val := v, poisoned
                                                := poisoned } }) ∧
    (∀ (n cls tid index sub len v : Nat) (poisoned : Bool), n < 2 → cls = 1 ∨ cls = 3 → tid < 2 ^ 16 → index < 2 ^ 16 → sub < 2
      ^ 8 → len < 2 ^ 16 → s.conc.runs = true → exec (.mgmtWrite (.peer n cls) tid index sub len v poisoned) s = .next { s with
        conc := s.conc.request (lanePeer n) cls { tid := tid, op := 2, index := index, sub := sub, len := len, val := v,
                                                  poisoned := poisoned } }) ∧
    (∀ (side tid index sub off cnt : Nat) (poisoned : Bool), side < 2 → tid < 2 ^ 16 → index < 2 ^ 16 → sub < 2 ^ 8 → off < 2 ^
      32 → cnt < 2 ^ 16 → s.fe.up = true → exec (.mgmtReadAt (.feDown side) tid index sub off cnt poisoned) s = .next { s with
        fe := s.fe.request side { tid := tid, op := 3, index := index, sub := sub, off := off, cnt := cnt, poisoned := poisoned
                                  } }) ∧
    (∀ (n cls tid index sub off cnt : Nat) (poisoned : Bool), n < 18 → cls = 1 ∨ cls = 3 → tid < 2 ^ 16 → index < 2 ^ 16 → sub <
      2 ^ 8 → off < 2 ^ 32 → cnt < 2 ^ 16 → s.conc.ringUp = true → exec (.mgmtReadAt (.backEnd n cls) tid index sub off cnt
      poisoned) s = .next { s with
        conc := s.conc.request (laneBe n) cls { tid := tid, op := 3, index := index, sub := sub, off := off, cnt := cnt,
                                                poisoned := poisoned } }) ∧
    (∀ (n cls tid index sub off cnt : Nat) (poisoned : Bool), n < 2 → cls = 1 ∨ cls = 3 → tid < 2 ^ 16 → index < 2 ^ 16 → sub <
      2 ^ 8 → off < 2 ^ 32 → cnt < 2 ^ 16 → s.conc.runs = true → exec (.mgmtReadAt (.peer n cls) tid index sub off cnt poisoned)
      s = .next { s with
        conc := s.conc.request (lanePeer n) cls { tid := tid, op := 3, index := index, sub := sub, off := off, cnt := cnt,
                                                  poisoned := poisoned } }) ∧
    (∀ (side tid index sub off : Nat) (last : Bool) (len v : Nat) (poisoned : Bool), side < 2 → tid < 2 ^ 16 → index < 2 ^ 16 →
      sub < 2 ^ 8 → off < 2 ^ 32 → len < 2 ^ 16 → s.fe.up = true → exec (.mgmtWriteAt (.feDown side) tid index sub off last len
      v poisoned) s = .next { s with
        fe := s.fe.request side { tid := tid, op := 4, index := index, sub := sub, off := off, last := last, len := len, val :=
                                  v, poisoned := poisoned } }) ∧
    (∀ (n cls tid index sub off : Nat) (last : Bool) (len v : Nat) (poisoned : Bool), n < 18 → cls = 1 ∨ cls = 3 → tid < 2 ^ 16
      → index < 2 ^ 16 → sub < 2 ^ 8 → off < 2 ^ 32 → len < 2 ^ 16 → s.conc.ringUp = true → exec (.mgmtWriteAt (.backEnd n cls)
      tid index sub off last len v poisoned) s = .next { s with
        conc := s.conc.request (laneBe n) cls { tid := tid, op := 4, index := index, sub := sub, off := off, last := last, len
                                                := len, val := v, poisoned := poisoned } }) ∧
    (∀ (n cls tid index sub off : Nat) (last : Bool) (len v : Nat) (poisoned : Bool), n < 2 → cls = 1 ∨ cls = 3 → tid < 2 ^ 16 →
      index < 2 ^ 16 → sub < 2 ^ 8 → off < 2 ^ 32 → len < 2 ^ 16 → s.conc.runs = true → exec (.mgmtWriteAt (.peer n cls) tid
      index sub off last len v poisoned) s = .next { s with
        conc := s.conc.request (lanePeer n) cls { tid := tid, op := 4, index := index, sub := sub, off := off, last := last, len
                                                  := len, val := v, poisoned := poisoned } }) ∧
    (∀ (l : Nat) (ws : List Word), l < 96 → s.conc.ringUp = true → exec (.mgmtResponse l ws) s = .next { s with
        conc := (s.conc.take (laneIn l) ws).mgmtResponse (l / 2) ws }) ∧
    (∀ (side : Nat) (w : Word) (age : Nat), side < 2 → opcodeIs 0x02 w = true → s.fe.up = true → exec (.echoRequest side w age)
      s = .next { s with
        fe := (s.fe.take side [w]).echoRequest side (bits w.toNat 15 0) age }) ∧
    (∀ (l : Nat) (w : Word) (beat sub : Nat), l < 96 → opcodeIs 0x11 w = true → beat < 32 → (s.conc.take (laneIn l) [w]).gated 0
      = false → s.conc.runs = true → exec (.echoReply l w beat sub) s = .next { s with
        conc := (s.conc.take (laneIn l) [w]).echoReply l (bits w.toNat 15 0) beat sub }) ∧
    (∀ (side : Nat) (w : Word), side < 2 → opcodeIs 0x05 w = true → s.fe.up = true → exec (.leaseRenew side w) s = .next { s
                                                                                                                           with
        fe := (s.fe.take side [w]).leaseRenew side (bits w.toNat 31 0) }) ∧
    (∀ (side : Nat) (w : Word) (both : Bool), side < 2 → opcodeIs 0x06 w = true → s.fe.up = true → exec (.leaseClaim side w
      both) s = .next { s with
        fe := (s.fe.take side [w]).leaseClaim side both }) ∧
    (∀ (l : Nat) (w : Word), l < 96 → opcodeIs 0x12 w = true → s.conc.ringUp = true → exec (.leaseAck l w) s = .next { s with
        conc := (s.conc.take (laneIn l) [w]).leaseAck (l / 2) w }) ∧
    (∀ (l : Nat) (w : Word), l < 96 → opcodeIs 0x13 w = true → s.conc.ringUp = true → exec (.feFault l w) s = .next { s with
        conc := (s.conc.take (laneIn l) [w]).feFault (l / 2) w.toNat (receivedAt (laneIn l) [w] s.conc.links.inbox s.conc.tick)
          }) ∧
    (∀ (n : Nat) (w : Word) (age : Nat), n < 18 → opcodeIs 0x40 w = true → s.conc.ringUp = true → exec (.beEchoRequest n w age)
      s = .next { s with
        conc := (s.conc.take (laneBe n) [w]).beEchoRequest n (bits w.toNat 15 0) age })

/-- The commands of the time base and of the event path complete, each with its own effect: the counter, PPS, the time-interval
unit, the Gather, triggers, the Carousel and the egress. (Rules of the commands: R148, R150, R151, R152, R154, R155, R157,
R164, R165, R167, R171, R172, R177, R178, R181, R186, R188, R195, R196, R200, R201, R203, R207, R208, R209, R210, R212, R289,
R292, R297.) -/
def Obligations.TimeAndEventPathCommandsComplete : Prop :=
  ∀ s : State,
    (s.conc.up = true → exec .rollover s = .next { s with conc := s.conc.secondEnds }) ∧
    (s.conc.runs = true → exec .ppsWindowClose s = .next { s with conc := s.conc.ppsWindowClose }) ∧
    (∀ (falling : Bool) (delay : Nat), s.conc.runs = true → exec (.ppsEdge falling delay) s = .next { s with
        conc := s.conc.ppsEdge falling delay }) ∧
    (∀ (src v : Nat) (c : Conc), src ≤ 2 → v < 2 ^ 8 → s.conc.admits src O.alignArm O.alignArm.bytes v → s.conc.asked src = c →
      v ≤ 1 → ∃ d, c.writeAlignArm (O.alignArm.taken O.alignArm.bytes v) = .ok d ∧ exec (.alignArmWrite src v) s = .next { s
                                                                                                                           with
        conc := d }) ∧
    (∀ (src v : Nat), src ≤ 2 → s.conc.admits src O.incrementBase O.incrementBase.bytes v → exec (.incrementWrite src false v) s
      = .next { s with
        conc := ((s.conc.asked src).writeIncrement O.incrementBase (O.incrementBase.taken O.incrementBase.bytes v)).noteChange
          O.incrementBase }) ∧
    (∀ (src v : Nat), src ≤ 2 → s.conc.admits src O.incrementAo O.incrementAo.bytes v → exec (.incrementWrite src true v) s =
      .next { s with
        conc := ((s.conc.asked src).writeIncrement O.incrementAo (O.incrementAo.taken O.incrementAo.bytes v)).noteChange
          O.incrementAo }) ∧
    (s.conc.up = true → exec .counterToAo s = .next { s with conc := s.conc.plannedStop }) ∧
    (s.conc.up = true → exec .counterToBase s = .next { s with conc := s.conc.counterBack.resume }) ∧
    (∀ (p : Nat), p < 48 → s.conc.baseUp = true → exec (.secondMarkSend p) s = .next { s with conc := s.conc.secondMarkSend p }) ∧
    (∀ (src : Nat) (c : Conc), src ≤ 2 → s.conc.admits src O.tiuRun O.tiuRun.bytes 1 → s.conc.asked src = c → c.get
      O.autoLatency ≠ 1 → c.get O.tiuMode ≠ 1 ∨ (c.lane (laneDown (c.get O.tiuPort))).st = .aligned → ∃ d, c.writeTiuRun 1 = .ok
      d ∧ exec (.tiuRunStart src) s = .next { s with
        conc := d }) ∧
    (∀ (src : Nat) (c : Conc), src ≤ 2 → s.conc.admits src O.tiuRun O.tiuRun.bytes 0 → s.conc.asked src = c → c.get
      O.autoLatency ≠ 1 → ∃ d, c.writeTiuRun 0 = .ok d ∧ exec (.tiuRunAbort src) s = .next { s with
        conc := d }) ∧
    (s.conc.gated 0 = false → s.conc.baseUp = true → exec .tiuEchoSend s = .next { s with conc := s.conc.tiuEchoSend }) ∧
    (∀ (beat : Nat) (gate : Bool), beat < 32 → s.conc.gated 0 = false → s.conc.baseUp = true → exec (.tiuStartEdge beat gate) s
      = .next { s with
        conc := s.conc.tiuStartEdge beat gate }) ∧
    (∀ (beat sub : Nat), beat < 32 → s.conc.gated 0 = false → s.conc.baseUp = true → exec (.tiuStopEdge beat sub) s = .next { s
                                                                                                                              with
        conc := s.conc.tiuStopEdge beat sub }) ∧
    (s.conc.gated 0 = false → s.conc.baseUp = true → exec .tiuSampleTimeout s = .next { s with conc := s.conc.tiuTimeout }) ∧
    (∀ (p : Nat), p < 48 → s.conc.gated 0 = false → s.conc.baseUp = true → exec (.latencyPeriodDue p) s = .next { s with
        conc := s.conc.latencyDue p }) ∧
    (∀ (src : Nat), src ≤ 2 → s.conc.shows src O.timeSeconds → exec (.timeNowRead src) s = .next { s with
        conc := (s.conc.asked src).withTime fun t => { t with latch := (t.value.2 / 2 ^ 32, t.value.2 % 2 ^ 32) } }) ∧
    (∀ (src : Nat), src ≤ 2 → s.conc.shows src O.ppsSeconds → exec (.ppsCaptureRead src) s = .next { s with
        conc := (s.conc.asked src).withTime fun t => { t with captureLatch := (t.capture.2.1 / 2 ^ 32, t.capture.2.1 % 2 ^ 32,
                                                              t.capture.2.2) } }) ∧
    (∀ (l : Nat), l < 96 → s.conc.baseUp = true → exec (.gatherCellTake l) s = .next { s with conc := s.conc.cellTake l }) ∧
    (s.conc.baseUp = true → exec .horizonAdvance s = .next { s with conc := s.conc.horizonStep }) ∧
    (∀ (l : Nat), l < 96 → s.conc.baseUp = true → exec (.laneStaleTimeout l) s = .next { s with conc := s.conc.laneStale l }) ∧
    (s.conc.baseUp = true → exec .sliceComplete s = .next { s with conc := s.conc.sliceComplete }) ∧
    (s.conc.baseUp = true → exec .channelRatesPublish s = .next { s with conc := s.conc.publishRates }) ∧
    (∀ (src v : Nat), src ≤ 2 → s.conc.admits src O.portEnable O.portEnable.bytes v → exec (.portEnableWrite src v) s = .next {
      s with
        conc := ((s.conc.asked src).writePortEnable (O.portEnable.taken O.portEnable.bytes v)).noteChange O.portEnable }) ∧
    (∀ (src : Nat), src ≤ 2 → s.conc.admits src O.carouselEnable O.carouselEnable.bytes 1 → exec (.carouselStart src) s = .next
      { s with
        conc := ((s.conc.asked src).writeCarouselEnable (O.carouselEnable.taken O.carouselEnable.bytes 1)).noteChange
          O.carouselEnable }) ∧
    (∀ (src : Nat), src ≤ 2 → s.conc.admits src O.carouselEnable O.carouselEnable.bytes 0 → exec (.carouselStop src) s = .next {
      s with
        conc := ((s.conc.asked src).writeCarouselEnable (O.carouselEnable.taken O.carouselEnable.bytes 0)).noteChange
          O.carouselEnable }) ∧
    (∀ (n : Nat) (falling : Bool) (beat code width : Nat), n < 4 → beat < 32 → code < 256 → s.conc.gated (1 + n) = false →
      s.conc.baseUp = true → exec (.triginEdge n falling beat code width) s = .next { s with
        conc := s.conc.triginEdge n falling beat code width }) ∧
    (s.conc.baseUp = true → exec .randomTrigger s = .next { s with conc := s.conc.randomTrigger }) ∧
    (∀ (n : Nat) (w1 w2 : Word), n < 18 → opcodeIs 0x41 w1 = true → opcodeIs 0x42 w2 = true → s.conc.baseUp = true → exec
      (.lookbackRequest n w1 w2) s = .next { s with
        conc := (s.conc.take (laneBe n) [w1, w2]).lookback (bits w1.toNat 55 40) (bits w1.toNat 39 0) (bits w2.toNat 45 30)
          (bits w2.toNat 29 0) }) ∧
    (s.conc.baseUp = true → exec .entryReady s = .next { s with conc := s.conc.entriesReady }) ∧
    (s.conc.baseUp = true → exec .fillTimeout s = .next { s with conc := s.conc.fillsTimeOut }) ∧
    (∀ (ch : Nat), ch < 4 → s.conc.baseUp = true → exec (.extractionStart ch) s = .next { s with
        conc := s.conc.extractionStart (28 + ch) }) ∧
    (∀ (ch : Nat), ch < 4 → s.conc.baseUp = true → exec (.extractionComplete ch) s = .next { s with
        conc := s.conc.extractionComplete (28 + ch) }) ∧
    (s.conc.baseUp = true → exec .prescaleGrid1ms s = .next { s with conc := s.conc.grid1 }) ∧
    (s.conc.baseUp = true → exec .prescaleGrid10ms s = .next { s with conc := s.conc.grid10 }) ∧
    (∀ (src : Nat), src ≤ 2 → s.conc.shows src O.tailKey → exec (.carouselStatusRead src) s = .next { s with
        conc := (s.conc.asked src).latchCarousel }) ∧
    (s.conc.baseUp = true → exec .class0CellBuild s = .next { s with conc := s.conc.buildClass0 }) ∧
    (s.conc.baseUp = true → exec .bulkRecordClose s = .next { s with conc := s.conc.bulksDue }) ∧
    (∀ (src : Nat), src ≤ 2 → s.conc.shows src O.class0Residence → exec (.class0ResidenceRead src) s = .next { s with
        conc := { (s.conc.asked src) with egr := { (s.conc.asked src).egr with residence := 0 } } })

/-- The commands of the engines and of the movers complete, each with its own effect: instructions, Xqtm, services, instances,
tasks, descriptors and the error registers of memory. (Rules of the commands: R215, R216, R220, R221, R224, R226, R228, R229,
R231, R232, R236, R250, R253, R255, R257, R260, R262, R265, R272, R290.) -/
def Obligations.EngineAndMoverCommandsComplete : Prop :=
  ∀ s : State,
    (∀ (e : Nat), e < 96 → s.conc.baseUp = true → exec (.engineInstruction e) s = .next { s with
        conc := s.conc.engineCommand e .ordinary }) ∧
    (∀ (e : Nat), e < 96 → s.conc.baseUp = true → exec (.qpop e) s = .next { s with conc := s.conc.engineCommand e (.xqtm 0) }) ∧
    (∀ (e : Nat), e < 96 → s.conc.baseUp = true → exec (.qpeek e) s = .next { s with conc := s.conc.engineCommand e (.xqtm 1) }) ∧
    (∀ (e : Nat), e < 96 → s.conc.baseUp = true → exec (.qtime e) s = .next { s with conc := s.conc.engineCommand e (.xqtm 2) }) ∧
    (∀ (e : Nat), e < 96 → s.conc.baseUp = true → exec (.qhist e) s = .next { s with conc := s.conc.engineCommand e (.xqtm 3) }) ∧
    (∀ (e : Nat), e < 96 → s.conc.baseUp = true → exec (.qtrig e) s = .next { s with conc := s.conc.engineCommand e (.xqtm 4) }) ∧
    (∀ (e : Nat), e < 96 → s.conc.baseUp = true → exec (.qemit e) s = .next { s with conc := s.conc.engineCommand e (.xqtm 5) }) ∧
    (∀ (e : Nat), e < 96 → s.conc.baseUp = true → exec (.qwait e) s = .next { s with conc := s.conc.engineCommand e (.xqtm 6) }) ∧
    (∀ (e : Nat), e < 96 → s.conc.baseUp = true → exec (.qslice e) s = .next { s with
        conc := s.conc.engineCommand e (.xqtm 7) }) ∧
    (s.conc.baseUp = true → exec .qwaitLimitExpiry s = .next { s with conc := s.conc.qwaitsExpire }) ∧
    (∀ (x rd : Nat), x < 384 → rd < 32 → s.conc.baseUp = true → exec (.resultReturn x rd) s = .next { s with
        conc := s.conc.resultReturn x rd }) ∧
    (∀ (x n : Nat), x < 384 → s.conc.baseUp = true → exec (.feedDataArrival x n) s = .next { s with
        conc := s.conc.feedArrival x n }) ∧
    (∀ (e : Nat), e < 96 → s.conc.baseUp = true → exec (.ecallExit e) s = .next { s with
        conc := s.conc.engineCommand e (.service 0) }) ∧
    (∀ (e : Nat), e < 96 → s.conc.baseUp = true → exec (.ecallSetRestart e) s = .next { s with
        conc := s.conc.engineCommand e (.service 1) }) ∧
    (∀ (e : Nat), e < 96 → s.conc.baseUp = true → exec (.ecallLog e) s = .next { s with
        conc := s.conc.engineCommand e (.service 2) }) ∧
    (∀ (x : Nat), x < 384 → s.conc.baseUp = true → exec (.serviceComplete x) s = .next { s with
        conc := s.conc.serviceComplete x }) ∧
    (∀ (src : Nat) (c : Conc), src ≤ 2 → s.conc.admits src O.instanceCommand O.instanceCommand.bytes 1 → s.conc.asked src = c →
      c.get O.instanceSelect = 0xFFFF → ∃ d, c.instanceCommand (O.instanceCommand.taken O.instanceCommand.bytes 1) = .ok d ∧
      exec (.instanceStart src) s = .next { s with
        conc := d }) ∧
    (∀ (src : Nat) (e c : Conc), src ≤ 2 → s.conc.admits src O.instanceCommand O.instanceCommand.bytes 1 → s.conc.asked src = c
      → c.get O.instanceSelect < 384 → c.startInstance (c.get O.instanceSelect) = .ok e → ∃ d, c.instanceCommand
      (O.instanceCommand.taken O.instanceCommand.bytes 1) = .ok d ∧ exec (.instanceStart src) s = .next { s with
        conc := d }) ∧
    (∀ (src : Nat) (c : Conc), src ≤ 2 → s.conc.admits src O.instanceCommand O.instanceCommand.bytes 2 → s.conc.asked src = c →
      c.get O.instanceSelect = 0xFFFF → ∃ d, c.instanceCommand (O.instanceCommand.taken O.instanceCommand.bytes 2) = .ok d ∧
      exec (.instanceSuspend src) s = .next { s with
        conc := d }) ∧
    (∀ (src : Nat) (c : Conc), src ≤ 2 → s.conc.admits src O.instanceCommand O.instanceCommand.bytes 2 → s.conc.asked src = c →
      c.get O.instanceSelect < 384 → (c.ctx (c.get O.instanceSelect)).st = 2 ∨ (c.ctx (c.get O.instanceSelect)).st = 4 → ∃ d,
      c.instanceCommand (O.instanceCommand.taken O.instanceCommand.bytes 2) = .ok d ∧ exec (.instanceSuspend src) s = .next { s
                                                                                                                              with
        conc := d }) ∧
    (∀ (src : Nat) (c : Conc), src ≤ 2 → s.conc.admits src O.instanceCommand O.instanceCommand.bytes 3 → s.conc.asked src = c →
      c.get O.instanceSelect = 0xFFFF → ∃ d, c.instanceCommand (O.instanceCommand.taken O.instanceCommand.bytes 3) = .ok d ∧
      exec (.instanceResume src) s = .next { s with
        conc := d }) ∧
    (∀ (src : Nat) (c : Conc), src ≤ 2 → s.conc.admits src O.instanceCommand O.instanceCommand.bytes 3 → s.conc.asked src = c →
      c.get O.instanceSelect < 384 → (c.ctx (c.get O.instanceSelect)).st = 6 ∨ (c.ctx (c.get O.instanceSelect)).st = 7 → ∃ d,
      c.instanceCommand (O.instanceCommand.taken O.instanceCommand.bytes 3) = .ok d ∧ exec (.instanceResume src) s = .next { s
                                                                                                                             with
        conc := d }) ∧
    (∀ (src : Nat) (c : Conc), src ≤ 2 → s.conc.admits src O.instanceCommand O.instanceCommand.bytes 4 → s.conc.asked src = c →
      c.get O.instanceSelect = 0xFFFF → ∃ d, c.instanceCommand (O.instanceCommand.taken O.instanceCommand.bytes 4) = .ok d ∧
      exec (.instanceKill src) s = .next { s with
        conc := d }) ∧
    (∀ (src : Nat) (c : Conc), src ≤ 2 → s.conc.admits src O.instanceCommand O.instanceCommand.bytes 4 → s.conc.asked src = c →
      c.get O.instanceSelect < 384 → (c.ctx (c.get O.instanceSelect)).st ≠ 0 → (c.ctx (c.get O.instanceSelect)).st ≠ 8 → ∃ d,
      c.instanceCommand (O.instanceCommand.taken O.instanceCommand.bytes 4) = .ok d ∧ exec (.instanceKill src) s = .next { s
                                                                                                                           with
        conc := d }) ∧
    (∀ (x : Nat), x < 384 → s.conc.baseUp = true → exec (.drainComplete x) s = .next { s with conc := s.conc.drainComplete x }) ∧
    (∀ (src : Nat) (c : Conc), src ≤ 2 → s.conc.admits src O.instanceCommand O.instanceCommand.bytes 5 → s.conc.asked src = c →
      c.get O.instanceSelect = 0xFFFF → ∃ d, c.instanceCommand (O.instanceCommand.taken O.instanceCommand.bytes 5) = .ok d ∧
      exec (.instanceRestart src) s = .next { s with
        conc := d }) ∧
    (∀ (src : Nat) (c : Conc), src ≤ 2 → s.conc.admits src O.instanceCommand O.instanceCommand.bytes 5 → s.conc.asked src = c →
      c.get O.instanceSelect < 384 → (c.ctx (c.get O.instanceSelect)).st = 2 ∨ (c.ctx (c.get O.instanceSelect)).st = 4 ∨ (c.ctx
      (c.get O.instanceSelect)).st = 6 ∨ (c.ctx (c.get O.instanceSelect)).st = 7 → ∃ d, c.instanceCommand
      (O.instanceCommand.taken O.instanceCommand.bytes 5) = .ok d ∧ exec (.instanceRestart src) s = .next { s with
        conc := d }) ∧
    (∀ (x : Nat), x < 384 → s.conc.baseUp = true → exec (.instanceRunnable x) s = .next { s with
        conc := s.conc.instanceRunnable x }) ∧
    (∀ (src k : Nat) (env : Envelope) (c : Conc), src ≤ 2 → k < 64 → s.conc.admits src O.taskLoadSlot O.taskLoadSlot.bytes k →
      s.conc.asked src = c → c.gated 9 = false → c.sec.owner = 1 → c.lowestInstance k = none → c.judgeEnvelope 2 false true
      (toBytes c.eng.staged.1 c.eng.staged.2) = .ok env → (hdrOf env.payload).ok env.payload.length = true → ∃ d, c.taskLoad k =
      (.ok d, d) ∧ exec (.taskLoad src k) s = .next { s with
        conc := d.pushImage }) ∧
    (∀ (src k : Nat) (c : Conc), src ≤ 2 → k < 64 → s.conc.admits src O.taskUnload O.taskUnload.bytes k → s.conc.asked src = c →
      c.lowestInstance k = none → ∃ d, c.taskUnload k = .ok d ∧ exec (.taskUnload src k) s = .next { s with
        conc := d }) ∧
    (∀ (x : Nat), x < 384 → s.conc.baseUp = true → exec (.parityRestart x) s = .next { s with conc := s.conc.parityRestart x }) ∧
    (∀ (k : Nat), k < 13 → s.conc.baseUp = true → exec (.clusterIdleTimeout k) s = .next { s with
        conc := s.conc.clusterSleep k }) ∧
    (∀ (k : Nat), k < 13 → s.conc.baseUp = true → exec (.clusterWakeComplete k) s = .next { s with
        conc := s.conc.clusterWake k }) ∧
    (∀ (ch v : Nat), ch < 32 → v < 2 ^ 16 → s.conc.baseUp = true → exec (.moverTailWrite ch v) s = .next { s with
        conc := s.conc.moverTail ch v }) ∧
    (∀ (ch : Nat), ch < 32 → s.conc.baseUp = true → exec (.moverResume ch) s = .next { s with conc := s.conc.moverResume ch }) ∧
    (∀ (ch : Nat), ch < 32 → s.conc.baseUp = true → exec (.moverAbort ch) s = .next { s with conc := s.conc.moverAbort ch }) ∧
    (∀ (ch beats : Nat), ch < 32 → s.conc.baseUp = true → exec (.moverCopy ch beats) s = .next { s with
        conc := s.conc.moverRun ch 1 beats }) ∧
    (∀ (ch beats : Nat), ch < 32 → s.conc.baseUp = true → exec (.moverScatter ch beats) s = .next { s with
        conc := s.conc.moverRun ch 2 beats }) ∧
    (∀ (ch beats : Nat), ch < 32 → s.conc.baseUp = true → exec (.moverFill ch beats) s = .next { s with
        conc := s.conc.moverRun ch 3 beats }) ∧
    (∀ (ch beats : Nat), ch < 32 → s.conc.baseUp = true → exec (.moverSend ch beats) s = .next { s with
        conc := s.conc.moverRun ch 4 beats }) ∧
    (∀ (ch beats : Nat), ch < 32 → s.conc.baseUp = true → exec (.moverCompress ch beats) s = .next { s with
        conc := s.conc.moverRun ch 5 beats }) ∧
    (∀ (ch beats : Nat), ch < 32 → s.conc.baseUp = true → exec (.moverCrc ch beats) s = .next { s with
        conc := s.conc.moverRun ch 6 beats }) ∧
    (∀ (ch : Nat), ch < 32 → s.conc.baseUp = true → exec (.descriptorComplete ch) s = .next { s with
        conc := s.conc.descriptorComplete ch }) ∧
    (∀ (ch : Nat), ch < 32 → s.conc.baseUp = true → exec (.marverBlockFlush ch) s = .next { s with
        conc := s.conc.marverFlush ch }) ∧
    (∀ (src v : Nat), src ≤ 2 → v < 2 ^ 8 → s.conc.admits src O.flipArm O.flipArm.bytes v → exec (.flipArmWrite src v) s = .next
      { s with
        conc := (s.conc.asked src).put O.flipArm (O.flipArm.taken O.flipArm.bytes v) }) ∧
    (∀ (src : Nat), src ≤ 2 → s.conc.shows src O.lastErrorAddress → exec (.eccLastErrorRead src) s = .next { s with
        conc := (s.conc.asked src).latchEcc })

/-- The commands of the dictionary and of clocks and power complete, each with its own effect: CAN, NMT, sessions, stores, clock
sources, gates, power requests and modes. (Rules of the commands: R301, R303, R304, R305, R311, R313, R314, R317, R319, R320,
R328, R332, R336, R338, R339, R340, R344, R345, R346.) -/
def Obligations.DictionaryAndClockCommandsComplete : Prop :=
  ∀ s : State,
    (∀ (session : Nat) (write : Bool) (index sub len v : Nat) (toggle last : Bool), session < 128 → index < 2 ^ 16 → sub < 2 ^ 8
      → s.conc.up = true → exec (.usdoRequest session write index sub len v toggle last) s = .next { s with
        conc := s.conc.usdoRequest session write index sub len v toggle last }) ∧
    (s.conc.up = true → exec .nmtStart s = .next { s with conc := s.conc.nmtState 5 }) ∧
    (s.conc.up = true → exec .nmtStop s = .next { s with conc := s.conc.nmtState 4 }) ∧
    (s.conc.up = true → exec .nmtEnterPreOperational s = .next { s with conc := s.conc.nmtState 0x7F }) ∧
    (∀ (pins : Nat), pins < 2 ^ 8 → s.conc.up = true → exec (.nmtResetNode pins) s = .next { s with
        conc := s.conc.nmtResetNode pins }) ∧
    (∀ (pins : Nat), pins < 2 ^ 8 → s.conc.up = true → exec (.nmtResetCommunication pins) s = .next { s with
        conc := s.conc.nmtResetComm pins }) ∧
    (s.conc.up = true → exec .canHeartbeat s = .next { s with conc := s.conc.canHeartbeat }) ∧
    (s.conc.up = true → exec .emcySend s = .next { s with conc := s.conc.emcySend }) ∧
    (∀ (k : Nat), 1 ≤ k ∧ k ≤ 4 → s.conc.up = true → exec (.tpdoSend k) s = .next { s with conc := s.conc.tpdoSend k }) ∧
    (∀ (src k v : Nat), src ≤ 2 → k < O.store.count → v < 2 ^ 32 → s.conc.admits src O.store O.store.bytes v k → (s.conc.asked
      src).gated 11 = false → exec (.storeAll src k v) s = .next { s with
        conc := (s.conc.asked src).storeSet (k + 1) }) ∧
    (∀ (src k v : Nat), src ≤ 2 → k < O.restore.count → v < 2 ^ 32 → s.conc.admits src O.restore O.restore.bytes v k →
      (s.conc.asked src).gated 11 = false → exec (.restoreDefaults src k v) s = .next { s with
        conc := (s.conc.asked src).eraseStored (k + 1) }) ∧
    (∀ (src lane pw : Nat) (c : Conc), src ≤ 2 → s.conc.admits src O.sessionOpen O.sessionOpen.bytes pw → s.conc.asked src = c →
      c.unlocked = true → c.dict.session = none ∨ c.dict.session = some src → c.passwordOk (O.sessionOpen.taken
      O.sessionOpen.bytes pw) = true → ∃ d, c.sessionOpen src lane (O.sessionOpen.taken O.sessionOpen.bytes pw) = (.ok d, d) ∧
      exec (.sessionOpen src lane pw) s = .next { s with
        conc := d }) ∧
    (∀ (src v : Nat) (c : Conc), src ≤ 2 → v < 2 ^ 8 → s.conc.admits src O.sessionClose O.sessionClose.bytes v → s.conc.asked
      src = c → c.dict.session = some src → ∃ d, c.sessionClose src = .ok d ∧ exec (.sessionClose src v) s = .next { s with
        conc := d }) ∧
    (s.conc.ringAsleep = false → s.conc.up = true → exec .sessionTimeout s = .next { s with conc := s.conc.sessionTimeout }) ∧
    (∀ (src pw : Nat) (c : Conc), src ≤ 2 → s.conc.admits src O.passwordChange O.passwordChange.bytes pw → s.conc.asked src = c
      → c.dict.session = some src → c.gated 11 = false → ∃ d, c.passwordChange src (O.passwordChange.taken
      O.passwordChange.bytes pw) = .ok d ∧ exec (.passwordChange src pw) s = .next { s with
        conc := d }) ∧
    (s.conc.ringAsleep = false → s.conc.up = true → exec .passwordLockoutEnd s = .next { s with conc := s.conc.lockoutEnd }) ∧
    (∀ (src index sub : Nat), src ≤ 2 → index < 2 ^ 16 → sub < 2 ^ 8 → s.conc.runs = true → exec (.stagingTimeout .conc src
      index sub) s = .next { s with
        conc := s.conc.stagingTimeout src index sub }) ∧
    (∀ (src index sub : Nat), src ≤ 2 → index < 2 ^ 16 → sub < 2 ^ 8 → s.fe.up = true → exec (.stagingTimeout .fe src index sub)
      s = .next { s with
        fe := s.fe.stagingTimeout src index sub }) ∧
    (s.conc.ringUp = true → exec .relayRepeat s = .next { s with conc := s.conc.relaysRepeat }) ∧
    (s.conc.ringUp = true → exec .relayTimeout s = .next { s with conc := s.conc.relaysTimeOut }) ∧
    (∀ (src v : Nat), src ≤ 2 → v < 2 ^ 8 → s.conc.admits src O.errorCount O.errorCount.bytes v → exec (.errorHistoryClear src
      v) s = .next { s with
        conc := { (s.conc.asked src) with dict := { (s.conc.asked src).dict with can := { (s.conc.asked src).dict.can with
                                                                                          history := [] } } } }) ∧
    (∀ (src index sub len v i : Nat) (o : Obj) (d e : Conc), src ≤ 2 → index < 2 ^ 16 → sub < 2 ^ 8 → lookupObj concObjs index
      sub = .ok (o, i) → index = o.index ∧ sub = o.sub + i → s.conc.admits src o len v i → (s.conc.asked src).applyWrite src
      (sourceLane src) 0 o i len (o.taken len v) = (.ok d, e) → exec (.registerWrite .conc src index sub len v) s = .next { s
                                                                                                                            with
        conc := d }) ∧
    (∀ (side index sub len v i : Nat) (o : Obj) (d : Fe), side ≤ 1 → index < 2 ^ 16 → sub < 2 ^ 8 → lookupObj feObjs index sub =
      .ok (o, i) → s.fe.admits side o len v → s.fe.applyObj side 0 o i (o.taken len v) = .ok d → exec (.registerWrite .fe side
      index sub len v) s = .next { s with
        fe := d }) ∧
    (∀ (src v : Nat), src ≤ 2 → s.conc.admits src O.producerHeartbeat O.producerHeartbeat.bytes v → exec (.registerWrite .conc
      src O.producerHeartbeat.index O.producerHeartbeat.sub O.producerHeartbeat.bytes v) s = .next { s with
        conc := (((s.conc.asked src).put O.producerHeartbeat (O.producerHeartbeat.taken O.producerHeartbeat.bytes
          v))).noteChange O.producerHeartbeat }) ∧
    (∀ (side v : Nat), side ≤ 1 → s.fe.admits side O.prbsDuration O.prbsDuration.bytes v → exec (.registerWrite .fe side
      O.prbsDuration.index O.prbsDuration.sub O.prbsDuration.bytes v) s = .next { s with
        fe := s.fe.put O.prbsDuration (O.prbsDuration.taken O.prbsDuration.bytes v) }) ∧
    (∀ (src index sub len v : Nat), src ≤ 2 → index < 2 ^ 16 → sub < 2 ^ 8 → isWindow index = true → s.conc.up = true → exec
      (.registerWrite .conc src index sub len v) s = .next { s with
        conc := s.conc.windowWrite src { tid := 0, op := 2, index := index, sub := sub, len := len, val := v } }) ∧
    (∀ (session : Nat), session < 128 → s.conc.ringAsleep = false → s.conc.up = true → exec (.usdoTimeout session) s = .next { s
                                                                                                                               with
        conc := s.conc.usdoTimeout session }) ∧
    (∀ (n : Nat), n < 41 → s.conc.up = true → exec (.clockSourceDead .conc n) s = .next { s with conc := s.conc.clockDead n }) ∧
    (∀ (n : Nat), n < 41 → s.fe.up = true → exec (.clockSourceDead .fe n) s = .next { s with fe := s.fe.clockDead n }) ∧
    (∀ (n : Nat), n < 41 → s.conc.up = true → exec (.clockSourceAlive .conc n) s = .next { s with
        conc := (s.conc.clockAlive n).resume }) ∧
    (∀ (n : Nat), n < 41 → s.fe.up = true → exec (.clockSourceAlive .fe n) s = .next { s with fe := s.fe.clockAlive n }) ∧
    (∀ (n : Nat) (good : Bool), n < 41 → s.conc.up = true → exec (.stabilityWindow .conc n good) s = .next { s with
        conc := s.conc.stabilityWindow n good }) ∧
    (∀ (n : Nat) (good : Bool), n < 41 → s.fe.up = true → exec (.stabilityWindow .fe n good) s = .next { s with
        fe := s.fe.stabilityWindow n good }) ∧
    (∀ (ppm : Int), s.conc.up = true → exec (.aoTrimWindow .conc ppm) s = .next { s with conc := s.conc.aoTrimWindow ppm }) ∧
    (∀ (ppm : Int), s.fe.up = true → exec (.aoTrimWindow .fe ppm) s = .next { s with fe := s.fe.aoTrimWindow ppm }) ∧
    (s.conc.up = true → exec .aoCrystalReturn s = .next { s with conc := s.conc.crystalReturn }) ∧
    (∀ (src v : Nat) (c : Conc), src ≤ 2 → v < 2 ^ 8 → s.conc.admits src O.meterRun O.meterRun.bytes v → s.conc.asked src = c →
      v = 1 → ∃ d, c.meterRun (O.meterRun.taken O.meterRun.bytes v) = .ok d ∧ exec (.meterRun src v) s = .next { s with
        conc := d }) ∧
    (∀ (count : Nat), count < 2 ^ 32 → s.conc.runs = true → exec (.meterGateEnd count) s = .next { s with
        conc := s.conc.meterEnd count }) ∧
    (∀ (src busy v : Nat) (c : Conc), src ≤ 2 → busy < 2 ^ 16 → v < 2 ^ 16 → s.conc.admits src O.gateControl O.gateControl.bytes
      v → s.conc.asked src = c → (∀ b, b < 12 → bitAt (O.gateControl.taken O.gateControl.bytes v) b = true → c.gated b = false →
      c.gateOwner b = none) → ∃ d, c.writeGates busy (O.gateControl.taken O.gateControl.bytes v) = .ok d ∧ exec (.clockGateWrite
      .conc src busy v) s = .next { s with
        conc := d.noteChange O.gateControl }) ∧
    (∀ (side busy v : Nat), side ≤ 1 → busy < 2 ^ 16 → v < 2 ^ 16 → s.fe.admits side O.feGateControl O.feGateControl.bytes v →
      bitAt (O.feGateControl.taken O.feGateControl.bytes v) 0 = false ∨ (s.fe.probeOn 0 = false ∧ s.fe.probeOn 1 = false) → ∃ d,
      s.fe.writeGates busy (O.feGateControl.taken O.feGateControl.bytes v) = .ok d ∧ exec (.clockGateWrite .fe side busy v) s =
      .next { s with
        fe := d }) ∧
    (∀ (b : Nat), b < 12 → s.conc.runs = true → exec (.gateForce .conc b) s = .next { s with conc := s.conc.forceGate b }) ∧
    (∀ (b : Nat), b < 12 → s.fe.up = true → exec (.gateForce .fe b) s = .next { s with fe := s.fe.forceGate b }) ∧
    (∀ (src : Nat) (c : Conc), src ≤ 2 → s.conc.admits src O.powerRequest O.powerRequest.bytes 1 → s.conc.asked src = c →
      c.pwr.state ≠ 2 → c.pwr.state ≠ 6 → c.pwr.state ≠ 5 ∨ c.pair.state ≠ 3 → ∃ d, c.powerRequest 1 = .ok d ∧ exec
      (.powerRequestAsleep src) s = .next { s with
        conc := d }) ∧
    (∀ (src : Nat) (c : Conc), src ≤ 2 → s.conc.admits src O.powerRequest O.powerRequest.bytes 2 → s.conc.asked src = c →
      c.pair.state = 1 ∨ c.pair.state = 2 ∨ c.pair.state = 4 ∨ c.pair.state = 7 → ∃ d, c.powerRequestCold = .ok d ∧ exec
      (.powerRequestColdStandby src) s = .next { s with
        conc := d }) ∧
    (∀ (src : Nat) (c : Conc), src ≤ 2 → s.conc.admits src O.powerRequest O.powerRequest.bytes 3 → s.conc.asked src = c →
      c.pwr.state ≠ 2 → c.pwr.state ≠ 6 → c.pwr.state ≠ 5 ∨ c.pair.state ≠ 3 → ∃ d, c.powerRequest 3 = .ok d ∧ exec
      (.powerRequestStandby src) s = .next { s with
        conc := d }) ∧
    (∀ (src : Nat) (c : Conc), src ≤ 2 → s.conc.admits src O.powerRequest O.powerRequest.bytes 4 → s.conc.asked src = c →
      c.pwr.state ≠ 2 → c.pwr.state ≠ 6 → c.pwr.state ≠ 5 ∨ c.pair.state ≠ 3 → ∃ d, c.powerRequest 4 = .ok d ∧ exec
      (.powerRequestObserve src) s = .next { s with
        conc := d }) ∧
    (s.conc.runs = true → exec .wakeAtAlarm s = .next { s with conc := s.conc.wakeAlarm }) ∧
    (s.conc.runs = true → exec .wakeLadderComplete s = .next { s with conc := s.conc.wakeDone.resume }) ∧
    (∀ (side : Nat), side < 2 → s.fe.admits side O.feModeRequest O.feModeRequest.bytes 1 → exec (.feModeRequestSleep side) s =
      .next { s with
        fe := s.fe.requestMode (O.feModeRequest.taken O.feModeRequest.bytes 1) }) ∧
    (∀ (side : Nat), side < 2 → s.fe.admits side O.feModeRequest O.feModeRequest.bytes 2 → exec (.feModeRequestStandby side) s =
      .next { s with
        fe := s.fe.requestMode (O.feModeRequest.taken O.feModeRequest.bytes 2) }) ∧
    (∀ (side : Nat), side < 2 → s.fe.admits side O.feModeRequest O.feModeRequest.bytes 3 → exec (.feModeRequestObserve side) s =
      .next { s with
        fe := s.fe.requestMode (O.feModeRequest.taken O.feModeRequest.bytes 3) }) ∧
    (s.fe.up = true → exec .feSleepPark s = .next { s with fe := s.fe.sleepPark }) ∧
    (s.fe.up = true → exec .feWakeComplete s = .next { s with fe := s.fe.wakeDone })

/-- The commands of fault accounting and of the pair complete, each with its own effect: self-tests, scrubbers, leases,
heartbeats, takeover and checkpoints. (Rules of the commands: R351, R352, R355, R362, R363, R364, R365, R366, R368, R370,
R374, R375, R377, R379, R381, R382, R383, R384, R385, R386, R387, R388, R389, R391.) -/
def Obligations.FaultAndPairCommandsComplete : Prop :=
  ∀ s : State,
    (s.conc.runs = true → exec (.faultDecrement .conc) s = .next { s with conc := s.conc.faultDecrement }) ∧
    (s.fe.up = true → exec (.faultDecrement .fe) s = .next { s with fe := s.fe.faultDecrement }) ∧
    (∀ (kind num : Nat), kind < 2 ^ 8 → num < 2 ^ 16 → s.conc.runs = true → exec (.resourceSelfTestStart .conc kind num) s =
      .next { s with
        conc := s.conc.selfTestStart kind num }) ∧
    (∀ (kind num : Nat), kind < 2 ^ 8 → num < 2 ^ 16 → s.fe.up = true → exec (.resourceSelfTestStart .fe kind num) s = .next { s
                                                                                                                               with
        fe := s.fe.selfTestStart kind num }) ∧
    (∀ (kind num : Nat) (passed : Bool), kind < 2 ^ 8 → num < 2 ^ 16 → s.conc.runs = true → exec (.resourceSelfTestComplete
      .conc kind num passed) s = .next { s with
        conc := s.conc.testEnds kind num passed }) ∧
    (∀ (kind num : Nat) (passed : Bool), kind < 2 ^ 8 → num < 2 ^ 16 → s.fe.up = true → exec (.resourceSelfTestComplete .fe kind
      num passed) s = .next { s with
        fe := s.fe.selfTestComplete kind num passed }) ∧
    (∀ (src : Nat) (c : Conc), src ≤ 2 → s.conc.admits src O.annealRun O.annealRun.bytes 1 → s.conc.asked src = c → c.pwr.state
      = 3 → ∃ d, c.annealRun (O.annealRun.taken O.annealRun.bytes 1) = .ok d ∧ exec (.annealRun src) s = .next { s with
        conc := d }) ∧
    (∀ (failing : List (Nat × Nat)), s.conc.ringUp = true → exec (.annealPassComplete failing) s = .next { s with
        conc := s.conc.annealDone failing }) ∧
    (s.conc.ringUp = true → exec .annealBudgetExpiry s = .next { s with conc := s.conc.annealOver }) ∧
    (∀ (side : Nat), side < 2 → s.fe.admits side O.feAnnealRun O.feAnnealRun.bytes 1 → s.fe.sys.mode = 2 → ∃ d, s.fe.annealRun =
      .ok d ∧ exec (.feAnnealRun side) s = .next { s with
        fe := d }) ∧
    (∀ (failing : List (Nat × Nat)), s.fe.up = true → exec (.feAnnealComplete failing) s = .next { s with
        fe := s.fe.annealComplete failing }) ∧
    (∀ (busy : Bool) (k data check : Nat), k < 8 → check < 2 ^ 8 → s.conc.ringUp = true → exec (.hbmScrubLine busy k data check)
      s = .next { s with
        conc := s.conc.hbmScrub busy k data check }) ∧
    (∀ (data check : Nat), check < 2 ^ 8 → s.conc.ringUp = true → exec (.sramScrubWord data check) s = .next { s with
        conc := s.conc.sramScrub data check }) ∧
    (∀ (n : Nat) (busy : Bool), s.conc.ringUp = true → exec (.scrubLineRetry n busy) s = .next { s with
        conc := s.conc.scrubRetry n busy }) ∧
    (∀ (corrected majority : Nat) (lost : List (Nat × Nat)), s.fe.up = true → exec (.feConfigScrub corrected majority lost) s =
      .next { s with
        fe := s.fe.configScrub corrected majority lost }) ∧
    (∀ (src v : Nat), src ≤ 2 → v < 2 ^ 32 → s.conc.admits src O.faultLogAck O.faultLogAck.bytes v → exec (.faultLogAck src v) s
      = .next { s with
        conc := (s.conc.asked src).faultLogAck (O.faultLogAck.taken O.faultLogAck.bytes v) }) ∧
    (∀ (side v : Nat), side < 2 → s.fe.admits side O.feRetiredRestore O.feRetiredRestore.bytes v → exec (.feRetiredRestoreWrite
      side v) s = .next { s with
        fe := s.fe.retiredRestore (O.feRetiredRestore.taken O.feRetiredRestore.bytes v) }) ∧
    (s.fe.up = true → exec .leaseExpiry s = .next { s with fe := s.fe.lapse }) ∧
    (∀ (p : Nat), p < 48 → s.conc.ringUp = true → exec (.leaseRenewSend p) s = .next { s with conc := s.conc.renewSend p }) ∧
    (∀ (p : Nat), p < 48 → s.conc.ringUp = true → exec (.leaseClaimSend p) s = .next { s with conc := s.conc.claimSend p }) ∧
    (s.conc.ringUp = true → exec .localLeaseExpiry s = .next { s with conc := s.conc.localExpiries }) ∧
    (s.conc.up = true → exec .lockstepFailure s = .next { s with conc := s.conc.lockstepFailure }) ∧
    (s.conc.up = true → exec .failedHeartbeatEnd s = .next { s with conc := s.conc.failedHeartbeatEnd }) ∧
    (s.conc.ringUp = true → exec .heartbeatSend s = .next { s with conc := s.conc.heartbeatSend }) ∧
    (∀ (n : Nat) (w : Word) (other : Nat), n < 2 → opcodeIs 0x50 w = true → s.conc.ringUp = true → exec (.heartbeat n w other) s
      = .next { s with
        conc := (s.conc.take (lanePeer n) [w]).heartbeatIn w other }) ∧
    (∀ (n : Nat) (w : Word), n < 2 → opcodeIs 0x51 w = true → s.conc.ringUp = true → exec (.heartbeatTime n w) s = .next { s
                                                                                                                           with
        conc := (s.conc.take (lanePeer n) [w]).heartbeatTime w }) ∧
    (s.conc.ringUp = true → exec .heartbeatLoss s = .next { s with conc := s.conc.heartbeatLoss }) ∧
    (∀ (n : Nat) (w : Word), n < 2 → opcodeIs 0x52 w = true → s.conc.ringUp = true → exec (.relinquish n w) s = .next { s with
        conc := (s.conc.take (lanePeer n) [w]).relinquishReceived }) ∧
    (∀ (n : Nat) (w : Word), n < 2 → opcodeIs 0x53 w = true → s.conc.ringUp = true → exec (.takeoverRequest n w) s = .next { s
                                                                                                                             with
        conc := (s.conc.take (lanePeer n) [w]).takeoverRequest }) ∧
    (s.conc.ringUp = true → exec .takeoverComplete s = .next { s with conc := s.conc.takeoverComplete }) ∧
    (s.conc.ringUp = true → exec .takeoverClaimTimeout s = .next { s with conc := s.conc.takeoverClaimTimeout }) ∧
    (s.conc.ringUp = true → exec .checkpointPush s = .next { s with conc := s.conc.checkpointPush }) ∧
    (∀ (k : Checkpoint) (version : Bool), s.conc.ringUp = true → exec (.checkpointReceive k version) s = .next { s with
        conc := s.conc.checkpointIn k version }) ∧
    (∀ (len v : Nat) (c : Conc), s.conc.admits 2 O.checkpointImage len v → s.conc.asked 2 = c → c.gated 11 = false →
      c.flash.images.foldl (fun n p => n + p.1) 0 + len ≤ 25165824 → ∃ d, c.writeImage len (O.checkpointImage.taken len v) = .ok
      d ∧ exec (.checkpointImageReceive len v) s = .next { s with
        conc := d }) ∧
    (∀ (src : Nat) (c : Conc), src ≤ 2 → s.conc.admits src O.partnerCommand O.partnerCommand.bytes 1 → s.conc.asked src = c →
      c.pair.state = 1 → ∃ d, c.partnerRelinquish = .ok d ∧ exec (.partnerRelinquish src) s = .next { s with
        conc := d }) ∧
    (∀ (src : Nat) (c : Conc), src ≤ 2 → s.conc.admits src O.partnerCommand O.partnerCommand.bytes 2 → s.conc.asked src = c →
      c.pair.state = 2 → ∃ d, c.partnerRequest = .ok d ∧ exec (.partnerRequestTakeover src) s = .next { s with
        conc := d }) ∧
    (∀ (src : Nat) (c : Conc), src ≤ 2 → s.conc.admits src O.partnerCommand O.partnerCommand.bytes 3 → s.conc.asked src = c →
      c.pair.state = 2 → ∃ d, c.partnerForce = .ok d ∧ exec (.partnerForceTakeover src) s = .next { s with
        conc := d }) ∧
    (s.conc.ringUp = true → exec .roleDecision s = .next { s with conc := s.conc.roleDecided }) ∧
    (∀ (pass : Bool), s.conc.ringUp = true → exec (.standbySelfTestStep pass) s = .next { s with
        conc := s.conc.selfTestStep pass })

/-- The commands of reset, debug and security complete, each with its own effect: supply, RST_N, watchdogs, ladders, temperatures,
probes, TAP and DMI, owner keys, firmware, attestation. (Rules of the commands: R398, R399, R403, R404, R405, R460, R461,
R464, R465, R466, R467, R468, R469, R470, R472, R482, R490, R495, R500, R501, R502.) -/
def Obligations.ResetDebugAndSecurityCommandsComplete : Prop :=
  ∀ s : State,
    (exec (.brownOut .conc) s = .next { s with conc := s.conc.brownOut }) ∧
    (exec (.brownOut .fe) s = .next { s with fe := s.fe.brownOut }) ∧
    (exec (.supplyRelease .conc) s = .next { s with conc := s.conc.supplyRelease }) ∧
    (exec (.supplyRelease .fe) s = .next { s with fe := s.fe.supplyRelease }) ∧
    (∀ (us : Nat), exec (.rstNAssert .conc us) s = .next { s with conc := s.conc.rstAssert us }) ∧
    (∀ (us : Nat), exec (.rstNAssert .fe us) s = .next { s with fe := s.fe.rstAssert us }) ∧
    (exec (.rstNRelease .conc) s = .next { s with conc := s.conc.rstRelease }) ∧
    (exec (.rstNRelease .fe) s = .next { s with fe := s.fe.rstRelease }) ∧
    (exec (.rstNStuck .conc) s = .next { s with conc := s.conc.rstStuck }) ∧
    (exec (.rstNStuck .fe) s = .next { s with fe := s.fe.rstStuck }) ∧
    (∀ (src v : Nat), src ≤ 2 → v < 2 ^ 32 → s.conc.admits src O.resetCommand O.resetCommand.bytes v → exec (.resetCommand src
      v) s = .next { s with
        conc := (s.conc.asked src).resetCommand }) ∧
    (∀ (side v : Nat), side < 2 → v < 2 ^ 32 → s.fe.admits side O.feResetCommand O.feResetCommand.bytes v → exec
      (.feResetCommand side v) s = .next { s with
        fe := s.fe.withSys fun y => { y with resetDue := some (s.fe.tick + msTicks) } }) ∧
    (exec (.softwareResetDue .conc) s = .next { s with conc := s.conc.resetDue }) ∧
    (exec (.softwareResetDue .fe) s = .next { s with fe := s.fe.resetDue }) ∧
    (s.conc.ringUp = true → exec .watchdogRestart s = .next { s with conc := s.conc.watchdogRestart }) ∧
    (s.conc.runs = true → exec .watchdogExpiry s = .next { s with conc := s.conc.watchdogExpiry }) ∧
    (s.conc.up = true → exec .bootWatchdogExpiry s = .next { s with conc := s.conc.bootWatchdog }) ∧
    (∀ (pins : Nat) (cold : Bool) (failing : List (Nat × Nat)) (newerBad olderBad : Bool), pins < 2 ^ 8 → s.conc.up = true →
      exec (.bootLadder pins cold failing newerBad olderBad) s = .next { s with
        conc := s.conc.bootLadder pins cold failing newerBad olderBad }) ∧
    (s.conc.up = true → exec .warmupComplete s = .next { s with conc := s.conc.warmupDone }) ∧
    (s.conc.up = true → exec .warmupLimit s = .next { s with conc := s.conc.warmupLimit }) ∧
    (∀ (failing : List (Nat × Nat)), exec (.feBootLadder failing) s = .next { s with fe := s.fe.bootLadder failing }) ∧
    (∀ (milliC : Int), s.conc.up = true → exec (.dieOvertempWarning .conc milliC) s = .next { s with
        conc := s.conc.overTempWarning milliC }) ∧
    (∀ (milliC : Int), s.fe.up = true → exec (.dieOvertempWarning .fe milliC) s = .next { s with
        fe := s.fe.overTempWarning milliC }) ∧
    (∀ (milliC : Int), exec (.dieOvertempShutdown .conc milliC) s = .next { s with conc := s.conc.overTempShutdown milliC }) ∧
    (∀ (milliC : Int), exec (.dieOvertempShutdown .fe milliC) s = .next { s with fe := s.fe.overTempShutdown milliC }) ∧
    (exec (.rstNStuckRearm .conc) s = .next { s with conc := s.conc.rstRearm }) ∧
    (exec (.rstNStuckRearm .fe) s = .next { s with fe := s.fe.rstRearm }) ∧
    (∀ (milliC : Int), exec (.dieOvertempRecovery .conc milliC) s = .next { s with conc := s.conc.overTempRecovery milliC }) ∧
    (∀ (milliC : Int), exec (.dieOvertempRecovery .fe milliC) s = .next { s with fe := s.fe.overTempRecovery milliC }) ∧
    (exec .buckStop s = .next { s with fe := s.fe.buckStop }) ∧
    (exec .buckRestart s = .next { s with fe := s.fe.buckRestart }) ∧
    (∀ (src n v : Nat) (c : Conc), src ≤ 2 → n < 8 → v < 2 ^ 32 → s.conc.admits src O.probeSelect O.probeSelect.bytes (entrySet
      32 (s.conc.get O.probeSelect) n v) → s.conc.asked src = c → c.gated 7 = false → (∀ p, p < 8 → c.probeBad (entryGet 32
      (andBits (O.probeSelect.taken O.probeSelect.bytes (entrySet 32 (s.conc.get O.probeSelect) n v)) (rep 8 4 0x3FFFF)) p) =
      none) → (∀ p, p < 8 → bitAt (entryGet 32 (andBits (O.probeSelect.taken O.probeSelect.bytes (entrySet 32 (s.conc.get
      O.probeSelect) n v)) (rep 8 4 0x3FFFF)) p) 16 = true → c.probeOn p = true ∨ c.ballOwner p = none) → ∃ d, c.writeProbes
      (O.probeSelect.taken O.probeSelect.bytes (entrySet 32 (s.conc.get O.probeSelect) n v)) = .ok d ∧ exec (.probeSelectWrite
      .conc src n v) s = .next { s with
        conc := d }) ∧
    (∀ (side n v : Nat), side ≤ 1 → n < O.feProbe.count → v < 2 ^ 32 → s.fe.admits side O.feProbe O.feProbe.bytes v → bitAt
      s.fe.sys.gated 0 = false → feProbeBad ((O.feProbe.taken O.feProbe.bytes v) % 2 ^ 18) = false → ∃ d, s.fe.writeProbe n
      (O.feProbe.taken O.feProbe.bytes v) = .ok d ∧ exec (.probeSelectWrite .fe side n v) s = .next { s with
        fe := d }) ∧
    (∀ (code : Nat), exec (.tapInstructionUpdate .conc code) s = .next { s with conc := s.conc.tapInstruction code }) ∧
    (∀ (code : Nat), exec (.tapInstructionUpdate .fe code) s = .next { s with fe := s.fe.tapInstruction code }) ∧
    (∀ (v : Nat), s.conc.up = true → exec (.tapTokenUpdate v) s = .next { s with
        conc := s.conc.tapToken (toBytes O.debugToken.bytes v) }) ∧
    (∀ (op addr v : Nat), op < 4 → addr < 2 ^ 8 → v < 2 ^ 32 → s.conc.up = true → exec (.dmiAccess op addr v) s = .next { s with
        conc := s.conc.dmi op addr v }) ∧
    (∀ (src hash : Nat) (cut : Bool) (c : Conc), src ≤ 2 → s.conc.admits src O.ownerKeyHash O.ownerKeyHash.bytes hash →
      s.conc.asked src = c → c.sec.owner ≠ 1 → hash ≠ 0 → hash ≠ 2 ^ 512 - 1 → c.sec.owner ≠ 2 ∨ hash = c.sec.ownerHash → ∃ d,
      c.enrolOwner hash cut = .ok d ∧ exec (.ownerKeyEnrol src hash cut) s = .next { s with
        conc := d }) ∧
    (∀ (src v : Nat) (c : Conc), src ≤ 2 → v < 2 ^ 8 → s.conc.admits src O.firmwareFloorCommit O.firmwareFloorCommit.bytes v →
      s.conc.asked src = c → v = 1 → c.sec.running ≠ 0xFF → c.sec.fwFloor < (if c.sec.running = 0 then c.sec.slotA.version else
      c.sec.slotB.version) → (if c.sec.running = 0 then c.sec.slotA.version else c.sec.slotB.version) ≤ 40 → ∃ d,
      c.commitFirmwareFloor (O.firmwareFloorCommit.taken O.firmwareFloorCommit.bytes v) = .ok d ∧ exec (.firmwareFloorCommit src
      v) s = .next { s with
        conc := d }) ∧
    (∀ (src v : Nat) (c : Conc), src ≤ 2 → v < 2 ^ 8 → s.conc.admits src O.ownerFloorCommit O.ownerFloorCommit.bytes v →
      s.conc.asked src = c → c.sec.ownerFloor < v → v ≤ 24 → ∃ d, c.commitOwnerFloor (O.ownerFloorCommit.taken
      O.ownerFloorCommit.bytes v) = .ok d ∧ exec (.ownerFloorCommit src v) s = .next { s with
        conc := d }) ∧
    (∀ (src len v : Nat) (env : Envelope) (c : Conc), src ≤ 2 → s.conc.admits src O.firmwareImageData len v → (s.conc.asked
      src).mayLock src = true → s.conc.asked src = c → c.gated 9 = false → c.gated 11 = false → c.firmwareSegment.judgeEnvelope
      1 true false (toBytes len (O.firmwareImageData.taken len v)) = .ok env → ∃ d, c.firmwareVerify (toBytes len
      (O.firmwareImageData.taken len v)) = (.ok d, d) ∧ exec (.firmwareImageVerify src len v) s = .next { s with
        conc := d }) ∧
    (∀ (src v : Nat) (c : Conc), src ≤ 2 → v < 2 ^ 8 → s.conc.admits src O.firmwareActivate O.firmwareActivate.bytes v →
      s.conc.asked src = c → v = 1 → c.sec.update = 3 → c.gated 11 = false → ∃ d, c.firmwareActivate (O.firmwareActivate.taken
      O.firmwareActivate.bytes v) = .ok d ∧ exec (.firmwareActivate src v) s = .next { s with
        conc := d }) ∧
    (∀ (src v : Nat) (c : Conc), src ≤ 2 → v < 2 ^ 8 → s.conc.admits src O.attestRun O.attestRun.bytes v → s.conc.asked src = c
      → v = 1 → c.gated 9 = false → ∃ d, c.attestRun (O.attestRun.taken O.attestRun.bytes v) = .ok d ∧ exec (.attestRun src v) s
      = .next { s with
        conc := d }) ∧
    (s.conc.ringUp = true → exec .attestComplete s = .next { s with conc := s.conc.attestDone }) ∧
    (∀ (src v : Nat) (env : Envelope) (c : Conc), src ≤ 2 → s.conc.admits src O.debugToken O.debugToken.bytes v → s.conc.asked
      src = c → c.gated 9 = false → c.judgeEnvelope 4 true true (toBytes O.debugToken.bytes (O.debugToken.taken
      O.debugToken.bytes v)) = .ok env → env.payload.length = 16 → ofBytes (env.payload.take 8) = c.sec.challenge → env.binding
      = c.sec.serial → env.notAfter ≠ 0 → env.byOwner = false ∨ bitAt ((env.payload[8]?).getD 0) 1 = false → ∃ d, c.debugToken
      (toBytes O.debugToken.bytes (O.debugToken.taken O.debugToken.bytes v)) = (.ok d, d) ∧ exec (.debugToken src v) s = .next {
      s with
        conc := d }) ∧
    (∀ (src v : Nat), src ≤ 2 → v < 2 ^ 8 → s.conc.admits src O.debugLock O.debugLock.bytes v → exec (.debugLock src v) s =
      .next { s with
        conc := (s.conc.asked src).relock (O.debugLock.taken O.debugLock.bytes v) })

/-- The commands of the converter, the loops, the light and the Safety Net complete, each with its own effect: conversions, loops,
tunes, LED drive, flashes and the interlock. (Rules of the commands: R411, R419, R420, R421, R422, R427, R431, R434, R435,
R439, R441, R442, R444, R445, R448, R449, R450, R451, R452, R453, R454, R455, R459.) -/
def Obligations.AnalogAndLightCommandsComplete : Prop :=
  ∀ s : State,
    (∀ (src : Nat) (c : Conc), src ≤ 2 → s.conc.admits src O.adcStart O.adcStart.bytes 1 → s.conc.asked src = c → (c.setup
      (c.get O.adcSelect)).kind ≠ 0 → c.setupOwner (c.get O.adcSelect) = none → c.adc.hostBusy = false → ∃ d, c.adcStart
      (O.adcStart.taken O.adcStart.bytes 1) = .ok d ∧ exec (.adcStart src) s = .next { s with
        conc := d }) ∧
    (∀ (src : Nat), src ≤ 2 → s.conc.shows src O.adcData → exec (.adcDataRead src) s = .next { s with
        conc := (s.conc.asked src).adcDataRead }) ∧
    (∀ (l : Nat) (input : Bool), l < 16 → s.conc.analogUp = true → exec (.loopConversionRequest l input) s = .next { s with
        conc := s.conc.loopRequest l input }) ∧
    (∀ (code : Int) (rails : Nat), s.conc.analogUp = true → exec (.adcConversionComplete code rails) s = .next { s with
        conc := s.conc.adcComplete code rails }) ∧
    (s.conc.analogUp = true → exec .adcCalibration s = .next { s with conc := s.conc.adcCalibration }) ∧
    (∀ (src : Nat), src ≤ 2 → s.conc.shows src O.maxLoopDelay → exec (.maxLoopDelayRead src) s = .next { s with
        conc := (s.conc.asked src).withAdc fun a => { a with maxDelay := 0 } }) ∧
    (∀ (k : Nat) (lost : Bool), k < 2 → s.conc.analogUp = true → exec (.excitationComplianceChange k lost) s = .next { s with
        conc := s.conc.excitationCompliance k lost }) ∧
    (∀ (l : Nat), l < 16 → s.conc.analogUp = true → exec (.loopSample l) s = .next { s with conc := s.conc.loopSample l }) ∧
    (∀ (src l : Nat) (c : Conc), src ≤ 2 → l < 16 → s.conc.admits src O.loopCommand O.loopCommand.bytes (16 + l) → s.conc.asked
      src = c → ∃ d, c.loopCommand (O.loopCommand.taken O.loopCommand.bytes (16 + l)) = .ok d ∧ exec (.loopClearFault src l) s =
      .next { s with
        conc := d }) ∧
    (∀ (src l : Nat) (c : Conc), src ≤ 2 → l < 16 → s.conc.admits src O.loopCommand O.loopCommand.bytes (32 + l) → s.conc.asked
      src = c → 12 ≤ l → (c.loop l).st = 1 → (c.loop l).restart = false → (c.loop l).r = (c.target l : Rat) → (c.loop l).u +
      (bits (c.tuneCfg l) 31 0 : Nat) ≤ (c.outLimits l).2 → (c.outLimits l).1 ≤ (c.loop l).u - (bits (c.tuneCfg l) 31 0 : Nat) →
      4 ≤ bits (c.tuneCfg l) 71 64 → 60 ≤ bits (c.tuneCfg l) 95 80 → ∃ d, c.loopCommand (O.loopCommand.taken O.loopCommand.bytes
      (32 + l)) = .ok d ∧ exec (.loopTuneStart src l) s = .next { s with
        conc := d }) ∧
    (∀ (src l : Nat) (c : Conc), src ≤ 2 → l < 16 → s.conc.admits src O.loopCommand O.loopCommand.bytes (48 + l) → s.conc.asked
      src = c → 12 ≤ l → (c.tune l).status = 1 → ∃ d, c.loopCommand (O.loopCommand.taken O.loopCommand.bytes (48 + l)) = .ok d ∧
      exec (.loopTuneAccept src l) s = .next { s with
        conc := d }) ∧
    (∀ (src l : Nat) (c : Conc), src ≤ 2 → l < 16 → s.conc.admits src O.loopCommand O.loopCommand.bytes (64 + l) → s.conc.asked
      src = c → 12 ≤ l → (c.loop l).tune.isSome = true → ∃ d, c.loopCommand (O.loopCommand.taken O.loopCommand.bytes (64 + l)) =
      .ok d ∧ exec (.loopTuneAbort src l) s = .next { s with
        conc := d }) ∧
    (s.conc.analogUp = true → exec .tuneTimeout s = .next { s with conc := s.conc.tunesTimeOut }) ∧
    (∀ (src v : Nat) (c : Conc), src ≤ 2 → s.conc.admits src O.loopSetpoint O.loopSetpoint.bytes v → s.conc.asked src = c → (∀
      m, m < 16 → int32At (O.loopSetpoint.taken O.loopSetpoint.bytes v) (2 * m) ≠ int32At (c.get O.loopSetpoint) (2 * m) →
      limitOf (c.get O.loopLimits) m 0 ≤ int32At (O.loopSetpoint.taken O.loopSetpoint.bytes v) (2 * m) ∧ int32At
      (O.loopSetpoint.taken O.loopSetpoint.bytes v) (2 * m) ≤ limitOf (c.get O.loopLimits) m 1) → ∃ d, c.writeSetpoints
      (O.loopSetpoint.taken O.loopSetpoint.bytes v) = .ok d ∧ exec (.loopSetpointWrite src v) s = .next { s with
        conc := d.noteChange O.loopSetpoint }) ∧
    (∀ (src v : Nat), src ≤ 2 → s.conc.admits src O.loopGains O.loopGains.bytes v → exec (.loopGainsWrite src v) s = .next { s
                                                                                                                             with
        conc := ((s.conc.asked src).writeGains (O.loopGains.taken O.loopGains.bytes v)).noteChange O.loopGains }) ∧
    (∀ (src : Nat), src ≤ 2 → s.conc.shows src O.loopStatus → exec (.loopStatusRead src) s = .next { s with
        conc := (s.conc.asked src).loopStatusRead }) ∧
    (∀ (src v : Nat) (c : Conc), src ≤ 2 → v < 2 ^ 8 → s.conc.admits src O.flashFire O.flashFire.bytes v → s.conc.asked src = c
      → v = 1 → c.get O.flashPeriod = 0 → ∃ d, c.flashFire (O.flashFire.taken O.flashFire.bytes v) = .ok d ∧ exec (.flashFire
      src v) s = .next { s with
        conc := d }) ∧
    (s.conc.baseUp = true → exec .flashStart s = .next { s with conc := s.conc.flashStart }) ∧
    (s.conc.baseUp = true → exec .flashEnd s = .next { s with conc := s.conc.flashEnd }) ∧
    (∀ (n : Nat), n < 16 → s.conc.runs = true → exec (.ledComplianceLoss n) s = .next { s with conc := s.conc.ledLoss n }) ∧
    (∀ (n : Nat), n < 16 → s.conc.runs = true → exec (.ledComplianceRestored n) s = .next { s with
        conc := s.conc.ledRestored n }) ∧
    (∀ (src : Nat) (c : Conc), src ≤ 2 → s.conc.admits src O.feedbackRun O.feedbackRun.bytes 1 → s.conc.asked src = c → c.gated
      6 = false → c.setupOwner (c.get O.feedbackSetup) = none → c.light.run.isSome = false → ledMode (c.get O.ledChannel) (c.get
      O.feedbackLed) = 1 → (c.setup (c.get O.feedbackSetup)).kind ≠ 0 → ∃ d, c.feedbackRun (O.feedbackRun.taken
      O.feedbackRun.bytes 1) = .ok d ∧ exec (.feedbackRunStart src) s = .next { s with
        conc := d }) ∧
    (∀ (src : Nat) (c : Conc), src ≤ 2 → s.conc.admits src O.feedbackRun O.feedbackRun.bytes 0 → s.conc.asked src = c → c.gated
      6 = false → ∃ d, c.feedbackRun (O.feedbackRun.taken O.feedbackRun.bytes 0) = .ok d ∧ exec (.feedbackRunAbort src) s =
      .next { s with
        conc := d }) ∧
    (∀ (codes : List Int), s.conc.baseUp = true → exec (.feedbackStep codes) s = .next { s with
        conc := s.conc.feedbackStep codes }) ∧
    (∀ (n level : Nat), n < 4 → s.conc.safetyUp = true → exec (.safetyInputChange n level) s = .next { s with
        conc := s.conc.safetyInput n level }) ∧
    (s.conc.safetyUp = true → exec .releaseDelayEnd s = .next { s with conc := s.conc.releaseDelayEnd }) ∧
    (∀ (src v : Nat), src ≤ 2 → v < 2 ^ 8 → s.conc.admits src O.biasRequest O.biasRequest.bytes v → exec (.biasRequestWrite src
      v) s = .next { s with
        conc := (s.conc.asked src).biasRequest (O.biasRequest.taken O.biasRequest.bytes v) }) ∧
    (∀ (k : Nat) (high : Bool), k < 2 → s.conc.safetyUp = true → exec (.relayFeedbackCheck k high) s = .next { s with
        conc := s.conc.relayFeedback k high }) ∧
    (∀ (k : Nat), k < 2 → s.conc.safetyUp = true → exec (.testPulseStart k) s = .next { s with
        conc := s.conc.testPulseStart k }) ∧
    (∀ (off on : Bool), s.conc.safetyUp = true → exec (.testPulseEnd off on) s = .next { s with
        conc := s.conc.testPulseEnd off on }) ∧
    (∀ (rose fell : Bool), s.conc.safetyUp = true → exec (.stimulusTest rose fell) s = .next { s with
        conc := s.conc.stimulusTest rose fell }) ∧
    (∀ (src : Nat) (c : Conc), src ≤ 2 → s.conc.admits src O.safetyCommand O.safetyCommand.bytes 1 → s.conc.asked src = c →
      c.safety.st = 3 → ∃ d, c.safetyClear src = .ok d ∧ exec (.safetyClearFault src) s = .next { s with
        conc := d }) ∧
    (∀ (src : Nat) (rose fell : Bool) (c : Conc), src ≤ 2 → s.conc.admits src O.safetyCommand O.safetyCommand.bytes 2 →
      s.conc.asked src = c → c.safety.bundle.isSome = true → ∃ d, c.safetyRunStimulus src rose fell = .ok d ∧ exec
      (.safetyRunStimulus src rose fell) s = .next { s with
        conc := d }) ∧
    (∀ (src v : Nat) (env : Envelope) (c : Conc), src ≤ 2 → s.conc.admits src O.safetyBundleData O.safetyBundleData.bytes v →
      s.conc.asked src = c → c.gated 9 = false → c.gated 11 = false → c.judgeEnvelope 3 false true (toBytes
      O.safetyBundleData.bytes (O.safetyBundleData.taken O.safetyBundleData.bytes v)) = .ok env → env.payload.length = 32 →
      (SafetyBundle.mk (ofBytes env.payload) env.measurement).ok = true → c.probeHolds (SafetyBundle.mk (ofBytes env.payload)
      env.measurement).led = false → ∃ d, c.safetyBundle src (toBytes O.safetyBundleData.bytes (O.safetyBundleData.taken
      O.safetyBundleData.bytes v)) = (.ok d, d) ∧ exec (.safetyBundleWrite src v) s = .next { s with
        conc := d })
end

