-- ==== Sys2Proof/Laws/State.lean ====
section
/-! SUPPORT. What the elementary updates of the state, of the concentrator and of the front-end write and what they leave: one
lemma per field per update, so that no proof unfolds a record update. -/

namespace Sys2Proof.Laws

open Sys2Proof.Machine

/-! ## The state -/

@[simp] theorem state_onFeRaw_fe (s : State) (g : Fe → Fe) : (s.onFeRaw g).fe = g s.fe := rfl
@[simp] theorem state_onFeRaw_conc (s : State) (g : Fe → Fe) : (s.onFeRaw g).conc = s.conc := rfl
@[simp] theorem state_onFeRaw_pending (s : State) (g : Fe → Fe) : (s.onFeRaw g).pending = s.pending := rfl
@[simp] theorem state_onConcRaw_fe (s : State) (g : Conc → Conc) : (s.onConcRaw g).fe = s.fe := rfl
@[simp] theorem state_onConcRaw_conc (s : State) (g : Conc → Conc) : (s.onConcRaw g).conc = g s.conc := rfl
@[simp] theorem state_onConcRaw_pending (s : State) (g : Conc → Conc) : (s.onConcRaw g).pending = s.pending := rfl
@[simp] theorem state_tick_fe (s : State) : (s.tick).fe = s.fe.tickOn := by simp only [State.tick]
@[simp] theorem state_tick_conc (s : State) : (s.tick).conc = s.conc.tickOn := by simp only [State.tick]
@[simp] theorem state_tick_pending (s : State) : (s.tick).pending = s.pending := by simp only [State.tick]

/-! ## The concentrator -/

@[simp] theorem conc_withTime_tick (c : Conc) (g : TimeBase → TimeBase) : (c.withTime g).tick = c.tick := rfl
@[simp] theorem conc_withTime_now (c : Conc) (g : TimeBase → TimeBase) : (c.withTime g).now = c.now := rfl
@[simp] theorem conc_withTime_baseTicks (c : Conc) (g : TimeBase → TimeBase) : (c.withTime g).baseTicks = c.baseTicks := rfl
@[simp] theorem conc_withTime_od (c : Conc) (g : TimeBase → TimeBase) : (c.withTime g).od = c.od := rfl
@[simp] theorem conc_withTime_free (c : Conc) (g : TimeBase → TimeBase) : (c.withTime g).free = c.free := rfl
@[simp] theorem conc_withTime_lanes (c : Conc) (g : TimeBase → TimeBase) : (c.withTime g).lanes = c.lanes := rfl
@[simp] theorem conc_withTime_quads (c : Conc) (g : TimeBase → TimeBase) : (c.withTime g).quads = c.quads := rfl
@[simp] theorem conc_withTime_links (c : Conc) (g : TimeBase → TimeBase) : (c.withTime g).links = c.links := rfl
@[simp] theorem conc_withTime_time (c : Conc) (g : TimeBase → TimeBase) : (c.withTime g).time = g c.time := rfl
@[simp] theorem conc_withTime_dict (c : Conc) (g : TimeBase → TimeBase) : (c.withTime g).dict = c.dict := rfl
@[simp] theorem conc_withTime_pwr (c : Conc) (g : TimeBase → TimeBase) : (c.withTime g).pwr = c.pwr := rfl
@[simp] theorem conc_withTime_faults (c : Conc) (g : TimeBase → TimeBase) : (c.withTime g).faults = c.faults := rfl
@[simp] theorem conc_withTime_leases (c : Conc) (g : TimeBase → TimeBase) : (c.withTime g).leases = c.leases := rfl
@[simp] theorem conc_withTime_pair (c : Conc) (g : TimeBase → TimeBase) : (c.withTime g).pair = c.pair := rfl
@[simp] theorem conc_withTime_boot (c : Conc) (g : TimeBase → TimeBase) : (c.withTime g).boot = c.boot := rfl
@[simp] theorem conc_withTime_tap (c : Conc) (g : TimeBase → TimeBase) : (c.withTime g).tap = c.tap := rfl
@[simp] theorem conc_withTime_flash (c : Conc) (g : TimeBase → TimeBase) : (c.withTime g).flash = c.flash := rfl
@[simp] theorem conc_withTime_gather (c : Conc) (g : TimeBase → TimeBase) : (c.withTime g).gather = c.gather := rfl
@[simp] theorem conc_withTime_caro (c : Conc) (g : TimeBase → TimeBase) : (c.withTime g).caro = c.caro := rfl
@[simp] theorem conc_withTime_egr (c : Conc) (g : TimeBase → TimeBase) : (c.withTime g).egr = c.egr := rfl
@[simp] theorem conc_withTime_mem (c : Conc) (g : TimeBase → TimeBase) : (c.withTime g).mem = c.mem := rfl
@[simp] theorem conc_withTime_mov (c : Conc) (g : TimeBase → TimeBase) : (c.withTime g).mov = c.mov := rfl
@[simp] theorem conc_withTime_eng (c : Conc) (g : TimeBase → TimeBase) : (c.withTime g).eng = c.eng := rfl
@[simp] theorem conc_withTime_sec (c : Conc) (g : TimeBase → TimeBase) : (c.withTime g).sec = c.sec := rfl
@[simp] theorem conc_withTime_adc (c : Conc) (g : TimeBase → TimeBase) : (c.withTime g).adc = c.adc := rfl
@[simp] theorem conc_withTime_ctl (c : Conc) (g : TimeBase → TimeBase) : (c.withTime g).ctl = c.ctl := rfl
@[simp] theorem conc_withTime_light (c : Conc) (g : TimeBase → TimeBase) : (c.withTime g).light = c.light := rfl
@[simp] theorem conc_withTime_safety (c : Conc) (g : TimeBase → TimeBase) : (c.withTime g).safety = c.safety := rfl

@[simp] theorem conc_withDict_tick (c : Conc) (g : Dict → Dict) : (c.withDict g).tick = c.tick := rfl
@[simp] theorem conc_withDict_now (c : Conc) (g : Dict → Dict) : (c.withDict g).now = c.now := rfl
@[simp] theorem conc_withDict_baseTicks (c : Conc) (g : Dict → Dict) : (c.withDict g).baseTicks = c.baseTicks := rfl
@[simp] theorem conc_withDict_od (c : Conc) (g : Dict → Dict) : (c.withDict g).od = c.od := rfl
@[simp] theorem conc_withDict_free (c : Conc) (g : Dict → Dict) : (c.withDict g).free = c.free := rfl
@[simp] theorem conc_withDict_lanes (c : Conc) (g : Dict → Dict) : (c.withDict g).lanes = c.lanes := rfl
@[simp] theorem conc_withDict_quads (c : Conc) (g : Dict → Dict) : (c.withDict g).quads = c.quads := rfl
@[simp] theorem conc_withDict_links (c : Conc) (g : Dict → Dict) : (c.withDict g).links = c.links := rfl
@[simp] theorem conc_withDict_time (c : Conc) (g : Dict → Dict) : (c.withDict g).time = c.time := rfl
@[simp] theorem conc_withDict_dict (c : Conc) (g : Dict → Dict) : (c.withDict g).dict = g c.dict := rfl
@[simp] theorem conc_withDict_pwr (c : Conc) (g : Dict → Dict) : (c.withDict g).pwr = c.pwr := rfl
@[simp] theorem conc_withDict_faults (c : Conc) (g : Dict → Dict) : (c.withDict g).faults = c.faults := rfl
@[simp] theorem conc_withDict_leases (c : Conc) (g : Dict → Dict) : (c.withDict g).leases = c.leases := rfl
@[simp] theorem conc_withDict_pair (c : Conc) (g : Dict → Dict) : (c.withDict g).pair = c.pair := rfl
@[simp] theorem conc_withDict_boot (c : Conc) (g : Dict → Dict) : (c.withDict g).boot = c.boot := rfl
@[simp] theorem conc_withDict_tap (c : Conc) (g : Dict → Dict) : (c.withDict g).tap = c.tap := rfl
@[simp] theorem conc_withDict_flash (c : Conc) (g : Dict → Dict) : (c.withDict g).flash = c.flash := rfl
@[simp] theorem conc_withDict_gather (c : Conc) (g : Dict → Dict) : (c.withDict g).gather = c.gather := rfl
@[simp] theorem conc_withDict_caro (c : Conc) (g : Dict → Dict) : (c.withDict g).caro = c.caro := rfl
@[simp] theorem conc_withDict_egr (c : Conc) (g : Dict → Dict) : (c.withDict g).egr = c.egr := rfl
@[simp] theorem conc_withDict_mem (c : Conc) (g : Dict → Dict) : (c.withDict g).mem = c.mem := rfl
@[simp] theorem conc_withDict_mov (c : Conc) (g : Dict → Dict) : (c.withDict g).mov = c.mov := rfl
@[simp] theorem conc_withDict_eng (c : Conc) (g : Dict → Dict) : (c.withDict g).eng = c.eng := rfl
@[simp] theorem conc_withDict_sec (c : Conc) (g : Dict → Dict) : (c.withDict g).sec = c.sec := rfl
@[simp] theorem conc_withDict_adc (c : Conc) (g : Dict → Dict) : (c.withDict g).adc = c.adc := rfl
@[simp] theorem conc_withDict_ctl (c : Conc) (g : Dict → Dict) : (c.withDict g).ctl = c.ctl := rfl
@[simp] theorem conc_withDict_light (c : Conc) (g : Dict → Dict) : (c.withDict g).light = c.light := rfl
@[simp] theorem conc_withDict_safety (c : Conc) (g : Dict → Dict) : (c.withDict g).safety = c.safety := rfl

@[simp] theorem conc_withPwr_tick (c : Conc) (g : Power → Power) : (c.withPwr g).tick = c.tick := rfl
@[simp] theorem conc_withPwr_now (c : Conc) (g : Power → Power) : (c.withPwr g).now = c.now := rfl
@[simp] theorem conc_withPwr_baseTicks (c : Conc) (g : Power → Power) : (c.withPwr g).baseTicks = c.baseTicks := rfl
@[simp] theorem conc_withPwr_od (c : Conc) (g : Power → Power) : (c.withPwr g).od = c.od := rfl
@[simp] theorem conc_withPwr_free (c : Conc) (g : Power → Power) : (c.withPwr g).free = c.free := rfl
@[simp] theorem conc_withPwr_lanes (c : Conc) (g : Power → Power) : (c.withPwr g).lanes = c.lanes := rfl
@[simp] theorem conc_withPwr_quads (c : Conc) (g : Power → Power) : (c.withPwr g).quads = c.quads := rfl
@[simp] theorem conc_withPwr_links (c : Conc) (g : Power → Power) : (c.withPwr g).links = c.links := rfl
@[simp] theorem conc_withPwr_time (c : Conc) (g : Power → Power) : (c.withPwr g).time = c.time := rfl
@[simp] theorem conc_withPwr_dict (c : Conc) (g : Power → Power) : (c.withPwr g).dict = c.dict := rfl
@[simp] theorem conc_withPwr_pwr (c : Conc) (g : Power → Power) : (c.withPwr g).pwr = g c.pwr := rfl
@[simp] theorem conc_withPwr_faults (c : Conc) (g : Power → Power) : (c.withPwr g).faults = c.faults := rfl
@[simp] theorem conc_withPwr_leases (c : Conc) (g : Power → Power) : (c.withPwr g).leases = c.leases := rfl
@[simp] theorem conc_withPwr_pair (c : Conc) (g : Power → Power) : (c.withPwr g).pair = c.pair := rfl
@[simp] theorem conc_withPwr_boot (c : Conc) (g : Power → Power) : (c.withPwr g).boot = c.boot := rfl
@[simp] theorem conc_withPwr_tap (c : Conc) (g : Power → Power) : (c.withPwr g).tap = c.tap := rfl
@[simp] theorem conc_withPwr_flash (c : Conc) (g : Power → Power) : (c.withPwr g).flash = c.flash := rfl
@[simp] theorem conc_withPwr_gather (c : Conc) (g : Power → Power) : (c.withPwr g).gather = c.gather := rfl
@[simp] theorem conc_withPwr_caro (c : Conc) (g : Power → Power) : (c.withPwr g).caro = c.caro := rfl
@[simp] theorem conc_withPwr_egr (c : Conc) (g : Power → Power) : (c.withPwr g).egr = c.egr := rfl
@[simp] theorem conc_withPwr_mem (c : Conc) (g : Power → Power) : (c.withPwr g).mem = c.mem := rfl
@[simp] theorem conc_withPwr_mov (c : Conc) (g : Power → Power) : (c.withPwr g).mov = c.mov := rfl
@[simp] theorem conc_withPwr_eng (c : Conc) (g : Power → Power) : (c.withPwr g).eng = c.eng := rfl
@[simp] theorem conc_withPwr_sec (c : Conc) (g : Power → Power) : (c.withPwr g).sec = c.sec := rfl
@[simp] theorem conc_withPwr_adc (c : Conc) (g : Power → Power) : (c.withPwr g).adc = c.adc := rfl
@[simp] theorem conc_withPwr_ctl (c : Conc) (g : Power → Power) : (c.withPwr g).ctl = c.ctl := rfl
@[simp] theorem conc_withPwr_light (c : Conc) (g : Power → Power) : (c.withPwr g).light = c.light := rfl
@[simp] theorem conc_withPwr_safety (c : Conc) (g : Power → Power) : (c.withPwr g).safety = c.safety := rfl

@[simp] theorem conc_withFaults_tick (c : Conc) (g : Faults → Faults) : (c.withFaults g).tick = c.tick := rfl
@[simp] theorem conc_withFaults_now (c : Conc) (g : Faults → Faults) : (c.withFaults g).now = c.now := rfl
@[simp] theorem conc_withFaults_baseTicks (c : Conc) (g : Faults → Faults) : (c.withFaults g).baseTicks = c.baseTicks := rfl
@[simp] theorem conc_withFaults_od (c : Conc) (g : Faults → Faults) : (c.withFaults g).od = c.od := rfl
@[simp] theorem conc_withFaults_free (c : Conc) (g : Faults → Faults) : (c.withFaults g).free = c.free := rfl
@[simp] theorem conc_withFaults_lanes (c : Conc) (g : Faults → Faults) : (c.withFaults g).lanes = c.lanes := rfl
@[simp] theorem conc_withFaults_quads (c : Conc) (g : Faults → Faults) : (c.withFaults g).quads = c.quads := rfl
@[simp] theorem conc_withFaults_links (c : Conc) (g : Faults → Faults) : (c.withFaults g).links = c.links := rfl
@[simp] theorem conc_withFaults_time (c : Conc) (g : Faults → Faults) : (c.withFaults g).time = c.time := rfl
@[simp] theorem conc_withFaults_dict (c : Conc) (g : Faults → Faults) : (c.withFaults g).dict = c.dict := rfl
@[simp] theorem conc_withFaults_pwr (c : Conc) (g : Faults → Faults) : (c.withFaults g).pwr = c.pwr := rfl
@[simp] theorem conc_withFaults_faults (c : Conc) (g : Faults → Faults) : (c.withFaults g).faults = g c.faults := rfl
@[simp] theorem conc_withFaults_leases (c : Conc) (g : Faults → Faults) : (c.withFaults g).leases = c.leases := rfl
@[simp] theorem conc_withFaults_pair (c : Conc) (g : Faults → Faults) : (c.withFaults g).pair = c.pair := rfl
@[simp] theorem conc_withFaults_boot (c : Conc) (g : Faults → Faults) : (c.withFaults g).boot = c.boot := rfl
@[simp] theorem conc_withFaults_tap (c : Conc) (g : Faults → Faults) : (c.withFaults g).tap = c.tap := rfl
@[simp] theorem conc_withFaults_flash (c : Conc) (g : Faults → Faults) : (c.withFaults g).flash = c.flash := rfl
@[simp] theorem conc_withFaults_gather (c : Conc) (g : Faults → Faults) : (c.withFaults g).gather = c.gather := rfl
@[simp] theorem conc_withFaults_caro (c : Conc) (g : Faults → Faults) : (c.withFaults g).caro = c.caro := rfl
@[simp] theorem conc_withFaults_egr (c : Conc) (g : Faults → Faults) : (c.withFaults g).egr = c.egr := rfl
@[simp] theorem conc_withFaults_mem (c : Conc) (g : Faults → Faults) : (c.withFaults g).mem = c.mem := rfl
@[simp] theorem conc_withFaults_mov (c : Conc) (g : Faults → Faults) : (c.withFaults g).mov = c.mov := rfl
@[simp] theorem conc_withFaults_eng (c : Conc) (g : Faults → Faults) : (c.withFaults g).eng = c.eng := rfl
@[simp] theorem conc_withFaults_sec (c : Conc) (g : Faults → Faults) : (c.withFaults g).sec = c.sec := rfl
@[simp] theorem conc_withFaults_adc (c : Conc) (g : Faults → Faults) : (c.withFaults g).adc = c.adc := rfl
@[simp] theorem conc_withFaults_ctl (c : Conc) (g : Faults → Faults) : (c.withFaults g).ctl = c.ctl := rfl
@[simp] theorem conc_withFaults_light (c : Conc) (g : Faults → Faults) : (c.withFaults g).light = c.light := rfl
@[simp] theorem conc_withFaults_safety (c : Conc) (g : Faults → Faults) : (c.withFaults g).safety = c.safety := rfl

@[simp] theorem conc_withPair_tick (c : Conc) (g : Partner → Partner) : (c.withPair g).tick = c.tick := rfl
@[simp] theorem conc_withPair_now (c : Conc) (g : Partner → Partner) : (c.withPair g).now = c.now := rfl
@[simp] theorem conc_withPair_baseTicks (c : Conc) (g : Partner → Partner) : (c.withPair g).baseTicks = c.baseTicks := rfl
@[simp] theorem conc_withPair_od (c : Conc) (g : Partner → Partner) : (c.withPair g).od = c.od := rfl
@[simp] theorem conc_withPair_free (c : Conc) (g : Partner → Partner) : (c.withPair g).free = c.free := rfl
@[simp] theorem conc_withPair_lanes (c : Conc) (g : Partner → Partner) : (c.withPair g).lanes = c.lanes := rfl
@[simp] theorem conc_withPair_quads (c : Conc) (g : Partner → Partner) : (c.withPair g).quads = c.quads := rfl
@[simp] theorem conc_withPair_links (c : Conc) (g : Partner → Partner) : (c.withPair g).links = c.links := rfl
@[simp] theorem conc_withPair_time (c : Conc) (g : Partner → Partner) : (c.withPair g).time = c.time := rfl
@[simp] theorem conc_withPair_dict (c : Conc) (g : Partner → Partner) : (c.withPair g).dict = c.dict := rfl
@[simp] theorem conc_withPair_pwr (c : Conc) (g : Partner → Partner) : (c.withPair g).pwr = c.pwr := rfl
@[simp] theorem conc_withPair_faults (c : Conc) (g : Partner → Partner) : (c.withPair g).faults = c.faults := rfl
@[simp] theorem conc_withPair_leases (c : Conc) (g : Partner → Partner) : (c.withPair g).leases = c.leases := rfl
@[simp] theorem conc_withPair_pair (c : Conc) (g : Partner → Partner) : (c.withPair g).pair = g c.pair := rfl
@[simp] theorem conc_withPair_boot (c : Conc) (g : Partner → Partner) : (c.withPair g).boot = c.boot := rfl
@[simp] theorem conc_withPair_tap (c : Conc) (g : Partner → Partner) : (c.withPair g).tap = c.tap := rfl
@[simp] theorem conc_withPair_flash (c : Conc) (g : Partner → Partner) : (c.withPair g).flash = c.flash := rfl
@[simp] theorem conc_withPair_gather (c : Conc) (g : Partner → Partner) : (c.withPair g).gather = c.gather := rfl
@[simp] theorem conc_withPair_caro (c : Conc) (g : Partner → Partner) : (c.withPair g).caro = c.caro := rfl
@[simp] theorem conc_withPair_egr (c : Conc) (g : Partner → Partner) : (c.withPair g).egr = c.egr := rfl
@[simp] theorem conc_withPair_mem (c : Conc) (g : Partner → Partner) : (c.withPair g).mem = c.mem := rfl
@[simp] theorem conc_withPair_mov (c : Conc) (g : Partner → Partner) : (c.withPair g).mov = c.mov := rfl
@[simp] theorem conc_withPair_eng (c : Conc) (g : Partner → Partner) : (c.withPair g).eng = c.eng := rfl
@[simp] theorem conc_withPair_sec (c : Conc) (g : Partner → Partner) : (c.withPair g).sec = c.sec := rfl
@[simp] theorem conc_withPair_adc (c : Conc) (g : Partner → Partner) : (c.withPair g).adc = c.adc := rfl
@[simp] theorem conc_withPair_ctl (c : Conc) (g : Partner → Partner) : (c.withPair g).ctl = c.ctl := rfl
@[simp] theorem conc_withPair_light (c : Conc) (g : Partner → Partner) : (c.withPair g).light = c.light := rfl
@[simp] theorem conc_withPair_safety (c : Conc) (g : Partner → Partner) : (c.withPair g).safety = c.safety := rfl

@[simp] theorem conc_withBoot_tick (c : Conc) (g : Boot → Boot) : (c.withBoot g).tick = c.tick := rfl
@[simp] theorem conc_withBoot_now (c : Conc) (g : Boot → Boot) : (c.withBoot g).now = c.now := rfl
@[simp] theorem conc_withBoot_baseTicks (c : Conc) (g : Boot → Boot) : (c.withBoot g).baseTicks = c.baseTicks := rfl
@[simp] theorem conc_withBoot_od (c : Conc) (g : Boot → Boot) : (c.withBoot g).od = c.od := rfl
@[simp] theorem conc_withBoot_free (c : Conc) (g : Boot → Boot) : (c.withBoot g).free = c.free := rfl
@[simp] theorem conc_withBoot_lanes (c : Conc) (g : Boot → Boot) : (c.withBoot g).lanes = c.lanes := rfl
@[simp] theorem conc_withBoot_quads (c : Conc) (g : Boot → Boot) : (c.withBoot g).quads = c.quads := rfl
@[simp] theorem conc_withBoot_links (c : Conc) (g : Boot → Boot) : (c.withBoot g).links = c.links := rfl
@[simp] theorem conc_withBoot_time (c : Conc) (g : Boot → Boot) : (c.withBoot g).time = c.time := rfl
@[simp] theorem conc_withBoot_dict (c : Conc) (g : Boot → Boot) : (c.withBoot g).dict = c.dict := rfl
@[simp] theorem conc_withBoot_pwr (c : Conc) (g : Boot → Boot) : (c.withBoot g).pwr = c.pwr := rfl
@[simp] theorem conc_withBoot_faults (c : Conc) (g : Boot → Boot) : (c.withBoot g).faults = c.faults := rfl
@[simp] theorem conc_withBoot_leases (c : Conc) (g : Boot → Boot) : (c.withBoot g).leases = c.leases := rfl
@[simp] theorem conc_withBoot_pair (c : Conc) (g : Boot → Boot) : (c.withBoot g).pair = c.pair := rfl
@[simp] theorem conc_withBoot_boot (c : Conc) (g : Boot → Boot) : (c.withBoot g).boot = g c.boot := rfl
@[simp] theorem conc_withBoot_tap (c : Conc) (g : Boot → Boot) : (c.withBoot g).tap = c.tap := rfl
@[simp] theorem conc_withBoot_flash (c : Conc) (g : Boot → Boot) : (c.withBoot g).flash = c.flash := rfl
@[simp] theorem conc_withBoot_gather (c : Conc) (g : Boot → Boot) : (c.withBoot g).gather = c.gather := rfl
@[simp] theorem conc_withBoot_caro (c : Conc) (g : Boot → Boot) : (c.withBoot g).caro = c.caro := rfl
@[simp] theorem conc_withBoot_egr (c : Conc) (g : Boot → Boot) : (c.withBoot g).egr = c.egr := rfl
@[simp] theorem conc_withBoot_mem (c : Conc) (g : Boot → Boot) : (c.withBoot g).mem = c.mem := rfl
@[simp] theorem conc_withBoot_mov (c : Conc) (g : Boot → Boot) : (c.withBoot g).mov = c.mov := rfl
@[simp] theorem conc_withBoot_eng (c : Conc) (g : Boot → Boot) : (c.withBoot g).eng = c.eng := rfl
@[simp] theorem conc_withBoot_sec (c : Conc) (g : Boot → Boot) : (c.withBoot g).sec = c.sec := rfl
@[simp] theorem conc_withBoot_adc (c : Conc) (g : Boot → Boot) : (c.withBoot g).adc = c.adc := rfl
@[simp] theorem conc_withBoot_ctl (c : Conc) (g : Boot → Boot) : (c.withBoot g).ctl = c.ctl := rfl
@[simp] theorem conc_withBoot_light (c : Conc) (g : Boot → Boot) : (c.withBoot g).light = c.light := rfl
@[simp] theorem conc_withBoot_safety (c : Conc) (g : Boot → Boot) : (c.withBoot g).safety = c.safety := rfl

@[simp] theorem conc_withCaro_tick (c : Conc) (g : Carousel → Carousel) : (c.withCaro g).tick = c.tick := rfl
@[simp] theorem conc_withCaro_now (c : Conc) (g : Carousel → Carousel) : (c.withCaro g).now = c.now := rfl
@[simp] theorem conc_withCaro_baseTicks (c : Conc) (g : Carousel → Carousel) : (c.withCaro g).baseTicks = c.baseTicks := rfl
@[simp] theorem conc_withCaro_od (c : Conc) (g : Carousel → Carousel) : (c.withCaro g).od = c.od := rfl
@[simp] theorem conc_withCaro_free (c : Conc) (g : Carousel → Carousel) : (c.withCaro g).free = c.free := rfl
@[simp] theorem conc_withCaro_lanes (c : Conc) (g : Carousel → Carousel) : (c.withCaro g).lanes = c.lanes := rfl
@[simp] theorem conc_withCaro_quads (c : Conc) (g : Carousel → Carousel) : (c.withCaro g).quads = c.quads := rfl
@[simp] theorem conc_withCaro_links (c : Conc) (g : Carousel → Carousel) : (c.withCaro g).links = c.links := rfl
@[simp] theorem conc_withCaro_time (c : Conc) (g : Carousel → Carousel) : (c.withCaro g).time = c.time := rfl
@[simp] theorem conc_withCaro_dict (c : Conc) (g : Carousel → Carousel) : (c.withCaro g).dict = c.dict := rfl
@[simp] theorem conc_withCaro_pwr (c : Conc) (g : Carousel → Carousel) : (c.withCaro g).pwr = c.pwr := rfl
@[simp] theorem conc_withCaro_faults (c : Conc) (g : Carousel → Carousel) : (c.withCaro g).faults = c.faults := rfl
@[simp] theorem conc_withCaro_leases (c : Conc) (g : Carousel → Carousel) : (c.withCaro g).leases = c.leases := rfl
@[simp] theorem conc_withCaro_pair (c : Conc) (g : Carousel → Carousel) : (c.withCaro g).pair = c.pair := rfl
@[simp] theorem conc_withCaro_boot (c : Conc) (g : Carousel → Carousel) : (c.withCaro g).boot = c.boot := rfl
@[simp] theorem conc_withCaro_tap (c : Conc) (g : Carousel → Carousel) : (c.withCaro g).tap = c.tap := rfl
@[simp] theorem conc_withCaro_flash (c : Conc) (g : Carousel → Carousel) : (c.withCaro g).flash = c.flash := rfl
@[simp] theorem conc_withCaro_gather (c : Conc) (g : Carousel → Carousel) : (c.withCaro g).gather = c.gather := rfl
@[simp] theorem conc_withCaro_caro (c : Conc) (g : Carousel → Carousel) : (c.withCaro g).caro = g c.caro := rfl
@[simp] theorem conc_withCaro_egr (c : Conc) (g : Carousel → Carousel) : (c.withCaro g).egr = c.egr := rfl
@[simp] theorem conc_withCaro_mem (c : Conc) (g : Carousel → Carousel) : (c.withCaro g).mem = c.mem := rfl
@[simp] theorem conc_withCaro_mov (c : Conc) (g : Carousel → Carousel) : (c.withCaro g).mov = c.mov := rfl
@[simp] theorem conc_withCaro_eng (c : Conc) (g : Carousel → Carousel) : (c.withCaro g).eng = c.eng := rfl
@[simp] theorem conc_withCaro_sec (c : Conc) (g : Carousel → Carousel) : (c.withCaro g).sec = c.sec := rfl
@[simp] theorem conc_withCaro_adc (c : Conc) (g : Carousel → Carousel) : (c.withCaro g).adc = c.adc := rfl
@[simp] theorem conc_withCaro_ctl (c : Conc) (g : Carousel → Carousel) : (c.withCaro g).ctl = c.ctl := rfl
@[simp] theorem conc_withCaro_light (c : Conc) (g : Carousel → Carousel) : (c.withCaro g).light = c.light := rfl
@[simp] theorem conc_withCaro_safety (c : Conc) (g : Carousel → Carousel) : (c.withCaro g).safety = c.safety := rfl

@[simp] theorem conc_withMem_tick (c : Conc) (g : MemSt → MemSt) : (c.withMem g).tick = c.tick := rfl
@[simp] theorem conc_withMem_now (c : Conc) (g : MemSt → MemSt) : (c.withMem g).now = c.now := rfl
@[simp] theorem conc_withMem_baseTicks (c : Conc) (g : MemSt → MemSt) : (c.withMem g).baseTicks = c.baseTicks := rfl
@[simp] theorem conc_withMem_od (c : Conc) (g : MemSt → MemSt) : (c.withMem g).od = c.od := rfl
@[simp] theorem conc_withMem_free (c : Conc) (g : MemSt → MemSt) : (c.withMem g).free = c.free := rfl
@[simp] theorem conc_withMem_lanes (c : Conc) (g : MemSt → MemSt) : (c.withMem g).lanes = c.lanes := rfl
@[simp] theorem conc_withMem_quads (c : Conc) (g : MemSt → MemSt) : (c.withMem g).quads = c.quads := rfl
@[simp] theorem conc_withMem_links (c : Conc) (g : MemSt → MemSt) : (c.withMem g).links = c.links := rfl
@[simp] theorem conc_withMem_time (c : Conc) (g : MemSt → MemSt) : (c.withMem g).time = c.time := rfl
@[simp] theorem conc_withMem_dict (c : Conc) (g : MemSt → MemSt) : (c.withMem g).dict = c.dict := rfl
@[simp] theorem conc_withMem_pwr (c : Conc) (g : MemSt → MemSt) : (c.withMem g).pwr = c.pwr := rfl
@[simp] theorem conc_withMem_faults (c : Conc) (g : MemSt → MemSt) : (c.withMem g).faults = c.faults := rfl
@[simp] theorem conc_withMem_leases (c : Conc) (g : MemSt → MemSt) : (c.withMem g).leases = c.leases := rfl
@[simp] theorem conc_withMem_pair (c : Conc) (g : MemSt → MemSt) : (c.withMem g).pair = c.pair := rfl
@[simp] theorem conc_withMem_boot (c : Conc) (g : MemSt → MemSt) : (c.withMem g).boot = c.boot := rfl
@[simp] theorem conc_withMem_tap (c : Conc) (g : MemSt → MemSt) : (c.withMem g).tap = c.tap := rfl
@[simp] theorem conc_withMem_flash (c : Conc) (g : MemSt → MemSt) : (c.withMem g).flash = c.flash := rfl
@[simp] theorem conc_withMem_gather (c : Conc) (g : MemSt → MemSt) : (c.withMem g).gather = c.gather := rfl
@[simp] theorem conc_withMem_caro (c : Conc) (g : MemSt → MemSt) : (c.withMem g).caro = c.caro := rfl
@[simp] theorem conc_withMem_egr (c : Conc) (g : MemSt → MemSt) : (c.withMem g).egr = c.egr := rfl
@[simp] theorem conc_withMem_mem (c : Conc) (g : MemSt → MemSt) : (c.withMem g).mem = g c.mem := rfl
@[simp] theorem conc_withMem_mov (c : Conc) (g : MemSt → MemSt) : (c.withMem g).mov = c.mov := rfl
@[simp] theorem conc_withMem_eng (c : Conc) (g : MemSt → MemSt) : (c.withMem g).eng = c.eng := rfl
@[simp] theorem conc_withMem_sec (c : Conc) (g : MemSt → MemSt) : (c.withMem g).sec = c.sec := rfl
@[simp] theorem conc_withMem_adc (c : Conc) (g : MemSt → MemSt) : (c.withMem g).adc = c.adc := rfl
@[simp] theorem conc_withMem_ctl (c : Conc) (g : MemSt → MemSt) : (c.withMem g).ctl = c.ctl := rfl
@[simp] theorem conc_withMem_light (c : Conc) (g : MemSt → MemSt) : (c.withMem g).light = c.light := rfl
@[simp] theorem conc_withMem_safety (c : Conc) (g : MemSt → MemSt) : (c.withMem g).safety = c.safety := rfl

@[simp] theorem conc_withSec_tick (c : Conc) (g : Sec → Sec) : (c.withSec g).tick = c.tick := rfl
@[simp] theorem conc_withSec_now (c : Conc) (g : Sec → Sec) : (c.withSec g).now = c.now := rfl
@[simp] theorem conc_withSec_baseTicks (c : Conc) (g : Sec → Sec) : (c.withSec g).baseTicks = c.baseTicks := rfl
@[simp] theorem conc_withSec_od (c : Conc) (g : Sec → Sec) : (c.withSec g).od = c.od := rfl
@[simp] theorem conc_withSec_free (c : Conc) (g : Sec → Sec) : (c.withSec g).free = c.free := rfl
@[simp] theorem conc_withSec_lanes (c : Conc) (g : Sec → Sec) : (c.withSec g).lanes = c.lanes := rfl
@[simp] theorem conc_withSec_quads (c : Conc) (g : Sec → Sec) : (c.withSec g).quads = c.quads := rfl
@[simp] theorem conc_withSec_links (c : Conc) (g : Sec → Sec) : (c.withSec g).links = c.links := rfl
@[simp] theorem conc_withSec_time (c : Conc) (g : Sec → Sec) : (c.withSec g).time = c.time := rfl
@[simp] theorem conc_withSec_dict (c : Conc) (g : Sec → Sec) : (c.withSec g).dict = c.dict := rfl
@[simp] theorem conc_withSec_pwr (c : Conc) (g : Sec → Sec) : (c.withSec g).pwr = c.pwr := rfl
@[simp] theorem conc_withSec_faults (c : Conc) (g : Sec → Sec) : (c.withSec g).faults = c.faults := rfl
@[simp] theorem conc_withSec_leases (c : Conc) (g : Sec → Sec) : (c.withSec g).leases = c.leases := rfl
@[simp] theorem conc_withSec_pair (c : Conc) (g : Sec → Sec) : (c.withSec g).pair = c.pair := rfl
@[simp] theorem conc_withSec_boot (c : Conc) (g : Sec → Sec) : (c.withSec g).boot = c.boot := rfl
@[simp] theorem conc_withSec_tap (c : Conc) (g : Sec → Sec) : (c.withSec g).tap = c.tap := rfl
@[simp] theorem conc_withSec_flash (c : Conc) (g : Sec → Sec) : (c.withSec g).flash = c.flash := rfl
@[simp] theorem conc_withSec_gather (c : Conc) (g : Sec → Sec) : (c.withSec g).gather = c.gather := rfl
@[simp] theorem conc_withSec_caro (c : Conc) (g : Sec → Sec) : (c.withSec g).caro = c.caro := rfl
@[simp] theorem conc_withSec_egr (c : Conc) (g : Sec → Sec) : (c.withSec g).egr = c.egr := rfl
@[simp] theorem conc_withSec_mem (c : Conc) (g : Sec → Sec) : (c.withSec g).mem = c.mem := rfl
@[simp] theorem conc_withSec_mov (c : Conc) (g : Sec → Sec) : (c.withSec g).mov = c.mov := rfl
@[simp] theorem conc_withSec_eng (c : Conc) (g : Sec → Sec) : (c.withSec g).eng = c.eng := rfl
@[simp] theorem conc_withSec_sec (c : Conc) (g : Sec → Sec) : (c.withSec g).sec = g c.sec := rfl
@[simp] theorem conc_withSec_adc (c : Conc) (g : Sec → Sec) : (c.withSec g).adc = c.adc := rfl
@[simp] theorem conc_withSec_ctl (c : Conc) (g : Sec → Sec) : (c.withSec g).ctl = c.ctl := rfl
@[simp] theorem conc_withSec_light (c : Conc) (g : Sec → Sec) : (c.withSec g).light = c.light := rfl
@[simp] theorem conc_withSec_safety (c : Conc) (g : Sec → Sec) : (c.withSec g).safety = c.safety := rfl

@[simp] theorem conc_withAdc_tick (c : Conc) (g : Adc → Adc) : (c.withAdc g).tick = c.tick := rfl
@[simp] theorem conc_withAdc_now (c : Conc) (g : Adc → Adc) : (c.withAdc g).now = c.now := rfl
@[simp] theorem conc_withAdc_baseTicks (c : Conc) (g : Adc → Adc) : (c.withAdc g).baseTicks = c.baseTicks := rfl
@[simp] theorem conc_withAdc_od (c : Conc) (g : Adc → Adc) : (c.withAdc g).od = c.od := rfl
@[simp] theorem conc_withAdc_free (c : Conc) (g : Adc → Adc) : (c.withAdc g).free = c.free := rfl
@[simp] theorem conc_withAdc_lanes (c : Conc) (g : Adc → Adc) : (c.withAdc g).lanes = c.lanes := rfl
@[simp] theorem conc_withAdc_quads (c : Conc) (g : Adc → Adc) : (c.withAdc g).quads = c.quads := rfl
@[simp] theorem conc_withAdc_links (c : Conc) (g : Adc → Adc) : (c.withAdc g).links = c.links := rfl
@[simp] theorem conc_withAdc_time (c : Conc) (g : Adc → Adc) : (c.withAdc g).time = c.time := rfl
@[simp] theorem conc_withAdc_dict (c : Conc) (g : Adc → Adc) : (c.withAdc g).dict = c.dict := rfl
@[simp] theorem conc_withAdc_pwr (c : Conc) (g : Adc → Adc) : (c.withAdc g).pwr = c.pwr := rfl
@[simp] theorem conc_withAdc_faults (c : Conc) (g : Adc → Adc) : (c.withAdc g).faults = c.faults := rfl
@[simp] theorem conc_withAdc_leases (c : Conc) (g : Adc → Adc) : (c.withAdc g).leases = c.leases := rfl
@[simp] theorem conc_withAdc_pair (c : Conc) (g : Adc → Adc) : (c.withAdc g).pair = c.pair := rfl
@[simp] theorem conc_withAdc_boot (c : Conc) (g : Adc → Adc) : (c.withAdc g).boot = c.boot := rfl
@[simp] theorem conc_withAdc_tap (c : Conc) (g : Adc → Adc) : (c.withAdc g).tap = c.tap := rfl
@[simp] theorem conc_withAdc_flash (c : Conc) (g : Adc → Adc) : (c.withAdc g).flash = c.flash := rfl
@[simp] theorem conc_withAdc_gather (c : Conc) (g : Adc → Adc) : (c.withAdc g).gather = c.gather := rfl
@[simp] theorem conc_withAdc_caro (c : Conc) (g : Adc → Adc) : (c.withAdc g).caro = c.caro := rfl
@[simp] theorem conc_withAdc_egr (c : Conc) (g : Adc → Adc) : (c.withAdc g).egr = c.egr := rfl
@[simp] theorem conc_withAdc_mem (c : Conc) (g : Adc → Adc) : (c.withAdc g).mem = c.mem := rfl
@[simp] theorem conc_withAdc_mov (c : Conc) (g : Adc → Adc) : (c.withAdc g).mov = c.mov := rfl
@[simp] theorem conc_withAdc_eng (c : Conc) (g : Adc → Adc) : (c.withAdc g).eng = c.eng := rfl
@[simp] theorem conc_withAdc_sec (c : Conc) (g : Adc → Adc) : (c.withAdc g).sec = c.sec := rfl
@[simp] theorem conc_withAdc_adc (c : Conc) (g : Adc → Adc) : (c.withAdc g).adc = g c.adc := rfl
@[simp] theorem conc_withAdc_ctl (c : Conc) (g : Adc → Adc) : (c.withAdc g).ctl = c.ctl := rfl
@[simp] theorem conc_withAdc_light (c : Conc) (g : Adc → Adc) : (c.withAdc g).light = c.light := rfl
@[simp] theorem conc_withAdc_safety (c : Conc) (g : Adc → Adc) : (c.withAdc g).safety = c.safety := rfl

@[simp] theorem conc_withLight_tick (c : Conc) (g : Light → Light) : (c.withLight g).tick = c.tick := rfl
@[simp] theorem conc_withLight_now (c : Conc) (g : Light → Light) : (c.withLight g).now = c.now := rfl
@[simp] theorem conc_withLight_baseTicks (c : Conc) (g : Light → Light) : (c.withLight g).baseTicks = c.baseTicks := rfl
@[simp] theorem conc_withLight_od (c : Conc) (g : Light → Light) : (c.withLight g).od = c.od := rfl
@[simp] theorem conc_withLight_free (c : Conc) (g : Light → Light) : (c.withLight g).free = c.free := rfl
@[simp] theorem conc_withLight_lanes (c : Conc) (g : Light → Light) : (c.withLight g).lanes = c.lanes := rfl
@[simp] theorem conc_withLight_quads (c : Conc) (g : Light → Light) : (c.withLight g).quads = c.quads := rfl
@[simp] theorem conc_withLight_links (c : Conc) (g : Light → Light) : (c.withLight g).links = c.links := rfl
@[simp] theorem conc_withLight_time (c : Conc) (g : Light → Light) : (c.withLight g).time = c.time := rfl
@[simp] theorem conc_withLight_dict (c : Conc) (g : Light → Light) : (c.withLight g).dict = c.dict := rfl
@[simp] theorem conc_withLight_pwr (c : Conc) (g : Light → Light) : (c.withLight g).pwr = c.pwr := rfl
@[simp] theorem conc_withLight_faults (c : Conc) (g : Light → Light) : (c.withLight g).faults = c.faults := rfl
@[simp] theorem conc_withLight_leases (c : Conc) (g : Light → Light) : (c.withLight g).leases = c.leases := rfl
@[simp] theorem conc_withLight_pair (c : Conc) (g : Light → Light) : (c.withLight g).pair = c.pair := rfl
@[simp] theorem conc_withLight_boot (c : Conc) (g : Light → Light) : (c.withLight g).boot = c.boot := rfl
@[simp] theorem conc_withLight_tap (c : Conc) (g : Light → Light) : (c.withLight g).tap = c.tap := rfl
@[simp] theorem conc_withLight_flash (c : Conc) (g : Light → Light) : (c.withLight g).flash = c.flash := rfl
@[simp] theorem conc_withLight_gather (c : Conc) (g : Light → Light) : (c.withLight g).gather = c.gather := rfl
@[simp] theorem conc_withLight_caro (c : Conc) (g : Light → Light) : (c.withLight g).caro = c.caro := rfl
@[simp] theorem conc_withLight_egr (c : Conc) (g : Light → Light) : (c.withLight g).egr = c.egr := rfl
@[simp] theorem conc_withLight_mem (c : Conc) (g : Light → Light) : (c.withLight g).mem = c.mem := rfl
@[simp] theorem conc_withLight_mov (c : Conc) (g : Light → Light) : (c.withLight g).mov = c.mov := rfl
@[simp] theorem conc_withLight_eng (c : Conc) (g : Light → Light) : (c.withLight g).eng = c.eng := rfl
@[simp] theorem conc_withLight_sec (c : Conc) (g : Light → Light) : (c.withLight g).sec = c.sec := rfl
@[simp] theorem conc_withLight_adc (c : Conc) (g : Light → Light) : (c.withLight g).adc = c.adc := rfl
@[simp] theorem conc_withLight_ctl (c : Conc) (g : Light → Light) : (c.withLight g).ctl = c.ctl := rfl
@[simp] theorem conc_withLight_light (c : Conc) (g : Light → Light) : (c.withLight g).light = g c.light := rfl
@[simp] theorem conc_withLight_safety (c : Conc) (g : Light → Light) : (c.withLight g).safety = c.safety := rfl

@[simp] theorem conc_withSafety_tick (c : Conc) (g : Safety → Safety) : (c.withSafety g).tick = c.tick := rfl
@[simp] theorem conc_withSafety_now (c : Conc) (g : Safety → Safety) : (c.withSafety g).now = c.now := rfl
@[simp] theorem conc_withSafety_baseTicks (c : Conc) (g : Safety → Safety) : (c.withSafety g).baseTicks = c.baseTicks := rfl
@[simp] theorem conc_withSafety_od (c : Conc) (g : Safety → Safety) : (c.withSafety g).od = c.od := rfl
@[simp] theorem conc_withSafety_free (c : Conc) (g : Safety → Safety) : (c.withSafety g).free = c.free := rfl
@[simp] theorem conc_withSafety_lanes (c : Conc) (g : Safety → Safety) : (c.withSafety g).lanes = c.lanes := rfl
@[simp] theorem conc_withSafety_quads (c : Conc) (g : Safety → Safety) : (c.withSafety g).quads = c.quads := rfl
@[simp] theorem conc_withSafety_links (c : Conc) (g : Safety → Safety) : (c.withSafety g).links = c.links := rfl
@[simp] theorem conc_withSafety_time (c : Conc) (g : Safety → Safety) : (c.withSafety g).time = c.time := rfl
@[simp] theorem conc_withSafety_dict (c : Conc) (g : Safety → Safety) : (c.withSafety g).dict = c.dict := rfl
@[simp] theorem conc_withSafety_pwr (c : Conc) (g : Safety → Safety) : (c.withSafety g).pwr = c.pwr := rfl
@[simp] theorem conc_withSafety_faults (c : Conc) (g : Safety → Safety) : (c.withSafety g).faults = c.faults := rfl
@[simp] theorem conc_withSafety_leases (c : Conc) (g : Safety → Safety) : (c.withSafety g).leases = c.leases := rfl
@[simp] theorem conc_withSafety_pair (c : Conc) (g : Safety → Safety) : (c.withSafety g).pair = c.pair := rfl
@[simp] theorem conc_withSafety_boot (c : Conc) (g : Safety → Safety) : (c.withSafety g).boot = c.boot := rfl
@[simp] theorem conc_withSafety_tap (c : Conc) (g : Safety → Safety) : (c.withSafety g).tap = c.tap := rfl
@[simp] theorem conc_withSafety_flash (c : Conc) (g : Safety → Safety) : (c.withSafety g).flash = c.flash := rfl
@[simp] theorem conc_withSafety_gather (c : Conc) (g : Safety → Safety) : (c.withSafety g).gather = c.gather := rfl
@[simp] theorem conc_withSafety_caro (c : Conc) (g : Safety → Safety) : (c.withSafety g).caro = c.caro := rfl
@[simp] theorem conc_withSafety_egr (c : Conc) (g : Safety → Safety) : (c.withSafety g).egr = c.egr := rfl
@[simp] theorem conc_withSafety_mem (c : Conc) (g : Safety → Safety) : (c.withSafety g).mem = c.mem := rfl
@[simp] theorem conc_withSafety_mov (c : Conc) (g : Safety → Safety) : (c.withSafety g).mov = c.mov := rfl
@[simp] theorem conc_withSafety_eng (c : Conc) (g : Safety → Safety) : (c.withSafety g).eng = c.eng := rfl
@[simp] theorem conc_withSafety_sec (c : Conc) (g : Safety → Safety) : (c.withSafety g).sec = c.sec := rfl
@[simp] theorem conc_withSafety_adc (c : Conc) (g : Safety → Safety) : (c.withSafety g).adc = c.adc := rfl
@[simp] theorem conc_withSafety_ctl (c : Conc) (g : Safety → Safety) : (c.withSafety g).ctl = c.ctl := rfl
@[simp] theorem conc_withSafety_light (c : Conc) (g : Safety → Safety) : (c.withSafety g).light = c.light := rfl
@[simp] theorem conc_withSafety_safety (c : Conc) (g : Safety → Safety) : (c.withSafety g).safety = g c.safety := rfl

@[simp] theorem conc_put_tick (c : Conc) (o : Obj) (v i : Nat) : (c.put o v i).tick = c.tick := rfl
@[simp] theorem conc_put_now (c : Conc) (o : Obj) (v i : Nat) : (c.put o v i).now = c.now := rfl
@[simp] theorem conc_put_baseTicks (c : Conc) (o : Obj) (v i : Nat) : (c.put o v i).baseTicks = c.baseTicks := rfl
@[simp] theorem conc_put_od (c : Conc) (o : Obj) (v i : Nat) : (c.put o v i).od = c.od.put o v i := rfl
@[simp] theorem conc_put_free (c : Conc) (o : Obj) (v i : Nat) : (c.put o v i).free = c.free := rfl
@[simp] theorem conc_put_lanes (c : Conc) (o : Obj) (v i : Nat) : (c.put o v i).lanes = c.lanes := rfl
@[simp] theorem conc_put_quads (c : Conc) (o : Obj) (v i : Nat) : (c.put o v i).quads = c.quads := rfl
@[simp] theorem conc_put_links (c : Conc) (o : Obj) (v i : Nat) : (c.put o v i).links = c.links := rfl
@[simp] theorem conc_put_time (c : Conc) (o : Obj) (v i : Nat) : (c.put o v i).time = c.time := rfl
@[simp] theorem conc_put_dict (c : Conc) (o : Obj) (v i : Nat) : (c.put o v i).dict = c.dict := rfl
@[simp] theorem conc_put_pwr (c : Conc) (o : Obj) (v i : Nat) : (c.put o v i).pwr = c.pwr := rfl
@[simp] theorem conc_put_faults (c : Conc) (o : Obj) (v i : Nat) : (c.put o v i).faults = c.faults := rfl
@[simp] theorem conc_put_leases (c : Conc) (o : Obj) (v i : Nat) : (c.put o v i).leases = c.leases := rfl
@[simp] theorem conc_put_pair (c : Conc) (o : Obj) (v i : Nat) : (c.put o v i).pair = c.pair := rfl
@[simp] theorem conc_put_boot (c : Conc) (o : Obj) (v i : Nat) : (c.put o v i).boot = c.boot := rfl
@[simp] theorem conc_put_tap (c : Conc) (o : Obj) (v i : Nat) : (c.put o v i).tap = c.tap := rfl
@[simp] theorem conc_put_flash (c : Conc) (o : Obj) (v i : Nat) : (c.put o v i).flash = c.flash := rfl
@[simp] theorem conc_put_gather (c : Conc) (o : Obj) (v i : Nat) : (c.put o v i).gather = c.gather := rfl
@[simp] theorem conc_put_caro (c : Conc) (o : Obj) (v i : Nat) : (c.put o v i).caro = c.caro := rfl
@[simp] theorem conc_put_egr (c : Conc) (o : Obj) (v i : Nat) : (c.put o v i).egr = c.egr := rfl
@[simp] theorem conc_put_mem (c : Conc) (o : Obj) (v i : Nat) : (c.put o v i).mem = c.mem := rfl
@[simp] theorem conc_put_mov (c : Conc) (o : Obj) (v i : Nat) : (c.put o v i).mov = c.mov := rfl
@[simp] theorem conc_put_eng (c : Conc) (o : Obj) (v i : Nat) : (c.put o v i).eng = c.eng := rfl
@[simp] theorem conc_put_sec (c : Conc) (o : Obj) (v i : Nat) : (c.put o v i).sec = c.sec := rfl
@[simp] theorem conc_put_adc (c : Conc) (o : Obj) (v i : Nat) : (c.put o v i).adc = c.adc := rfl
@[simp] theorem conc_put_ctl (c : Conc) (o : Obj) (v i : Nat) : (c.put o v i).ctl = c.ctl := rfl
@[simp] theorem conc_put_light (c : Conc) (o : Obj) (v i : Nat) : (c.put o v i).light = c.light := rfl
@[simp] theorem conc_put_safety (c : Conc) (o : Obj) (v i : Nat) : (c.put o v i).safety = c.safety := rfl

@[simp] theorem conc_setLane_tick (c : Conc) (n : Nat) (x : Lane) : (c.setLane n x).tick = c.tick := rfl
@[simp] theorem conc_setLane_now (c : Conc) (n : Nat) (x : Lane) : (c.setLane n x).now = c.now := rfl
@[simp] theorem conc_setLane_baseTicks (c : Conc) (n : Nat) (x : Lane) : (c.setLane n x).baseTicks = c.baseTicks := rfl
@[simp] theorem conc_setLane_od (c : Conc) (n : Nat) (x : Lane) : (c.setLane n x).od = c.od := rfl
@[simp] theorem conc_setLane_free (c : Conc) (n : Nat) (x : Lane) : (c.setLane n x).free = c.free := rfl
@[simp] theorem conc_setLane_lanes (c : Conc) (n : Nat) (x : Lane) : (c.setLane n x).lanes = Bank.set {} c.lanes n x := rfl
@[simp] theorem conc_setLane_quads (c : Conc) (n : Nat) (x : Lane) : (c.setLane n x).quads = c.quads := rfl
@[simp] theorem conc_setLane_links (c : Conc) (n : Nat) (x : Lane) : (c.setLane n x).links = c.links := rfl
@[simp] theorem conc_setLane_time (c : Conc) (n : Nat) (x : Lane) : (c.setLane n x).time = c.time := rfl
@[simp] theorem conc_setLane_dict (c : Conc) (n : Nat) (x : Lane) : (c.setLane n x).dict = c.dict := rfl
@[simp] theorem conc_setLane_pwr (c : Conc) (n : Nat) (x : Lane) : (c.setLane n x).pwr = c.pwr := rfl
@[simp] theorem conc_setLane_faults (c : Conc) (n : Nat) (x : Lane) : (c.setLane n x).faults = c.faults := rfl
@[simp] theorem conc_setLane_leases (c : Conc) (n : Nat) (x : Lane) : (c.setLane n x).leases = c.leases := rfl
@[simp] theorem conc_setLane_pair (c : Conc) (n : Nat) (x : Lane) : (c.setLane n x).pair = c.pair := rfl
@[simp] theorem conc_setLane_boot (c : Conc) (n : Nat) (x : Lane) : (c.setLane n x).boot = c.boot := rfl
@[simp] theorem conc_setLane_tap (c : Conc) (n : Nat) (x : Lane) : (c.setLane n x).tap = c.tap := rfl
@[simp] theorem conc_setLane_flash (c : Conc) (n : Nat) (x : Lane) : (c.setLane n x).flash = c.flash := rfl
@[simp] theorem conc_setLane_gather (c : Conc) (n : Nat) (x : Lane) : (c.setLane n x).gather = c.gather := rfl
@[simp] theorem conc_setLane_caro (c : Conc) (n : Nat) (x : Lane) : (c.setLane n x).caro = c.caro := rfl
@[simp] theorem conc_setLane_egr (c : Conc) (n : Nat) (x : Lane) : (c.setLane n x).egr = c.egr := rfl
@[simp] theorem conc_setLane_mem (c : Conc) (n : Nat) (x : Lane) : (c.setLane n x).mem = c.mem := rfl
@[simp] theorem conc_setLane_mov (c : Conc) (n : Nat) (x : Lane) : (c.setLane n x).mov = c.mov := rfl
@[simp] theorem conc_setLane_eng (c : Conc) (n : Nat) (x : Lane) : (c.setLane n x).eng = c.eng := rfl
@[simp] theorem conc_setLane_sec (c : Conc) (n : Nat) (x : Lane) : (c.setLane n x).sec = c.sec := rfl
@[simp] theorem conc_setLane_adc (c : Conc) (n : Nat) (x : Lane) : (c.setLane n x).adc = c.adc := rfl
@[simp] theorem conc_setLane_ctl (c : Conc) (n : Nat) (x : Lane) : (c.setLane n x).ctl = c.ctl := rfl
@[simp] theorem conc_setLane_light (c : Conc) (n : Nat) (x : Lane) : (c.setLane n x).light = c.light := rfl
@[simp] theorem conc_setLane_safety (c : Conc) (n : Nat) (x : Lane) : (c.setLane n x).safety = c.safety := rfl

@[simp] theorem conc_setQuad_tick (c : Conc) (n : Nat) (x : Quad) : (c.setQuad n x).tick = c.tick := rfl
@[simp] theorem conc_setQuad_now (c : Conc) (n : Nat) (x : Quad) : (c.setQuad n x).now = c.now := rfl
@[simp] theorem conc_setQuad_baseTicks (c : Conc) (n : Nat) (x : Quad) : (c.setQuad n x).baseTicks = c.baseTicks := rfl
@[simp] theorem conc_setQuad_od (c : Conc) (n : Nat) (x : Quad) : (c.setQuad n x).od = c.od := rfl
@[simp] theorem conc_setQuad_free (c : Conc) (n : Nat) (x : Quad) : (c.setQuad n x).free = c.free := rfl
@[simp] theorem conc_setQuad_lanes (c : Conc) (n : Nat) (x : Quad) : (c.setQuad n x).lanes = c.lanes := rfl
@[simp] theorem conc_setQuad_quads (c : Conc) (n : Nat) (x : Quad) : (c.setQuad n x).quads = Bank.set {} c.quads n x := rfl
@[simp] theorem conc_setQuad_links (c : Conc) (n : Nat) (x : Quad) : (c.setQuad n x).links = c.links := rfl
@[simp] theorem conc_setQuad_time (c : Conc) (n : Nat) (x : Quad) : (c.setQuad n x).time = c.time := rfl
@[simp] theorem conc_setQuad_dict (c : Conc) (n : Nat) (x : Quad) : (c.setQuad n x).dict = c.dict := rfl
@[simp] theorem conc_setQuad_pwr (c : Conc) (n : Nat) (x : Quad) : (c.setQuad n x).pwr = c.pwr := rfl
@[simp] theorem conc_setQuad_faults (c : Conc) (n : Nat) (x : Quad) : (c.setQuad n x).faults = c.faults := rfl
@[simp] theorem conc_setQuad_leases (c : Conc) (n : Nat) (x : Quad) : (c.setQuad n x).leases = c.leases := rfl
@[simp] theorem conc_setQuad_pair (c : Conc) (n : Nat) (x : Quad) : (c.setQuad n x).pair = c.pair := rfl
@[simp] theorem conc_setQuad_boot (c : Conc) (n : Nat) (x : Quad) : (c.setQuad n x).boot = c.boot := rfl
@[simp] theorem conc_setQuad_tap (c : Conc) (n : Nat) (x : Quad) : (c.setQuad n x).tap = c.tap := rfl
@[simp] theorem conc_setQuad_flash (c : Conc) (n : Nat) (x : Quad) : (c.setQuad n x).flash = c.flash := rfl
@[simp] theorem conc_setQuad_gather (c : Conc) (n : Nat) (x : Quad) : (c.setQuad n x).gather = c.gather := rfl
@[simp] theorem conc_setQuad_caro (c : Conc) (n : Nat) (x : Quad) : (c.setQuad n x).caro = c.caro := rfl
@[simp] theorem conc_setQuad_egr (c : Conc) (n : Nat) (x : Quad) : (c.setQuad n x).egr = c.egr := rfl
@[simp] theorem conc_setQuad_mem (c : Conc) (n : Nat) (x : Quad) : (c.setQuad n x).mem = c.mem := rfl
@[simp] theorem conc_setQuad_mov (c : Conc) (n : Nat) (x : Quad) : (c.setQuad n x).mov = c.mov := rfl
@[simp] theorem conc_setQuad_eng (c : Conc) (n : Nat) (x : Quad) : (c.setQuad n x).eng = c.eng := rfl
@[simp] theorem conc_setQuad_sec (c : Conc) (n : Nat) (x : Quad) : (c.setQuad n x).sec = c.sec := rfl
@[simp] theorem conc_setQuad_adc (c : Conc) (n : Nat) (x : Quad) : (c.setQuad n x).adc = c.adc := rfl
@[simp] theorem conc_setQuad_ctl (c : Conc) (n : Nat) (x : Quad) : (c.setQuad n x).ctl = c.ctl := rfl
@[simp] theorem conc_setQuad_light (c : Conc) (n : Nat) (x : Quad) : (c.setQuad n x).light = c.light := rfl
@[simp] theorem conc_setQuad_safety (c : Conc) (n : Nat) (x : Quad) : (c.setQuad n x).safety = c.safety := rfl

@[simp] theorem conc_setLease_tick (c : Conc) (p : Nat) (x : PortLease) : (c.setLease p x).tick = c.tick := rfl
@[simp] theorem conc_setLease_now (c : Conc) (p : Nat) (x : PortLease) : (c.setLease p x).now = c.now := rfl
@[simp] theorem conc_setLease_baseTicks (c : Conc) (p : Nat) (x : PortLease) : (c.setLease p x).baseTicks = c.baseTicks := rfl
@[simp] theorem conc_setLease_od (c : Conc) (p : Nat) (x : PortLease) : (c.setLease p x).od = c.od := rfl
@[simp] theorem conc_setLease_free (c : Conc) (p : Nat) (x : PortLease) : (c.setLease p x).free = c.free := rfl
@[simp] theorem conc_setLease_lanes (c : Conc) (p : Nat) (x : PortLease) : (c.setLease p x).lanes = c.lanes := rfl
@[simp] theorem conc_setLease_quads (c : Conc) (p : Nat) (x : PortLease) : (c.setLease p x).quads = c.quads := rfl
@[simp] theorem conc_setLease_links (c : Conc) (p : Nat) (x : PortLease) : (c.setLease p x).links = c.links := rfl
@[simp] theorem conc_setLease_time (c : Conc) (p : Nat) (x : PortLease) : (c.setLease p x).time = c.time := rfl
@[simp] theorem conc_setLease_dict (c : Conc) (p : Nat) (x : PortLease) : (c.setLease p x).dict = c.dict := rfl
@[simp] theorem conc_setLease_pwr (c : Conc) (p : Nat) (x : PortLease) : (c.setLease p x).pwr = c.pwr := rfl
@[simp] theorem conc_setLease_faults (c : Conc) (p : Nat) (x : PortLease) : (c.setLease p x).faults = c.faults := rfl
@[simp] theorem conc_setLease_leases (c : Conc) (p : Nat) (x : PortLease) : (c.setLease p x).leases = Bank.set {} c.leases p x := rfl
@[simp] theorem conc_setLease_pair (c : Conc) (p : Nat) (x : PortLease) : (c.setLease p x).pair = c.pair := rfl
@[simp] theorem conc_setLease_boot (c : Conc) (p : Nat) (x : PortLease) : (c.setLease p x).boot = c.boot := rfl
@[simp] theorem conc_setLease_tap (c : Conc) (p : Nat) (x : PortLease) : (c.setLease p x).tap = c.tap := rfl
@[simp] theorem conc_setLease_flash (c : Conc) (p : Nat) (x : PortLease) : (c.setLease p x).flash = c.flash := rfl
@[simp] theorem conc_setLease_gather (c : Conc) (p : Nat) (x : PortLease) : (c.setLease p x).gather = c.gather := rfl
@[simp] theorem conc_setLease_caro (c : Conc) (p : Nat) (x : PortLease) : (c.setLease p x).caro = c.caro := rfl
@[simp] theorem conc_setLease_egr (c : Conc) (p : Nat) (x : PortLease) : (c.setLease p x).egr = c.egr := rfl
@[simp] theorem conc_setLease_mem (c : Conc) (p : Nat) (x : PortLease) : (c.setLease p x).mem = c.mem := rfl
@[simp] theorem conc_setLease_mov (c : Conc) (p : Nat) (x : PortLease) : (c.setLease p x).mov = c.mov := rfl
@[simp] theorem conc_setLease_eng (c : Conc) (p : Nat) (x : PortLease) : (c.setLease p x).eng = c.eng := rfl
@[simp] theorem conc_setLease_sec (c : Conc) (p : Nat) (x : PortLease) : (c.setLease p x).sec = c.sec := rfl
@[simp] theorem conc_setLease_adc (c : Conc) (p : Nat) (x : PortLease) : (c.setLease p x).adc = c.adc := rfl
@[simp] theorem conc_setLease_ctl (c : Conc) (p : Nat) (x : PortLease) : (c.setLease p x).ctl = c.ctl := rfl
@[simp] theorem conc_setLease_light (c : Conc) (p : Nat) (x : PortLease) : (c.setLease p x).light = c.light := rfl
@[simp] theorem conc_setLease_safety (c : Conc) (p : Nat) (x : PortLease) : (c.setLease p x).safety = c.safety := rfl

@[simp] theorem conc_setGport_tick (c : Conc) (p : Nat) (x : GPort) : (c.setGport p x).tick = c.tick := rfl
@[simp] theorem conc_setGport_now (c : Conc) (p : Nat) (x : GPort) : (c.setGport p x).now = c.now := rfl
@[simp] theorem conc_setGport_baseTicks (c : Conc) (p : Nat) (x : GPort) : (c.setGport p x).baseTicks = c.baseTicks := rfl
@[simp] theorem conc_setGport_od (c : Conc) (p : Nat) (x : GPort) : (c.setGport p x).od = c.od := rfl
@[simp] theorem conc_setGport_free (c : Conc) (p : Nat) (x : GPort) : (c.setGport p x).free = c.free := rfl
@[simp] theorem conc_setGport_lanes (c : Conc) (p : Nat) (x : GPort) : (c.setGport p x).lanes = c.lanes := rfl
@[simp] theorem conc_setGport_quads (c : Conc) (p : Nat) (x : GPort) : (c.setGport p x).quads = c.quads := rfl
@[simp] theorem conc_setGport_links (c : Conc) (p : Nat) (x : GPort) : (c.setGport p x).links = c.links := rfl
@[simp] theorem conc_setGport_time (c : Conc) (p : Nat) (x : GPort) : (c.setGport p x).time = c.time := rfl
@[simp] theorem conc_setGport_dict (c : Conc) (p : Nat) (x : GPort) : (c.setGport p x).dict = c.dict := rfl
@[simp] theorem conc_setGport_pwr (c : Conc) (p : Nat) (x : GPort) : (c.setGport p x).pwr = c.pwr := rfl
@[simp] theorem conc_setGport_faults (c : Conc) (p : Nat) (x : GPort) : (c.setGport p x).faults = c.faults := rfl
@[simp] theorem conc_setGport_leases (c : Conc) (p : Nat) (x : GPort) : (c.setGport p x).leases = c.leases := rfl
@[simp] theorem conc_setGport_pair (c : Conc) (p : Nat) (x : GPort) : (c.setGport p x).pair = c.pair := rfl
@[simp] theorem conc_setGport_boot (c : Conc) (p : Nat) (x : GPort) : (c.setGport p x).boot = c.boot := rfl
@[simp] theorem conc_setGport_tap (c : Conc) (p : Nat) (x : GPort) : (c.setGport p x).tap = c.tap := rfl
@[simp] theorem conc_setGport_flash (c : Conc) (p : Nat) (x : GPort) : (c.setGport p x).flash = c.flash := rfl
@[simp] theorem conc_setGport_caro (c : Conc) (p : Nat) (x : GPort) : (c.setGport p x).caro = c.caro := rfl
@[simp] theorem conc_setGport_egr (c : Conc) (p : Nat) (x : GPort) : (c.setGport p x).egr = c.egr := rfl
@[simp] theorem conc_setGport_mem (c : Conc) (p : Nat) (x : GPort) : (c.setGport p x).mem = c.mem := rfl
@[simp] theorem conc_setGport_mov (c : Conc) (p : Nat) (x : GPort) : (c.setGport p x).mov = c.mov := rfl
@[simp] theorem conc_setGport_eng (c : Conc) (p : Nat) (x : GPort) : (c.setGport p x).eng = c.eng := rfl
@[simp] theorem conc_setGport_sec (c : Conc) (p : Nat) (x : GPort) : (c.setGport p x).sec = c.sec := rfl
@[simp] theorem conc_setGport_adc (c : Conc) (p : Nat) (x : GPort) : (c.setGport p x).adc = c.adc := rfl
@[simp] theorem conc_setGport_ctl (c : Conc) (p : Nat) (x : GPort) : (c.setGport p x).ctl = c.ctl := rfl
@[simp] theorem conc_setGport_light (c : Conc) (p : Nat) (x : GPort) : (c.setGport p x).light = c.light := rfl
@[simp] theorem conc_setGport_safety (c : Conc) (p : Nat) (x : GPort) : (c.setGport p x).safety = c.safety := rfl

@[simp] theorem conc_setPtime_tick (c : Conc) (p : Nat) (x : PortTime) : (c.setPtime p x).tick = c.tick := rfl
@[simp] theorem conc_setPtime_now (c : Conc) (p : Nat) (x : PortTime) : (c.setPtime p x).now = c.now := rfl
@[simp] theorem conc_setPtime_baseTicks (c : Conc) (p : Nat) (x : PortTime) : (c.setPtime p x).baseTicks = c.baseTicks := rfl
@[simp] theorem conc_setPtime_od (c : Conc) (p : Nat) (x : PortTime) : (c.setPtime p x).od = c.od := rfl
@[simp] theorem conc_setPtime_free (c : Conc) (p : Nat) (x : PortTime) : (c.setPtime p x).free = c.free := rfl
@[simp] theorem conc_setPtime_lanes (c : Conc) (p : Nat) (x : PortTime) : (c.setPtime p x).lanes = c.lanes := rfl
@[simp] theorem conc_setPtime_quads (c : Conc) (p : Nat) (x : PortTime) : (c.setPtime p x).quads = c.quads := rfl
@[simp] theorem conc_setPtime_links (c : Conc) (p : Nat) (x : PortTime) : (c.setPtime p x).links = c.links := rfl
@[simp] theorem conc_setPtime_dict (c : Conc) (p : Nat) (x : PortTime) : (c.setPtime p x).dict = c.dict := rfl
@[simp] theorem conc_setPtime_pwr (c : Conc) (p : Nat) (x : PortTime) : (c.setPtime p x).pwr = c.pwr := rfl
@[simp] theorem conc_setPtime_faults (c : Conc) (p : Nat) (x : PortTime) : (c.setPtime p x).faults = c.faults := rfl
@[simp] theorem conc_setPtime_leases (c : Conc) (p : Nat) (x : PortTime) : (c.setPtime p x).leases = c.leases := rfl
@[simp] theorem conc_setPtime_pair (c : Conc) (p : Nat) (x : PortTime) : (c.setPtime p x).pair = c.pair := rfl
@[simp] theorem conc_setPtime_boot (c : Conc) (p : Nat) (x : PortTime) : (c.setPtime p x).boot = c.boot := rfl
@[simp] theorem conc_setPtime_tap (c : Conc) (p : Nat) (x : PortTime) : (c.setPtime p x).tap = c.tap := rfl
@[simp] theorem conc_setPtime_flash (c : Conc) (p : Nat) (x : PortTime) : (c.setPtime p x).flash = c.flash := rfl
@[simp] theorem conc_setPtime_gather (c : Conc) (p : Nat) (x : PortTime) : (c.setPtime p x).gather = c.gather := rfl
@[simp] theorem conc_setPtime_caro (c : Conc) (p : Nat) (x : PortTime) : (c.setPtime p x).caro = c.caro := rfl
@[simp] theorem conc_setPtime_egr (c : Conc) (p : Nat) (x : PortTime) : (c.setPtime p x).egr = c.egr := rfl
@[simp] theorem conc_setPtime_mem (c : Conc) (p : Nat) (x : PortTime) : (c.setPtime p x).mem = c.mem := rfl
@[simp] theorem conc_setPtime_mov (c : Conc) (p : Nat) (x : PortTime) : (c.setPtime p x).mov = c.mov := rfl
@[simp] theorem conc_setPtime_eng (c : Conc) (p : Nat) (x : PortTime) : (c.setPtime p x).eng = c.eng := rfl
@[simp] theorem conc_setPtime_sec (c : Conc) (p : Nat) (x : PortTime) : (c.setPtime p x).sec = c.sec := rfl
@[simp] theorem conc_setPtime_adc (c : Conc) (p : Nat) (x : PortTime) : (c.setPtime p x).adc = c.adc := rfl
@[simp] theorem conc_setPtime_ctl (c : Conc) (p : Nat) (x : PortTime) : (c.setPtime p x).ctl = c.ctl := rfl
@[simp] theorem conc_setPtime_light (c : Conc) (p : Nat) (x : PortTime) : (c.setPtime p x).light = c.light := rfl
@[simp] theorem conc_setPtime_safety (c : Conc) (p : Nat) (x : PortTime) : (c.setPtime p x).safety = c.safety := rfl

@[simp] theorem conc_setELane_tick (c : Conc) (n : Nat) (x : ELane) : (c.setELane n x).tick = c.tick := rfl
@[simp] theorem conc_setELane_now (c : Conc) (n : Nat) (x : ELane) : (c.setELane n x).now = c.now := rfl
@[simp] theorem conc_setELane_baseTicks (c : Conc) (n : Nat) (x : ELane) : (c.setELane n x).baseTicks = c.baseTicks := rfl
@[simp] theorem conc_setELane_od (c : Conc) (n : Nat) (x : ELane) : (c.setELane n x).od = c.od := rfl
@[simp] theorem conc_setELane_free (c : Conc) (n : Nat) (x : ELane) : (c.setELane n x).free = c.free := rfl
@[simp] theorem conc_setELane_lanes (c : Conc) (n : Nat) (x : ELane) : (c.setELane n x).lanes = c.lanes := rfl
@[simp] theorem conc_setELane_quads (c : Conc) (n : Nat) (x : ELane) : (c.setELane n x).quads = c.quads := rfl
@[simp] theorem conc_setELane_links (c : Conc) (n : Nat) (x : ELane) : (c.setELane n x).links = c.links := rfl
@[simp] theorem conc_setELane_time (c : Conc) (n : Nat) (x : ELane) : (c.setELane n x).time = c.time := rfl
@[simp] theorem conc_setELane_dict (c : Conc) (n : Nat) (x : ELane) : (c.setELane n x).dict = c.dict := rfl
@[simp] theorem conc_setELane_pwr (c : Conc) (n : Nat) (x : ELane) : (c.setELane n x).pwr = c.pwr := rfl
@[simp] theorem conc_setELane_faults (c : Conc) (n : Nat) (x : ELane) : (c.setELane n x).faults = c.faults := rfl
@[simp] theorem conc_setELane_leases (c : Conc) (n : Nat) (x : ELane) : (c.setELane n x).leases = c.leases := rfl
@[simp] theorem conc_setELane_pair (c : Conc) (n : Nat) (x : ELane) : (c.setELane n x).pair = c.pair := rfl
@[simp] theorem conc_setELane_boot (c : Conc) (n : Nat) (x : ELane) : (c.setELane n x).boot = c.boot := rfl
@[simp] theorem conc_setELane_tap (c : Conc) (n : Nat) (x : ELane) : (c.setELane n x).tap = c.tap := rfl
@[simp] theorem conc_setELane_flash (c : Conc) (n : Nat) (x : ELane) : (c.setELane n x).flash = c.flash := rfl
@[simp] theorem conc_setELane_gather (c : Conc) (n : Nat) (x : ELane) : (c.setELane n x).gather = c.gather := rfl
@[simp] theorem conc_setELane_caro (c : Conc) (n : Nat) (x : ELane) : (c.setELane n x).caro = c.caro := rfl
@[simp] theorem conc_setELane_mem (c : Conc) (n : Nat) (x : ELane) : (c.setELane n x).mem = c.mem := rfl
@[simp] theorem conc_setELane_mov (c : Conc) (n : Nat) (x : ELane) : (c.setELane n x).mov = c.mov := rfl
@[simp] theorem conc_setELane_eng (c : Conc) (n : Nat) (x : ELane) : (c.setELane n x).eng = c.eng := rfl
@[simp] theorem conc_setELane_sec (c : Conc) (n : Nat) (x : ELane) : (c.setELane n x).sec = c.sec := rfl
@[simp] theorem conc_setELane_adc (c : Conc) (n : Nat) (x : ELane) : (c.setELane n x).adc = c.adc := rfl
@[simp] theorem conc_setELane_ctl (c : Conc) (n : Nat) (x : ELane) : (c.setELane n x).ctl = c.ctl := rfl
@[simp] theorem conc_setELane_light (c : Conc) (n : Nat) (x : ELane) : (c.setELane n x).light = c.light := rfl
@[simp] theorem conc_setELane_safety (c : Conc) (n : Nat) (x : ELane) : (c.setELane n x).safety = c.safety := rfl

@[simp] theorem conc_setMover_tick (c : Conc) (n : Nat) (x : Mover) : (c.setMover n x).tick = c.tick := rfl
@[simp] theorem conc_setMover_now (c : Conc) (n : Nat) (x : Mover) : (c.setMover n x).now = c.now := rfl
@[simp] theorem conc_setMover_baseTicks (c : Conc) (n : Nat) (x : Mover) : (c.setMover n x).baseTicks = c.baseTicks := rfl
@[simp] theorem conc_setMover_od (c : Conc) (n : Nat) (x : Mover) : (c.setMover n x).od = c.od := rfl
@[simp] theorem conc_setMover_free (c : Conc) (n : Nat) (x : Mover) : (c.setMover n x).free = c.free := rfl
@[simp] theorem conc_setMover_lanes (c : Conc) (n : Nat) (x : Mover) : (c.setMover n x).lanes = c.lanes := rfl
@[simp] theorem conc_setMover_quads (c : Conc) (n : Nat) (x : Mover) : (c.setMover n x).quads = c.quads := rfl
@[simp] theorem conc_setMover_links (c : Conc) (n : Nat) (x : Mover) : (c.setMover n x).links = c.links := rfl
@[simp] theorem conc_setMover_time (c : Conc) (n : Nat) (x : Mover) : (c.setMover n x).time = c.time := rfl
@[simp] theorem conc_setMover_dict (c : Conc) (n : Nat) (x : Mover) : (c.setMover n x).dict = c.dict := rfl
@[simp] theorem conc_setMover_pwr (c : Conc) (n : Nat) (x : Mover) : (c.setMover n x).pwr = c.pwr := rfl
@[simp] theorem conc_setMover_faults (c : Conc) (n : Nat) (x : Mover) : (c.setMover n x).faults = c.faults := rfl
@[simp] theorem conc_setMover_leases (c : Conc) (n : Nat) (x : Mover) : (c.setMover n x).leases = c.leases := rfl
@[simp] theorem conc_setMover_pair (c : Conc) (n : Nat) (x : Mover) : (c.setMover n x).pair = c.pair := rfl
@[simp] theorem conc_setMover_boot (c : Conc) (n : Nat) (x : Mover) : (c.setMover n x).boot = c.boot := rfl
@[simp] theorem conc_setMover_tap (c : Conc) (n : Nat) (x : Mover) : (c.setMover n x).tap = c.tap := rfl
@[simp] theorem conc_setMover_flash (c : Conc) (n : Nat) (x : Mover) : (c.setMover n x).flash = c.flash := rfl
@[simp] theorem conc_setMover_gather (c : Conc) (n : Nat) (x : Mover) : (c.setMover n x).gather = c.gather := rfl
@[simp] theorem conc_setMover_caro (c : Conc) (n : Nat) (x : Mover) : (c.setMover n x).caro = c.caro := rfl
@[simp] theorem conc_setMover_egr (c : Conc) (n : Nat) (x : Mover) : (c.setMover n x).egr = c.egr := rfl
@[simp] theorem conc_setMover_mem (c : Conc) (n : Nat) (x : Mover) : (c.setMover n x).mem = c.mem := rfl
@[simp] theorem conc_setMover_eng (c : Conc) (n : Nat) (x : Mover) : (c.setMover n x).eng = c.eng := rfl
@[simp] theorem conc_setMover_sec (c : Conc) (n : Nat) (x : Mover) : (c.setMover n x).sec = c.sec := rfl
@[simp] theorem conc_setMover_adc (c : Conc) (n : Nat) (x : Mover) : (c.setMover n x).adc = c.adc := rfl
@[simp] theorem conc_setMover_ctl (c : Conc) (n : Nat) (x : Mover) : (c.setMover n x).ctl = c.ctl := rfl
@[simp] theorem conc_setMover_light (c : Conc) (n : Nat) (x : Mover) : (c.setMover n x).light = c.light := rfl
@[simp] theorem conc_setMover_safety (c : Conc) (n : Nat) (x : Mover) : (c.setMover n x).safety = c.safety := rfl

@[simp] theorem conc_setCtx_tick (c : Conc) (n : Nat) (x : Ctx) : (c.setCtx n x).tick = c.tick := rfl
@[simp] theorem conc_setCtx_now (c : Conc) (n : Nat) (x : Ctx) : (c.setCtx n x).now = c.now := rfl
@[simp] theorem conc_setCtx_baseTicks (c : Conc) (n : Nat) (x : Ctx) : (c.setCtx n x).baseTicks = c.baseTicks := rfl
@[simp] theorem conc_setCtx_od (c : Conc) (n : Nat) (x : Ctx) : (c.setCtx n x).od = c.od := rfl
@[simp] theorem conc_setCtx_free (c : Conc) (n : Nat) (x : Ctx) : (c.setCtx n x).free = c.free := rfl
@[simp] theorem conc_setCtx_lanes (c : Conc) (n : Nat) (x : Ctx) : (c.setCtx n x).lanes = c.lanes := rfl
@[simp] theorem conc_setCtx_quads (c : Conc) (n : Nat) (x : Ctx) : (c.setCtx n x).quads = c.quads := rfl
@[simp] theorem conc_setCtx_links (c : Conc) (n : Nat) (x : Ctx) : (c.setCtx n x).links = c.links := rfl
@[simp] theorem conc_setCtx_time (c : Conc) (n : Nat) (x : Ctx) : (c.setCtx n x).time = c.time := rfl
@[simp] theorem conc_setCtx_dict (c : Conc) (n : Nat) (x : Ctx) : (c.setCtx n x).dict = c.dict := rfl
@[simp] theorem conc_setCtx_pwr (c : Conc) (n : Nat) (x : Ctx) : (c.setCtx n x).pwr = c.pwr := rfl
@[simp] theorem conc_setCtx_faults (c : Conc) (n : Nat) (x : Ctx) : (c.setCtx n x).faults = c.faults := rfl
@[simp] theorem conc_setCtx_leases (c : Conc) (n : Nat) (x : Ctx) : (c.setCtx n x).leases = c.leases := rfl
@[simp] theorem conc_setCtx_pair (c : Conc) (n : Nat) (x : Ctx) : (c.setCtx n x).pair = c.pair := rfl
@[simp] theorem conc_setCtx_boot (c : Conc) (n : Nat) (x : Ctx) : (c.setCtx n x).boot = c.boot := rfl
@[simp] theorem conc_setCtx_tap (c : Conc) (n : Nat) (x : Ctx) : (c.setCtx n x).tap = c.tap := rfl
@[simp] theorem conc_setCtx_flash (c : Conc) (n : Nat) (x : Ctx) : (c.setCtx n x).flash = c.flash := rfl
@[simp] theorem conc_setCtx_gather (c : Conc) (n : Nat) (x : Ctx) : (c.setCtx n x).gather = c.gather := rfl
@[simp] theorem conc_setCtx_caro (c : Conc) (n : Nat) (x : Ctx) : (c.setCtx n x).caro = c.caro := rfl
@[simp] theorem conc_setCtx_egr (c : Conc) (n : Nat) (x : Ctx) : (c.setCtx n x).egr = c.egr := rfl
@[simp] theorem conc_setCtx_mem (c : Conc) (n : Nat) (x : Ctx) : (c.setCtx n x).mem = c.mem := rfl
@[simp] theorem conc_setCtx_mov (c : Conc) (n : Nat) (x : Ctx) : (c.setCtx n x).mov = c.mov := rfl
@[simp] theorem conc_setCtx_sec (c : Conc) (n : Nat) (x : Ctx) : (c.setCtx n x).sec = c.sec := rfl
@[simp] theorem conc_setCtx_adc (c : Conc) (n : Nat) (x : Ctx) : (c.setCtx n x).adc = c.adc := rfl
@[simp] theorem conc_setCtx_ctl (c : Conc) (n : Nat) (x : Ctx) : (c.setCtx n x).ctl = c.ctl := rfl
@[simp] theorem conc_setCtx_light (c : Conc) (n : Nat) (x : Ctx) : (c.setCtx n x).light = c.light := rfl
@[simp] theorem conc_setCtx_safety (c : Conc) (n : Nat) (x : Ctx) : (c.setCtx n x).safety = c.safety := rfl

@[simp] theorem conc_setLoop_tick (c : Conc) (n : Nat) (x : Loop) : (c.setLoop n x).tick = c.tick := rfl
@[simp] theorem conc_setLoop_now (c : Conc) (n : Nat) (x : Loop) : (c.setLoop n x).now = c.now := rfl
@[simp] theorem conc_setLoop_baseTicks (c : Conc) (n : Nat) (x : Loop) : (c.setLoop n x).baseTicks = c.baseTicks := rfl
@[simp] theorem conc_setLoop_od (c : Conc) (n : Nat) (x : Loop) : (c.setLoop n x).od = c.od := rfl
@[simp] theorem conc_setLoop_free (c : Conc) (n : Nat) (x : Loop) : (c.setLoop n x).free = c.free := rfl
@[simp] theorem conc_setLoop_lanes (c : Conc) (n : Nat) (x : Loop) : (c.setLoop n x).lanes = c.lanes := rfl
@[simp] theorem conc_setLoop_quads (c : Conc) (n : Nat) (x : Loop) : (c.setLoop n x).quads = c.quads := rfl
@[simp] theorem conc_setLoop_links (c : Conc) (n : Nat) (x : Loop) : (c.setLoop n x).links = c.links := rfl
@[simp] theorem conc_setLoop_time (c : Conc) (n : Nat) (x : Loop) : (c.setLoop n x).time = c.time := rfl
@[simp] theorem conc_setLoop_dict (c : Conc) (n : Nat) (x : Loop) : (c.setLoop n x).dict = c.dict := rfl
@[simp] theorem conc_setLoop_pwr (c : Conc) (n : Nat) (x : Loop) : (c.setLoop n x).pwr = c.pwr := rfl
@[simp] theorem conc_setLoop_faults (c : Conc) (n : Nat) (x : Loop) : (c.setLoop n x).faults = c.faults := rfl
@[simp] theorem conc_setLoop_leases (c : Conc) (n : Nat) (x : Loop) : (c.setLoop n x).leases = c.leases := rfl
@[simp] theorem conc_setLoop_pair (c : Conc) (n : Nat) (x : Loop) : (c.setLoop n x).pair = c.pair := rfl
@[simp] theorem conc_setLoop_boot (c : Conc) (n : Nat) (x : Loop) : (c.setLoop n x).boot = c.boot := rfl
@[simp] theorem conc_setLoop_tap (c : Conc) (n : Nat) (x : Loop) : (c.setLoop n x).tap = c.tap := rfl
@[simp] theorem conc_setLoop_flash (c : Conc) (n : Nat) (x : Loop) : (c.setLoop n x).flash = c.flash := rfl
@[simp] theorem conc_setLoop_gather (c : Conc) (n : Nat) (x : Loop) : (c.setLoop n x).gather = c.gather := rfl
@[simp] theorem conc_setLoop_caro (c : Conc) (n : Nat) (x : Loop) : (c.setLoop n x).caro = c.caro := rfl
@[simp] theorem conc_setLoop_egr (c : Conc) (n : Nat) (x : Loop) : (c.setLoop n x).egr = c.egr := rfl
@[simp] theorem conc_setLoop_mem (c : Conc) (n : Nat) (x : Loop) : (c.setLoop n x).mem = c.mem := rfl
@[simp] theorem conc_setLoop_mov (c : Conc) (n : Nat) (x : Loop) : (c.setLoop n x).mov = c.mov := rfl
@[simp] theorem conc_setLoop_eng (c : Conc) (n : Nat) (x : Loop) : (c.setLoop n x).eng = c.eng := rfl
@[simp] theorem conc_setLoop_sec (c : Conc) (n : Nat) (x : Loop) : (c.setLoop n x).sec = c.sec := rfl
@[simp] theorem conc_setLoop_adc (c : Conc) (n : Nat) (x : Loop) : (c.setLoop n x).adc = c.adc := rfl
@[simp] theorem conc_setLoop_light (c : Conc) (n : Nat) (x : Loop) : (c.setLoop n x).light = c.light := rfl
@[simp] theorem conc_setLoop_safety (c : Conc) (n : Nat) (x : Loop) : (c.setLoop n x).safety = c.safety := rfl

/-! ## The front-end -/

@[simp] theorem fe_withSys_tick (f : Fe) (g : FeSys → FeSys) : (f.withSys g).tick = f.tick := rfl
@[simp] theorem fe_withSys_now (f : Fe) (g : FeSys → FeSys) : (f.withSys g).now = f.now := rfl
@[simp] theorem fe_withSys_od (f : Fe) (g : FeSys → FeSys) : (f.withSys g).od = f.od := rfl
@[simp] theorem fe_withSys_chans (f : Fe) (g : FeSys → FeSys) : (f.withSys g).chans = f.chans := rfl
@[simp] theorem fe_withSys_slots (f : Fe) (g : FeSys → FeSys) : (f.withSys g).slots = f.slots := rfl
@[simp] theorem fe_withSys_groups (f : Fe) (g : FeSys → FeSys) : (f.withSys g).groups = f.groups := rfl
@[simp] theorem fe_withSys_epochs (f : Fe) (g : FeSys → FeSys) : (f.withSys g).epochs = f.epochs := rfl
@[simp] theorem fe_withSys_kind (f : Fe) (g : FeSys → FeSys) : (f.withSys g).kind = f.kind := rfl
@[simp] theorem fe_withSys_marks (f : Fe) (g : FeSys → FeSys) : (f.withSys g).marks = f.marks := rfl
@[simp] theorem fe_withSys_seenMark (f : Fe) (g : FeSys → FeSys) : (f.withSys g).seenMark = f.seenMark := rfl
@[simp] theorem fe_withSys_crystalQ (f : Fe) (g : FeSys → FeSys) : (f.withSys g).crystalQ = f.crystalQ := rfl
@[simp] theorem fe_withSys_offset (f : Fe) (g : FeSys → FeSys) : (f.withSys g).offset = f.offset := rfl
@[simp] theorem fe_withSys_walk (f : Fe) (g : FeSys → FeSys) : (f.withSys g).walk = f.walk := rfl
@[simp] theorem fe_withSys_walkEnable (f : Fe) (g : FeSys → FeSys) : (f.withSys g).walkEnable = f.walkEnable := rfl
@[simp] theorem fe_withSys_windowStart (f : Fe) (g : FeSys → FeSys) : (f.withSys g).windowStart = f.windowStart := rfl
@[simp] theorem fe_withSys_scaler (f : Fe) (g : FeSys → FeSys) : (f.withSys g).scaler = f.scaler := rfl
@[simp] theorem fe_withSys_secondWords (f : Fe) (g : FeSys → FeSys) : (f.withSys g).secondWords = f.secondWords := rfl
@[simp] theorem fe_withSys_merger (f : Fe) (g : FeSys → FeSys) : (f.withSys g).merger = f.merger := rfl
@[simp] theorem fe_withSys_class3 (f : Fe) (g : FeSys → FeSys) : (f.withSys g).class3 = f.class3 := rfl
@[simp] theorem fe_withSys_promise (f : Fe) (g : FeSys → FeSys) : (f.withSys g).promise = f.promise := rfl
@[simp] theorem fe_withSys_sides (f : Fe) (g : FeSys → FeSys) : (f.withSys g).sides = f.sides := rfl
@[simp] theorem fe_withSys_sys (f : Fe) (g : FeSys → FeSys) : (f.withSys g).sys = g f.sys := rfl
@[simp] theorem fe_withSys_free (f : Fe) (g : FeSys → FeSys) : (f.withSys g).free = f.free := rfl

@[simp] theorem fe_put_tick (f : Fe) (o : Obj) (v i : Nat) : (f.put o v i).tick = f.tick := rfl
@[simp] theorem fe_put_now (f : Fe) (o : Obj) (v i : Nat) : (f.put o v i).now = f.now := rfl
@[simp] theorem fe_put_od (f : Fe) (o : Obj) (v i : Nat) : (f.put o v i).od = f.od.put o v i := rfl
@[simp] theorem fe_put_chans (f : Fe) (o : Obj) (v i : Nat) : (f.put o v i).chans = f.chans := rfl
@[simp] theorem fe_put_slots (f : Fe) (o : Obj) (v i : Nat) : (f.put o v i).slots = f.slots := rfl
@[simp] theorem fe_put_groups (f : Fe) (o : Obj) (v i : Nat) : (f.put o v i).groups = f.groups := rfl
@[simp] theorem fe_put_epochs (f : Fe) (o : Obj) (v i : Nat) : (f.put o v i).epochs = f.epochs := rfl
@[simp] theorem fe_put_kind (f : Fe) (o : Obj) (v i : Nat) : (f.put o v i).kind = f.kind := rfl
@[simp] theorem fe_put_marks (f : Fe) (o : Obj) (v i : Nat) : (f.put o v i).marks = f.marks := rfl
@[simp] theorem fe_put_seenMark (f : Fe) (o : Obj) (v i : Nat) : (f.put o v i).seenMark = f.seenMark := rfl
@[simp] theorem fe_put_crystalQ (f : Fe) (o : Obj) (v i : Nat) : (f.put o v i).crystalQ = f.crystalQ := rfl
@[simp] theorem fe_put_offset (f : Fe) (o : Obj) (v i : Nat) : (f.put o v i).offset = f.offset := rfl
@[simp] theorem fe_put_walk (f : Fe) (o : Obj) (v i : Nat) : (f.put o v i).walk = f.walk := rfl
@[simp] theorem fe_put_walkEnable (f : Fe) (o : Obj) (v i : Nat) : (f.put o v i).walkEnable = f.walkEnable := rfl
@[simp] theorem fe_put_windowStart (f : Fe) (o : Obj) (v i : Nat) : (f.put o v i).windowStart = f.windowStart := rfl
@[simp] theorem fe_put_scaler (f : Fe) (o : Obj) (v i : Nat) : (f.put o v i).scaler = f.scaler := rfl
@[simp] theorem fe_put_secondWords (f : Fe) (o : Obj) (v i : Nat) : (f.put o v i).secondWords = f.secondWords := rfl
@[simp] theorem fe_put_merger (f : Fe) (o : Obj) (v i : Nat) : (f.put o v i).merger = f.merger := rfl
@[simp] theorem fe_put_class3 (f : Fe) (o : Obj) (v i : Nat) : (f.put o v i).class3 = f.class3 := rfl
@[simp] theorem fe_put_promise (f : Fe) (o : Obj) (v i : Nat) : (f.put o v i).promise = f.promise := rfl
@[simp] theorem fe_put_sides (f : Fe) (o : Obj) (v i : Nat) : (f.put o v i).sides = f.sides := rfl
@[simp] theorem fe_put_sys (f : Fe) (o : Obj) (v i : Nat) : (f.put o v i).sys = f.sys := rfl
@[simp] theorem fe_put_free (f : Fe) (o : Obj) (v i : Nat) : (f.put o v i).free = f.free := rfl

@[simp] theorem fe_setChan_tick (f : Fe) (n : Nat) (x : Chan) : (f.setChan n x).tick = f.tick := rfl
@[simp] theorem fe_setChan_now (f : Fe) (n : Nat) (x : Chan) : (f.setChan n x).now = f.now := rfl
@[simp] theorem fe_setChan_od (f : Fe) (n : Nat) (x : Chan) : (f.setChan n x).od = f.od := rfl
@[simp] theorem fe_setChan_chans (f : Fe) (n : Nat) (x : Chan) : (f.setChan n x).chans = Bank.set {} f.chans n x := rfl
@[simp] theorem fe_setChan_slots (f : Fe) (n : Nat) (x : Chan) : (f.setChan n x).slots = f.slots := rfl
@[simp] theorem fe_setChan_groups (f : Fe) (n : Nat) (x : Chan) : (f.setChan n x).groups = f.groups := rfl
@[simp] theorem fe_setChan_epochs (f : Fe) (n : Nat) (x : Chan) : (f.setChan n x).epochs = f.epochs := rfl
@[simp] theorem fe_setChan_kind (f : Fe) (n : Nat) (x : Chan) : (f.setChan n x).kind = f.kind := rfl
@[simp] theorem fe_setChan_marks (f : Fe) (n : Nat) (x : Chan) : (f.setChan n x).marks = f.marks := rfl
@[simp] theorem fe_setChan_seenMark (f : Fe) (n : Nat) (x : Chan) : (f.setChan n x).seenMark = f.seenMark := rfl
@[simp] theorem fe_setChan_crystalQ (f : Fe) (n : Nat) (x : Chan) : (f.setChan n x).crystalQ = f.crystalQ := rfl
@[simp] theorem fe_setChan_offset (f : Fe) (n : Nat) (x : Chan) : (f.setChan n x).offset = f.offset := rfl
@[simp] theorem fe_setChan_walk (f : Fe) (n : Nat) (x : Chan) : (f.setChan n x).walk = f.walk := rfl
@[simp] theorem fe_setChan_walkEnable (f : Fe) (n : Nat) (x : Chan) : (f.setChan n x).walkEnable = f.walkEnable := rfl
@[simp] theorem fe_setChan_windowStart (f : Fe) (n : Nat) (x : Chan) : (f.setChan n x).windowStart = f.windowStart := rfl
@[simp] theorem fe_setChan_scaler (f : Fe) (n : Nat) (x : Chan) : (f.setChan n x).scaler = f.scaler := rfl
@[simp] theorem fe_setChan_secondWords (f : Fe) (n : Nat) (x : Chan) : (f.setChan n x).secondWords = f.secondWords := rfl
@[simp] theorem fe_setChan_merger (f : Fe) (n : Nat) (x : Chan) : (f.setChan n x).merger = f.merger := rfl
@[simp] theorem fe_setChan_class3 (f : Fe) (n : Nat) (x : Chan) : (f.setChan n x).class3 = f.class3 := rfl
@[simp] theorem fe_setChan_promise (f : Fe) (n : Nat) (x : Chan) : (f.setChan n x).promise = f.promise := rfl
@[simp] theorem fe_setChan_sides (f : Fe) (n : Nat) (x : Chan) : (f.setChan n x).sides = f.sides := rfl
@[simp] theorem fe_setChan_sys (f : Fe) (n : Nat) (x : Chan) : (f.setChan n x).sys = f.sys := rfl
@[simp] theorem fe_setChan_free (f : Fe) (n : Nat) (x : Chan) : (f.setChan n x).free = f.free := rfl

@[simp] theorem fe_setSlot_tick (f : Fe) (g n : Nat) (x : Slot) : (f.setSlot g n x).tick = f.tick := rfl
@[simp] theorem fe_setSlot_now (f : Fe) (g n : Nat) (x : Slot) : (f.setSlot g n x).now = f.now := rfl
@[simp] theorem fe_setSlot_od (f : Fe) (g n : Nat) (x : Slot) : (f.setSlot g n x).od = f.od := rfl
@[simp] theorem fe_setSlot_chans (f : Fe) (g n : Nat) (x : Slot) : (f.setSlot g n x).chans = f.chans := rfl
@[simp] theorem fe_setSlot_slots (f : Fe) (g n : Nat) (x : Slot) : (f.setSlot g n x).slots = Bank.set {} f.slots (slotIx g n) x := rfl
@[simp] theorem fe_setSlot_groups (f : Fe) (g n : Nat) (x : Slot) : (f.setSlot g n x).groups = f.groups := rfl
@[simp] theorem fe_setSlot_epochs (f : Fe) (g n : Nat) (x : Slot) : (f.setSlot g n x).epochs = f.epochs := rfl
@[simp] theorem fe_setSlot_kind (f : Fe) (g n : Nat) (x : Slot) : (f.setSlot g n x).kind = f.kind := rfl
@[simp] theorem fe_setSlot_marks (f : Fe) (g n : Nat) (x : Slot) : (f.setSlot g n x).marks = f.marks := rfl
@[simp] theorem fe_setSlot_seenMark (f : Fe) (g n : Nat) (x : Slot) : (f.setSlot g n x).seenMark = f.seenMark := rfl
@[simp] theorem fe_setSlot_crystalQ (f : Fe) (g n : Nat) (x : Slot) : (f.setSlot g n x).crystalQ = f.crystalQ := rfl
@[simp] theorem fe_setSlot_offset (f : Fe) (g n : Nat) (x : Slot) : (f.setSlot g n x).offset = f.offset := rfl
@[simp] theorem fe_setSlot_walk (f : Fe) (g n : Nat) (x : Slot) : (f.setSlot g n x).walk = f.walk := rfl
@[simp] theorem fe_setSlot_walkEnable (f : Fe) (g n : Nat) (x : Slot) : (f.setSlot g n x).walkEnable = f.walkEnable := rfl
@[simp] theorem fe_setSlot_windowStart (f : Fe) (g n : Nat) (x : Slot) : (f.setSlot g n x).windowStart = f.windowStart := rfl
@[simp] theorem fe_setSlot_scaler (f : Fe) (g n : Nat) (x : Slot) : (f.setSlot g n x).scaler = f.scaler := rfl
@[simp] theorem fe_setSlot_secondWords (f : Fe) (g n : Nat) (x : Slot) : (f.setSlot g n x).secondWords = f.secondWords := rfl
@[simp] theorem fe_setSlot_merger (f : Fe) (g n : Nat) (x : Slot) : (f.setSlot g n x).merger = f.merger := rfl
@[simp] theorem fe_setSlot_class3 (f : Fe) (g n : Nat) (x : Slot) : (f.setSlot g n x).class3 = f.class3 := rfl
@[simp] theorem fe_setSlot_promise (f : Fe) (g n : Nat) (x : Slot) : (f.setSlot g n x).promise = f.promise := rfl
@[simp] theorem fe_setSlot_sides (f : Fe) (g n : Nat) (x : Slot) : (f.setSlot g n x).sides = f.sides := rfl
@[simp] theorem fe_setSlot_sys (f : Fe) (g n : Nat) (x : Slot) : (f.setSlot g n x).sys = f.sys := rfl
@[simp] theorem fe_setSlot_free (f : Fe) (g n : Nat) (x : Slot) : (f.setSlot g n x).free = f.free := rfl

@[simp] theorem fe_setGroup_tick (f : Fe) (g : Nat) (x : Group) : (f.setGroup g x).tick = f.tick := rfl
@[simp] theorem fe_setGroup_now (f : Fe) (g : Nat) (x : Group) : (f.setGroup g x).now = f.now := rfl
@[simp] theorem fe_setGroup_od (f : Fe) (g : Nat) (x : Group) : (f.setGroup g x).od = f.od := rfl
@[simp] theorem fe_setGroup_chans (f : Fe) (g : Nat) (x : Group) : (f.setGroup g x).chans = f.chans := rfl
@[simp] theorem fe_setGroup_slots (f : Fe) (g : Nat) (x : Group) : (f.setGroup g x).slots = f.slots := rfl
@[simp] theorem fe_setGroup_groups (f : Fe) (g : Nat) (x : Group) : (f.setGroup g x).groups = Bank.set {} f.groups g x := rfl
@[simp] theorem fe_setGroup_epochs (f : Fe) (g : Nat) (x : Group) : (f.setGroup g x).epochs = f.epochs := rfl
@[simp] theorem fe_setGroup_kind (f : Fe) (g : Nat) (x : Group) : (f.setGroup g x).kind = f.kind := rfl
@[simp] theorem fe_setGroup_marks (f : Fe) (g : Nat) (x : Group) : (f.setGroup g x).marks = f.marks := rfl
@[simp] theorem fe_setGroup_seenMark (f : Fe) (g : Nat) (x : Group) : (f.setGroup g x).seenMark = f.seenMark := rfl
@[simp] theorem fe_setGroup_crystalQ (f : Fe) (g : Nat) (x : Group) : (f.setGroup g x).crystalQ = f.crystalQ := rfl
@[simp] theorem fe_setGroup_offset (f : Fe) (g : Nat) (x : Group) : (f.setGroup g x).offset = f.offset := rfl
@[simp] theorem fe_setGroup_walk (f : Fe) (g : Nat) (x : Group) : (f.setGroup g x).walk = f.walk := rfl
@[simp] theorem fe_setGroup_walkEnable (f : Fe) (g : Nat) (x : Group) : (f.setGroup g x).walkEnable = f.walkEnable := rfl
@[simp] theorem fe_setGroup_windowStart (f : Fe) (g : Nat) (x : Group) : (f.setGroup g x).windowStart = f.windowStart := rfl
@[simp] theorem fe_setGroup_scaler (f : Fe) (g : Nat) (x : Group) : (f.setGroup g x).scaler = f.scaler := rfl
@[simp] theorem fe_setGroup_secondWords (f : Fe) (g : Nat) (x : Group) : (f.setGroup g x).secondWords = f.secondWords := rfl
@[simp] theorem fe_setGroup_merger (f : Fe) (g : Nat) (x : Group) : (f.setGroup g x).merger = f.merger := rfl
@[simp] theorem fe_setGroup_class3 (f : Fe) (g : Nat) (x : Group) : (f.setGroup g x).class3 = f.class3 := rfl
@[simp] theorem fe_setGroup_promise (f : Fe) (g : Nat) (x : Group) : (f.setGroup g x).promise = f.promise := rfl
@[simp] theorem fe_setGroup_sides (f : Fe) (g : Nat) (x : Group) : (f.setGroup g x).sides = f.sides := rfl
@[simp] theorem fe_setGroup_sys (f : Fe) (g : Nat) (x : Group) : (f.setGroup g x).sys = f.sys := rfl
@[simp] theorem fe_setGroup_free (f : Fe) (g : Nat) (x : Group) : (f.setGroup g x).free = f.free := rfl

@[simp] theorem fe_setSide_tick (f : Fe) (n : Nat) (x : FeSide) : (f.setSide n x).tick = f.tick := rfl
@[simp] theorem fe_setSide_now (f : Fe) (n : Nat) (x : FeSide) : (f.setSide n x).now = f.now := rfl
@[simp] theorem fe_setSide_od (f : Fe) (n : Nat) (x : FeSide) : (f.setSide n x).od = f.od := rfl
@[simp] theorem fe_setSide_chans (f : Fe) (n : Nat) (x : FeSide) : (f.setSide n x).chans = f.chans := rfl
@[simp] theorem fe_setSide_slots (f : Fe) (n : Nat) (x : FeSide) : (f.setSide n x).slots = f.slots := rfl
@[simp] theorem fe_setSide_groups (f : Fe) (n : Nat) (x : FeSide) : (f.setSide n x).groups = f.groups := rfl
@[simp] theorem fe_setSide_epochs (f : Fe) (n : Nat) (x : FeSide) : (f.setSide n x).epochs = f.epochs := rfl
@[simp] theorem fe_setSide_kind (f : Fe) (n : Nat) (x : FeSide) : (f.setSide n x).kind = f.kind := rfl
@[simp] theorem fe_setSide_marks (f : Fe) (n : Nat) (x : FeSide) : (f.setSide n x).marks = f.marks := rfl
@[simp] theorem fe_setSide_seenMark (f : Fe) (n : Nat) (x : FeSide) : (f.setSide n x).seenMark = f.seenMark := rfl
@[simp] theorem fe_setSide_crystalQ (f : Fe) (n : Nat) (x : FeSide) : (f.setSide n x).crystalQ = f.crystalQ := rfl
@[simp] theorem fe_setSide_offset (f : Fe) (n : Nat) (x : FeSide) : (f.setSide n x).offset = f.offset := rfl
@[simp] theorem fe_setSide_walk (f : Fe) (n : Nat) (x : FeSide) : (f.setSide n x).walk = f.walk := rfl
@[simp] theorem fe_setSide_walkEnable (f : Fe) (n : Nat) (x : FeSide) : (f.setSide n x).walkEnable = f.walkEnable := rfl
@[simp] theorem fe_setSide_windowStart (f : Fe) (n : Nat) (x : FeSide) : (f.setSide n x).windowStart = f.windowStart := rfl
@[simp] theorem fe_setSide_scaler (f : Fe) (n : Nat) (x : FeSide) : (f.setSide n x).scaler = f.scaler := rfl
@[simp] theorem fe_setSide_secondWords (f : Fe) (n : Nat) (x : FeSide) : (f.setSide n x).secondWords = f.secondWords := rfl
@[simp] theorem fe_setSide_merger (f : Fe) (n : Nat) (x : FeSide) : (f.setSide n x).merger = f.merger := rfl
@[simp] theorem fe_setSide_class3 (f : Fe) (n : Nat) (x : FeSide) : (f.setSide n x).class3 = f.class3 := rfl
@[simp] theorem fe_setSide_promise (f : Fe) (n : Nat) (x : FeSide) : (f.setSide n x).promise = f.promise := rfl
@[simp] theorem fe_setSide_sides (f : Fe) (n : Nat) (x : FeSide) : (f.setSide n x).sides = Bank.set {} f.sides n x := rfl
@[simp] theorem fe_setSide_sys (f : Fe) (n : Nat) (x : FeSide) : (f.setSide n x).sys = f.sys := rfl
@[simp] theorem fe_setSide_free (f : Fe) (n : Nat) (x : FeSide) : (f.setSide n x).free = f.free := rfl

end Sys2Proof.Laws
end

