-- ==== Sys2Proof/Laws/Ops.lean ====
section
/-! SUPPORT. What the shared operations of the whole block do: a command runs where its operands are ones it may have, an operation
on a part leaves the other part and the queue, a condition that holds lets the operation through. -/

namespace Sys2Proof.Laws

open Sys2Proof.Machine

/-! ## Running a command -/

theorem run_wf {i : Instr} (s : State) (g : State → State) (h : i.wf = true) : s.run i g = .next (g s) := by
  simp only [State.run, h, if_true]

theorem run_ill {i : Instr} (s : State) (g : State → State) (h : i.wf = false) : s.run i g = .fault .illFormed := by
  simp only [State.run, h, Bool.false_eq_true, if_false]

/-- A command that answers a next state is well formed, and the state is its effect. -/
theorem run_next_iff {i : Instr} {s t : State} {g : State → State} : s.run i g = .next t ↔ i.wf = true ∧ t = g s := by
  unfold State.run
  by_cases h : i.wf = true
  · rw [if_pos h]; exact ⟨fun e => ⟨h, (Host.Outcome.next.inj e).symm⟩, fun ⟨_, e⟩ => by rw [e]⟩
  · rw [if_neg h]; exact ⟨fun e => (nomatch e), fun ⟨e, _⟩ => absurd e h⟩

/-! ## Operations of one part -/

theorem onFeRaw_eq (s : State) (g : Fe → Fe) : s.onFeRaw g = { s with fe := g s.fe } := rfl
theorem onConcRaw_eq (s : State) (g : Conc → Conc) : s.onConcRaw g = { s with conc := g s.conc } := rfl

theorem onFe_up {s : State} (g : Fe → Fe) (h : s.fe.up = true) : s.onFe g = { s with fe := g s.fe } := by
  simp only [State.onFe, h, if_true, onFeRaw_eq]

theorem onConcUp_up {s : State} (g : Conc → Conc) (h : s.conc.up = true) : s.onConcUp g = { s with conc := g s.conc } := by
  simp only [State.onConcUp, h, if_true, onConcRaw_eq]

theorem onHardware_runs {s : State} (g : Conc → Conc) (h : s.conc.runs = true) : s.onHardware g = { s with conc := g s.conc } := by
  simp only [State.onHardware, h, if_true, onConcRaw_eq]

theorem onConc_up {s : State} (g : Conc → Conc) (h : s.conc.ringUp = true) : s.onConc g = { s with conc := g s.conc } := by
  simp only [State.onConc, h, if_true, onConcRaw_eq]

theorem onBase_baseUp {s : State} (g : Conc → Conc) (h : s.conc.baseUp = true) : s.onBase g = { s with conc := g s.conc } := by
  simp only [State.onBase, h, if_true, onConcRaw_eq]

theorem onAnalog_up {s : State} (g : Conc → Conc) (h : s.conc.analogUp = true) : s.onAnalog g = { s with conc := g s.conc } := by
  simp only [State.onAnalog, h, if_true, onConcRaw_eq]

theorem onSafety_up {s : State} (g : Conc → Conc) (h : s.conc.safetyUp = true) : s.onSafety g = { s with conc := g s.conc } := by
  simp only [State.onSafety, h, if_true, onConcRaw_eq]

@[simp] theorem onFe_conc (s : State) (g : Fe → Fe) : (s.onFe g).conc = s.conc := by unfold State.onFe; split <;> rfl
@[simp] theorem onFe_pending (s : State) (g : Fe → Fe) : (s.onFe g).pending = s.pending := by unfold State.onFe; split <;> rfl
@[simp] theorem onConcUp_fe (s : State) (g : Conc → Conc) : (s.onConcUp g).fe = s.fe := by unfold State.onConcUp; split <;> rfl
@[simp] theorem onConcUp_pending (s : State) (g : Conc → Conc) : (s.onConcUp g).pending = s.pending := by
  unfold State.onConcUp; split <;> rfl
@[simp] theorem onConc_fe (s : State) (g : Conc → Conc) : (s.onConc g).fe = s.fe := by unfold State.onConc; split <;> rfl
@[simp] theorem onConc_pending (s : State) (g : Conc → Conc) : (s.onConc g).pending = s.pending := by
  unfold State.onConc; split <;> rfl
@[simp] theorem onHardware_fe (s : State) (g : Conc → Conc) : (s.onHardware g).fe = s.fe := by unfold State.onHardware; split <;> rfl
@[simp] theorem onHardware_pending (s : State) (g : Conc → Conc) : (s.onHardware g).pending = s.pending := by
  unfold State.onHardware; split <;> rfl
@[simp] theorem onBase_fe (s : State) (g : Conc → Conc) : (s.onBase g).fe = s.fe := by unfold State.onBase; split <;> rfl
@[simp] theorem onBase_pending (s : State) (g : Conc → Conc) : (s.onBase g).pending = s.pending := by
  unfold State.onBase; split <;> rfl
@[simp] theorem onAnalog_fe (s : State) (g : Conc → Conc) : (s.onAnalog g).fe = s.fe := by unfold State.onAnalog; split <;> rfl
@[simp] theorem onAnalog_pending (s : State) (g : Conc → Conc) : (s.onAnalog g).pending = s.pending := by
  unfold State.onAnalog; split <;> rfl
@[simp] theorem onSafety_fe (s : State) (g : Conc → Conc) : (s.onSafety g).fe = s.fe := by unfold State.onSafety; split <;> rfl
@[simp] theorem onSafety_pending (s : State) (g : Conc → Conc) : (s.onSafety g).pending = s.pending := by
  unfold State.onSafety; split <;> rfl

/-! ## Operations of a part that the command names -/

@[simp] theorem at_conc (s : State) (g : Conc → Conc) (h : Fe → Fe) : s.at .conc g h = s.onHardware g := rfl
@[simp] theorem at_fe (s : State) (g : Conc → Conc) (h : Fe → Fe) : s.at .fe g h = s.onFe h := rfl
@[simp] theorem atUp_conc (s : State) (g : Conc → Conc) (h : Fe → Fe) : s.atUp .conc g h = s.onConcUp g := rfl
@[simp] theorem atUp_fe (s : State) (g : Conc → Conc) (h : Fe → Fe) : s.atUp .fe g h = s.onFe h := rfl
@[simp] theorem atRaw_conc (s : State) (g : Conc → Conc) (h : Fe → Fe) : s.atRaw .conc g h = s.onConcRaw g := rfl
@[simp] theorem atRaw_fe (s : State) (g : Conc → Conc) (h : Fe → Fe) : s.atRaw .fe g h = s.onFeRaw h := rfl
@[simp] theorem atLane_conc (s : State) (n : Nat) (g : Conc → Nat → Conc) (d u : Fe → Nat → Fe) :
    s.atLane (.conc n) g d u = s.onHardware fun c => g c n := rfl
@[simp] theorem atLane_feDown (s : State) (n : Nat) (g : Conc → Nat → Conc) (d u : Fe → Nat → Fe) :
    s.atLane (.feDown n) g d u = s.onFe fun f => d f n := rfl
@[simp] theorem atLane_feUp (s : State) (n : Nat) (g : Conc → Nat → Conc) (d u : Fe → Nat → Fe) :
    s.atLane (.feUp n) g d u = s.onFe fun f => u f n := rfl
@[simp] theorem mgmt_feDown (s : State) (n : Nat) (r : Req) : s.mgmt (.feDown n) r = s.onFe fun f => f.request n r := rfl
@[simp] theorem mgmt_backEnd (s : State) (n k : Nat) (r : Req) :
    s.mgmt (.backEnd n k) r = s.onConc fun c => c.request (laneBe n) k r := rfl
@[simp] theorem mgmt_peer (s : State) (n k : Nat) (r : Req) :
    s.mgmt (.peer n k) r = s.onConc fun c => c.request (lanePeer n) k r := rfl

/-- A gated block does nothing; any other has its effect. -/
theorem ungated_open {c : Conc} {b : Nat} (g : Conc → Conc) (h : c.gated b = false) : c.ungated b g = g c := by
  simp only [Conc.ungated, h, Bool.false_eq_true, if_false]

theorem ungated_gated {c : Conc} {b : Nat} (g : Conc → Conc) (h : c.gated b = true) : c.ungated b g = c := by
  simp only [Conc.ungated, h, if_true]

/-! ## The step -/

theorem step_cons (s : State) (i : Instr) (rest : List Instr) :
    step { s with pending := i :: rest } = exec i { s with pending := rest } := rfl

theorem step_idle (s : State) (h : s.pending = []) : step s = .next s.tick := by simp only [step, h]

end Sys2Proof.Laws
end

