-- ==== Sys2Proof/Laws/Access.lean ====
section
/-! SUPPORT. What an access that passes its checks does: the object's own effect and nothing else. -/

namespace Sys2Proof.Laws

open Sys2Proof.Machine

/-! ## The concentrator -/

/-- A write by a source that is served is judged on the concentrator as the access finds it. -/
theorem hostWrite_serves {c : Conc} {src lane busy index sub len v : Nat} (h : c.serves src) :
    c.hostWrite src lane busy index sub len v =
      match (c.asked src).writeObj src lane busy index sub len v with
      | (.ok d, _) => d
      | (.error a, d) => d.recordAbort src a index sub 0 := by
  obtain ⟨-, h2, h3⟩ := h
  unfold Conc.hostWrite
  simp only [h2, Bool.true_eq_false, if_false]
  simp only [Conc.asked] at h3 ⊢
  simp only [Conc.romRefuses, h3, Bool.false_and, Bool.false_eq_true, if_false]
  all_goals rfl

/-- A write that the object's card refuses, its block having its clock, changes nothing but the record of the abort. -/
theorem hostWrite_refused {c : Conc} {src lane busy index sub len v i : Nat} {o : Obj} {a : Abort} (h : c.serves src)
    (hl : lookupObj concObjs index sub = .ok (o, i)) (hg : (c.asked src).clocked index sub)
    (hc : o.checkWrite ((c.asked src).mayLock src) len v = .error a) :
    c.hostWrite src lane busy index sub len v =
      (c.asked src).recordAbort src ((c.asked src).refusal index sub a) index sub 0 := by
  rw [hostWrite_serves h]
  cases e : concBlockOf index sub with
  | none => simp only [Conc.writeObj, hl, e, Bool.false_eq_true, if_false, hc]
  | some b => simp only [Conc.writeObj, hl, e, hg b e, Bool.false_eq_true, if_false, hc]

/-- A change of a P object is noted for the partner and touches the pair only. -/
theorem noteChange_eq (c : Conc) (o : Obj) : c.noteChange o = { c with pair := (c.noteChange o).pair } := by
  unfold Conc.noteChange; split <;> rfl

@[simp] theorem noteChange_get (c : Conc) (o p : Obj) (i : Nat) : (c.noteChange o).get p i = c.get p i := by
  rw [noteChange_eq]; rfl

/-- A write that passes is applied to the concentrator as the access finds it. -/
theorem hostWrite_admits {c : Conc} {src lane busy index sub len v i : Nat} {o : Obj} (hl : lookupObj concObjs index sub = .ok (o, i))
    (hi : index = o.index ∧ sub = o.sub + i) (h : c.admits src o len v i) :
    c.hostWrite src lane busy index sub len v =
      match (c.asked src).applyWrite src lane busy o i len (o.taken len v) with
      | (.ok d, _) => d
      | (.error a, d) => d.recordAbort src a index sub 0 := by
  obtain ⟨⟨-, h2, h3⟩, h4, h5⟩ := h
  obtain ⟨rfl, rfl⟩ := hi
  unfold Conc.hostWrite
  simp only [h2, Bool.true_eq_false, if_false]
  simp only [Conc.asked] at h3 h4 h5 ⊢
  simp only [Conc.romRefuses, h3, Bool.false_and, Bool.false_eq_true, if_false, Conc.writeObj, hl]
  cases e : concBlockOf o.index (o.sub + i) with
  | none => simp only [Bool.false_eq_true, if_false, h4]; all_goals rfl
  | some b => simp only [h5 b e, Bool.false_eq_true, if_false, h4]; all_goals rfl

/-- A write that passes and that the object accepts. -/
theorem hostWrite_ok {c d e : Conc} {src lane busy index sub len v i : Nat} {o : Obj}
    (hl : lookupObj concObjs index sub = .ok (o, i)) (hi : index = o.index ∧ sub = o.sub + i) (h : c.admits src o len v i)
    (ha : (c.asked src).applyWrite src lane busy o i len (o.taken len v) = (.ok d, e)) :
    c.hostWrite src lane busy index sub len v = d := by
  rw [hostWrite_admits hl hi h, ha]

/-- A write of an object without a transfer of its own, applied and accepted. -/
theorem applyWrite_plain {c d : Conc} {src lane busy i len v : Nat} {o : Obj}
    (ho : ¬((o.index = 0x2604 ∧ o.sub = 1) ∨ o.index = 0x3003 ∨ (o.index = 0x3007 ∧ o.sub = 2) ∨ o.index = 0x2F02
      ∨ (o.index = 0x2F20 ∧ o.sub = 1)))
    (h : c.applyObj src busy o i len v = .ok d) : c.applyWrite src lane busy o i len v = (.ok (d.noteChange o), d.noteChange o) := by
  unfold Conc.applyWrite
  split <;> simp_all

/-- A write whose effect depends on more than its value, passed and accepted. -/
theorem hwWith_ok {c d : Conc} {src v : Nat} {o : Obj} {x : CanAccess} {g : Conc → Res Conc} (h : c.admits src o o.bytes v)
    (ha : g (c.asked src) = .ok d) : c.hwWith src o v x g = d.noteChange o := by
  obtain ⟨⟨-, h2, h3⟩, h4, -⟩ := h
  unfold Conc.hwWith
  simp only [h2, Bool.true_eq_false, if_false]
  simp only [Conc.asked] at h3 h4 ha
  simp only [Conc.romRefuses, h3, Bool.false_and, Bool.false_eq_true, if_false, h4, ha]

/-- A read that passes has the object's effect. -/
theorem hostRead_shows {c : Conc} {src i : Nat} {o : Obj} (hl : lookupObj concObjs o.index o.sub = .ok (o, i))
    (hr : o.readable = .ok ()) (h : c.shows src o) : c.hr src o = (c.asked src).readEffect o := by
  obtain ⟨⟨-, h2, h3⟩, h5⟩ := h
  unfold Conc.hr Conc.hostRead
  simp only [h2, Bool.true_eq_false, if_false]
  simp only [Conc.asked] at h3 h5 ⊢
  simp only [Conc.romRefuses, h3, Bool.false_and, Bool.false_eq_true, if_false, Conc.readObj, hl, hr]
  cases e : concBlockOf o.index o.sub with
  | none => rfl
  | some b => simp [h5 b e]

/-! ## The front-end -/

/-- A write on the leased downlink that passes is the object's own effect, or its refusal. -/
theorem feHostWrite_admits {f : Fe} {side busy index sub len v i : Nat} {o : Obj} (hl : lookupObj feObjs index sub = .ok (o, i))
    (h : f.admits side o len v) :
    f.hostWrite side busy index sub len v =
      match f.applyObj side busy o i (o.taken len v) with
      | .ok g => g
      | .error a => f.recordAbort side a index sub 0 := by
  obtain ⟨h1, h2, h3, h4⟩ := h
  simp only [Fe.runs, Bool.and_eq_true] at h1
  simp only [Fe.hostWrite, h1.2, Bool.true_eq_false, if_false, h2, if_true, Fe.writeObj, hl, h3, Bool.false_eq_true, h4]
  all_goals (cases f.applyObj side busy o i (o.taken len v) <;> rfl)

/-- A request on the other downlink is refused, counted and recorded (R318). -/
theorem feHostWrite_unleased {f : Fe} {side : Nat} (busy index sub len v : Nat) (hr : f.runs = true)
    (h : f.holder ≠ side + 1) :
    f.hostWrite side busy index sub len v = (f.count O.feUnleasedRequests).recordAbort side Abort.unreachable index sub 0 := by
  simp only [Fe.runs, Bool.and_eq_true] at hr
  simp only [Fe.hostWrite, hr.2, Bool.true_eq_false, h, if_false]

end Sys2Proof.Laws
end

