-- ==== Sys2Proof/Laws/Bank.lean ====
section
/-! SUPPORT. Sparse tables: reading what was written, leaving every other key alone, keeping the canonical form; and the same of
the bytes of memory. -/

namespace Sys2Proof.Laws

open Sys2Proof.Machine

variable {α : Type}

/-! ## Reading after writing -/

theorem find?_insert_same (b : Bank α) (k : Nat) (v : α) : Bank.find? (Bank.insert b k v) k = some v := by
  induction b with
  | nil => simp [Bank.insert, Bank.find?]
  | cons p b ih =>
    obtain ⟨k', v'⟩ := p
    by_cases h : k' = k
    · simp [Bank.insert, Bank.find?, h]
    · by_cases h2 : k < k'
      · simp [Bank.insert, Bank.find?, h, h2]
      · simp [Bank.insert, Bank.find?, h, h2, ih]

theorem find?_insert_other (b : Bank α) {j k : Nat} (v : α) (h : j ≠ k) : Bank.find? (Bank.insert b k v) j = Bank.find? b j := by
  induction b with
  | nil => simp [Bank.insert, Bank.find?, Ne.symm h]
  | cons p b ih =>
    obtain ⟨k', v'⟩ := p
    by_cases e : k' = k
    · subst e; simp [Bank.insert, Bank.find?, Ne.symm h]
    · by_cases h2 : k < k'
      · simp [Bank.insert, Bank.find?, e, h2, Ne.symm h]
      · simp only [Bank.insert, e, h2, if_false, Bank.find?]; split <;> simp_all

theorem find?_erase_other (b : Bank α) {j k : Nat} (h : j ≠ k) : Bank.find? (Bank.erase b k) j = Bank.find? b j := by
  induction b with
  | nil => rfl
  | cons p b ih =>
    obtain ⟨k', v'⟩ := p
    by_cases e : k' = k
    · subst e; simp [Bank.erase, Bank.find?, Ne.symm h, ih]
    · simp only [Bank.erase, e, if_false, Bank.find?]; split <;> simp_all

theorem find?_erase_same (b : Bank α) (k : Nat) : Bank.find? (Bank.erase b k) k = none := by
  induction b with
  | nil => rfl
  | cons p b ih =>
    obtain ⟨k', v⟩ := p
    by_cases e : k' = k
    · subst e; simp only [Bank.erase, if_true]; exact ih
    · simp only [Bank.erase, e, if_false, Bank.find?]; exact ih

/-! ## Tables held in one number -/

/-- An entry reads back what was written, within its width. -/
theorem entryGet_entrySet (w t i v : Nat) : entryGet w (entrySet w t i v) i = v % 2 ^ w := by
  have hp : 0 < 2 ^ (w * i) := Nat.two_pow_pos _
  have hs : 2 ^ (w * (i + 1)) = 2 ^ (w * i) * 2 ^ w := by rw [Nat.mul_succ, Nat.pow_add]
  have hm : t % 2 ^ (w * i) / 2 ^ (w * i) = 0 := Nat.div_eq_of_lt (Nat.mod_lt _ hp)
  unfold entryGet entrySet
  rw [hs, show t % 2 ^ (w * i) + v % 2 ^ w * 2 ^ (w * i) + t / (2 ^ (w * i) * 2 ^ w) * (2 ^ (w * i) * 2 ^ w)
      = t % 2 ^ (w * i) + 2 ^ (w * i) * (v % 2 ^ w + 2 ^ w * (t / (2 ^ (w * i) * 2 ^ w))) by
    rw [Nat.mul_add, Nat.mul_comm (v % 2 ^ w), ← Nat.add_assoc, Nat.mul_comm (t / (2 ^ (w * i) * 2 ^ w)), Nat.mul_assoc],
    Nat.add_mul_div_left _ _ hp, hm, Nat.zero_add, Nat.add_mul_mod_self_left, Nat.mod_mod]

section Canonical

variable [DecidableEq α]

theorem wfFrom_cons {d : α} {lo : Option Nat} {k : Nat} {v : α} {b : Bank α} :
    Bank.wfFrom d lo ((k, v) :: b) = true ↔ (∀ l, lo = some l → l < k) ∧ v ≠ d ∧ Bank.wfFrom d (some k) b = true := by
  cases lo <;> simp [Bank.wfFrom, and_assoc]

/-- A write is read back. -/
theorem get_set_same (d : α) (b : Bank α) (k : Nat) (v : α) : Bank.get d (Bank.set d b k v) k = v := by
  by_cases e : v = d
  · subst e; simp [Bank.set, Bank.get, find?_erase_same]
  · simp [Bank.set, e, Bank.get, find?_insert_same]

/-- A write leaves every other key alone. -/
theorem get_set_other {d : α} (b : Bank α) {j k : Nat} (v : α) (h : j ≠ k) : Bank.get d (Bank.set d b k v) j = Bank.get d b j := by
  by_cases e : v = d
  · simp [Bank.set, e, Bank.get, find?_erase_other b h]
  · simp [Bank.set, e, Bank.get, find?_insert_other b v h]

/-! ## The canonical form -/

theorem wfFrom_weaken {d : α} {b : Bank α} {l : Nat} {lo : Option Nat} (h : Bank.wfFrom d (some l) b = true)
    (hl : ∀ m, lo = some m → m ≤ l) : Bank.wfFrom d lo b = true := by
  cases b with
  | nil => rfl
  | cons p b =>
    obtain ⟨k, v⟩ := p
    obtain ⟨h1, h2, h3⟩ := wfFrom_cons.1 h
    exact wfFrom_cons.2 ⟨fun m hm => Nat.lt_of_le_of_lt (hl m hm) (h1 l rfl), h2, h3⟩

theorem erase_wfFrom {d : α} {b : Bank α} {lo : Option Nat} (k : Nat) (h : Bank.wfFrom d lo b = true) :
    Bank.wfFrom d lo (Bank.erase b k) = true := by
  induction b generalizing lo with
  | nil => rfl
  | cons p b ih =>
    obtain ⟨k', v⟩ := p
    obtain ⟨h1, h2, h3⟩ := wfFrom_cons.1 h
    by_cases e : k' = k
    · simp only [Bank.erase, e, if_true]; exact wfFrom_weaken (ih h3) fun m hm => Nat.le_of_lt (h1 m hm)
    · simp only [Bank.erase, e, if_false]; exact wfFrom_cons.2 ⟨h1, h2, ih h3⟩

theorem insert_wfFrom {d : α} {b : Bank α} {lo : Option Nat} {k : Nat} {v : α} (hv : v ≠ d) (hk : ∀ l, lo = some l → l < k)
    (h : Bank.wfFrom d lo b = true) : Bank.wfFrom d lo (Bank.insert b k v) = true := by
  induction b generalizing lo with
  | nil => exact wfFrom_cons.2 ⟨hk, hv, rfl⟩
  | cons p b ih =>
    obtain ⟨k', v'⟩ := p
    obtain ⟨h1, h2, h3⟩ := wfFrom_cons.1 h
    by_cases e : k' = k
    · subst e; simp only [Bank.insert, if_true]; exact wfFrom_cons.2 ⟨h1, hv, h3⟩
    · by_cases e2 : k < k'
      · simp only [Bank.insert, e, e2, if_false, if_true]
        refine wfFrom_cons.2 ⟨hk, hv, wfFrom_cons.2 ⟨fun l hl => ?_, h2, h3⟩⟩
        cases hl; exact e2
      · simp only [Bank.insert, e, e2, if_false]
        refine wfFrom_cons.2 ⟨h1, h2, ih (fun l hl => ?_) h3⟩
        cases hl; omega

/-- A write keeps the canonical form. -/
theorem set_wf {d : α} {b : Bank α} (k : Nat) (v : α) (h : Bank.wf d b = true) : Bank.wf d (Bank.set d b k v) = true := by
  by_cases e : v = d
  · simp only [Bank.set, e, if_true]; exact erase_wfFrom k h
  · simp only [Bank.set, e, if_false]; exact insert_wfFrom e (fun _ hl => by cases hl) h

end Canonical

end Sys2Proof.Laws
end

