-- ==== Sys2Proof/Laws/Fe.lean ====
section
/-! SUPPORT. The front-end: its tables read back what was written, and what its shared operations leave unchanged. -/

namespace Sys2Proof.Laws

open Sys2Proof.Machine

/-! ## Tables and objects -/

/-- A write leaves every other key alone, whatever each key reads as by default. -/
theorem get_set_elsewhere {α : Type} [DecidableEq α] (d d' : α) (b : Bank α) {j k : Nat} {v : α} (h : j ≠ k) :
    Bank.get d (Bank.set d' b k v) j = Bank.get d b j := by
  unfold Bank.get Bank.set
  split
  · rw [find?_erase_other _ h]
  · rw [find?_insert_other _ _ h]

@[simp] theorem fe_chan_setChan (f : Fe) (c : Nat) (x : Chan) : (f.setChan c x).chan c = x := get_set_same ..
theorem fe_chan_setChan_other (f : Fe) {c d : Nat} (x : Chan) (h : d ≠ c) : (f.setChan c x).chan d = f.chan d := get_set_other _ _ h
@[simp] theorem fe_group_setGroup (f : Fe) (g : Nat) (x : Group) : (f.setGroup g x).group g = x := get_set_same ..
theorem fe_group_setGroup_other (f : Fe) {g h : Nat} (x : Group) (e : h ≠ g) : (f.setGroup g x).group h = f.group h :=
  get_set_other _ _ e
@[simp] theorem fe_side_setSide (f : Fe) (g : Nat) (x : FeSide) : (f.setSide g x).side g = x := get_set_same ..
theorem fe_side_setSide_other (f : Fe) {g h : Nat} (x : FeSide) (e : h ≠ g) : (f.setSide g x).side h = f.side h := get_set_other _ _ e
@[simp] theorem fe_slot_setSlot (f : Fe) (g s : Nat) (x : Slot) : (f.setSlot g s x).slot g s = x := get_set_same ..
theorem fe_slot_setSlot_other (f : Fe) {g s g' s' : Nat} (x : Slot) (e : slotIx g' s' ≠ slotIx g s) :
    (f.setSlot g s x).slot g' s' = f.slot g' s' := get_set_other _ _ e
@[simp] theorem fe_get_put (f : Fe) (o : Obj) (v i : Nat) : (f.put o v i).get o i = v := get_set_same ..
theorem fe_get_put_other (f : Fe) {o p : Obj} {i j : Nat} (v : Nat) (h : p.key j ≠ o.key i) : (f.put o v i).get p j = f.get p j :=
  get_set_elsewhere _ _ _ h
theorem fe_get_count (f : Fe) (o : Obj) (i n : Nat) : (f.count o i n).get o i = satAdd (8 * o.bytes) (f.get o i) n := fe_get_put ..

@[simp] theorem conc_get_put (c : Conc) (o : Obj) (v i : Nat) : (c.put o v i).get o i = v := get_set_same ..
theorem conc_get_put_other (c : Conc) {o p : Obj} {i j : Nat} (v : Nat) (h : p.key j ≠ o.key i) : (c.put o v i).get p j = c.get p j :=
  get_set_elsewhere _ _ _ h

/-! ## Accessors see only their own table -/

@[simp] theorem fe_chan_put (f : Fe) (o : Obj) (v i c : Nat) : (f.put o v i).chan c = f.chan c := rfl
@[simp] theorem fe_chan_countEntry (f : Fe) (o : Obj) (w i n c : Nat) : (f.countEntry o w i n).chan c = f.chan c := rfl
@[simp] theorem fe_chan_setGroup (f : Fe) (g c : Nat) (x : Group) : (f.setGroup g x).chan c = f.chan c := rfl
@[simp] theorem fe_chan_setSlot (f : Fe) (g s c : Nat) (x : Slot) : (f.setSlot g s x).chan c = f.chan c := rfl
@[simp] theorem fe_chan_setSide (f : Fe) (i c : Nat) (x : FeSide) : (f.setSide i x).chan c = f.chan c := rfl
@[simp] theorem fe_chan_withSys (f : Fe) (h : FeSys → FeSys) (c : Nat) : (f.withSys h).chan c = f.chan c := rfl
@[simp] theorem fe_group_put (f : Fe) (o : Obj) (v i c : Nat) : (f.put o v i).group c = f.group c := rfl
@[simp] theorem fe_group_setChan (f : Fe) (g c : Nat) (x : Chan) : (f.setChan c x).group g = f.group g := rfl
@[simp] theorem fe_group_setSlot (f : Fe) (g s c : Nat) (x : Slot) : (f.setSlot g s x).group c = f.group c := rfl
@[simp] theorem fe_get_setChan (f : Fe) (c : Nat) (x : Chan) (o : Obj) (i : Nat) : (f.setChan c x).get o i = f.get o i := rfl
@[simp] theorem fe_get_setGroup (f : Fe) (c : Nat) (x : Group) (o : Obj) (i : Nat) : (f.setGroup c x).get o i = f.get o i := rfl
@[simp] theorem fe_get_setSlot (f : Fe) (c s : Nat) (x : Slot) (o : Obj) (i : Nat) : (f.setSlot c s x).get o i = f.get o i := rfl
@[simp] theorem fe_get_setSide (f : Fe) (c : Nat) (x : FeSide) (o : Obj) (i : Nat) : (f.setSide c x).get o i = f.get o i := rfl
@[simp] theorem fe_get_withSys (f : Fe) (h : FeSys → FeSys) (o : Obj) (i : Nat) : (f.withSys h).get o i = f.get o i := rfl
@[simp] theorem fe_slot_put (f : Fe) (o : Obj) (v i g s : Nat) : (f.put o v i).slot g s = f.slot g s := rfl
@[simp] theorem fe_slot_setChan (f : Fe) (g s c : Nat) (x : Chan) : (f.setChan c x).slot g s = f.slot g s := rfl
@[simp] theorem fe_slot_setGroup (f : Fe) (g s c : Nat) (x : Group) : (f.setGroup c x).slot g s = f.slot g s := rfl
@[simp] theorem fe_side_put (f : Fe) (o : Obj) (v i k : Nat) : (f.put o v i).side k = f.side k := rfl
@[simp] theorem fe_side_withSys (f : Fe) (h : FeSys → FeSys) (k : Nat) : (f.withSys h).side k = f.side k := rfl

/-! ## Frames: one equation that names every field that changes -/

/-- Closing a report changes the channels and the groups only. -/
theorem fe_closeReport_frame (f : Fe) (c : Nat) (rel : Bool) :
    f.closeReport c rel = { f with chans := (f.closeReport c rel).chans, groups := (f.closeReport c rel).groups } := by
  unfold Fe.closeReport; split <;> rfl

/-- A loss is counted, a report that holds 127 closes, and the loss joins the report of its channel or opens one. -/
theorem fe_lose_eq (f : Fe) (c : Nat) (k : LossCause) (e t : Nat) :
    ∃ g r, f.lose c k e t = g.setChan c { g.chan c with report := some r } ∧
      (g = f.countEntry O.lostHits 32 c ∨ g = (f.countEntry O.lostHits 32 c).closeReport c false) := by
  have key : ∀ g : Fe, (g = f.countEntry O.lostHits 32 c ∨ g = (f.countEntry O.lostHits 32 c).closeReport c false) →
      ∃ g' r, (match (g.chan c).report with
        | some r => g.setChan c { g.chan c with report := some { r with count := r.count + 1, causes := orBits r.causes k.bit } }
        | none => g.setChan c { g.chan c with report := some { epoch := e, time := t, count := 1, causes := k.bit } }) =
          g'.setChan c { g'.chan c with report := some r } ∧
        (g' = f.countEntry O.lostHits 32 c ∨ g' = (f.countEntry O.lostHits 32 c).closeReport c false) := by
    intro g hg
    split <;> exact ⟨g, _, rfl, hg⟩
  refine key _ ?_
  split
  · split
    · exact .inr rfl
    · exact .inl rfl
  · exact .inl rfl

/-- The order in which blocks of the sorter change is no concern of the channels. -/
theorem fe_chan_pushSorter (f : Fe) (g : Nat) (x : SortItem) (c : Nat) : (f.pushSorter g x).chan c = f.chan c := rfl

/-- Closing the report of a channel leaves every other field of the channel and every other channel. -/
theorem fe_chan_closeReport (f : Fe) (c : Nat) (rel : Bool) : (f.closeReport c rel).chan c = { f.chan c with report := none } := by
  unfold Fe.closeReport; split
  · rename_i h; rw [← h]
  · simp [fe_chan_pushSorter]

theorem fe_chan_closeReport_other (f : Fe) {c d : Nat} (rel : Bool) (h : d ≠ c) : (f.closeReport c rel).chan d = f.chan d := by
  unfold Fe.closeReport; split
  · rfl
  · simp [fe_chan_pushSorter, fe_chan_setChan_other _ _ h]

/-- A loss changes the report of its channel only. -/
theorem fe_chan_lose (f : Fe) (c : Nat) (k : LossCause) (e t : Nat) :
    ∃ r, (f.lose c k e t).chan c = { f.chan c with report := some r } := by
  obtain ⟨g, r, h, rfl | rfl⟩ := fe_lose_eq f c k e t
  · exact ⟨r, by rw [h, fe_chan_setChan, fe_chan_countEntry]⟩
  · exact ⟨r, by rw [h, fe_chan_setChan, fe_chan_closeReport, fe_chan_countEntry]⟩

theorem fe_chan_lose_other (f : Fe) {c d : Nat} (k : LossCause) (e t : Nat) (h : d ≠ c) : (f.lose c k e t).chan d = f.chan d := by
  obtain ⟨g, r, hg, rfl | rfl⟩ := fe_lose_eq f c k e t
  · rw [hg, fe_chan_setChan_other _ _ h, fe_chan_countEntry]
  · rw [hg, fe_chan_setChan_other _ _ h, fe_chan_closeReport_other _ _ h, fe_chan_countEntry]

/-- The ways in which a derandomiser takes a hit, once it is known whether it is seen full: appended, or the oldest (or the
next-oldest) entry is discarded for it. -/
theorem fe_derandWrite_cases (f : Fe) (c : Nat) (h : HitEntry) (reading : Bool) :
    ∃ g : Fe, (∀ d, g.chan d = f.chan d) ∧
      (f.derandWrite c h reading = g.setChan c { g.chan c with derand := (g.chan c).derand ++ [h] } ∨
        ∃ i old, (g.chan c).derand[i]? = some old ∧ f.derandWrite c h reading =
          (g.setChan c { g.chan c with derand := (g.chan c).derand.eraseIdx i ++ [h] }).lose c .overwrite old.epoch old.time) := by
  have key : ∀ (p : Bool × Fe) (i : Nat), ∃ g : Fe, (∀ d, g.chan d = p.2.chan d) ∧
      ((if p.1 = true then
        (match (p.2.chan c).derand[i]? with
          | none => p.2.setChan c { p.2.chan c with derand := (p.2.chan c).derand ++ [h] }
          | some old => (p.2.setChan c { p.2.chan c with derand := (p.2.chan c).derand.eraseIdx i ++ [h] }).lose c .overwrite
              old.epoch old.time)
        else p.2.setChan c { p.2.chan c with derand := (p.2.chan c).derand ++ [h] }) =
          g.setChan c { g.chan c with derand := (g.chan c).derand ++ [h] } ∨
        ∃ j old, (g.chan c).derand[j]? = some old ∧ (if p.1 = true then
        (match (p.2.chan c).derand[i]? with
          | none => p.2.setChan c { p.2.chan c with derand := (p.2.chan c).derand ++ [h] }
          | some old => (p.2.setChan c { p.2.chan c with derand := (p.2.chan c).derand.eraseIdx i ++ [h] }).lose c .overwrite
              old.epoch old.time)
        else p.2.setChan c { p.2.chan c with derand := (p.2.chan c).derand ++ [h] }) =
          (g.setChan c { g.chan c with derand := (g.chan c).derand.eraseIdx j ++ [h] }).lose c .overwrite old.epoch old.time) := by
    intro p i
    refine ⟨p.2, fun _ => rfl, ?_⟩
    split
    · split
      · exact .inl rfl
      · rename_i old ho; exact .inr ⟨i, old, ho, rfl⟩
    · exact .inl rfl
  obtain ⟨g, h1, h2⟩ := key (if 32 ≤ (f.chan c).derand.length then (true, f)
    else if 30 ≤ (f.chan c).derand.length then f.drawBool else (false, f)) (if reading then 1 else 0)
  refine ⟨g, fun d => (h1 d).trans ?_, h2⟩
  split
  · rfl
  · split <;> rfl

/-- Every write of the derandomiser ends in its hit; other channels stay. -/
theorem fe_derandWrite_last (f : Fe) (c : Nat) (h : HitEntry) (reading : Bool) :
    ((f.derandWrite c h reading).chan c).derand.getLast? = some h := by
  obtain ⟨g, -, e | ⟨i, old, -, e⟩⟩ := fe_derandWrite_cases f c h reading
  · rw [e, fe_chan_setChan]; exact List.getLast?_concat
  · obtain ⟨r, hr⟩ := fe_chan_lose (g.setChan c { g.chan c with derand := (g.chan c).derand.eraseIdx i ++ [h] }) c .overwrite
      old.epoch old.time
    rw [e, hr, fe_chan_setChan]; exact List.getLast?_concat

/-- It leaves the other fields of the channel but the report. -/
theorem fe_derandWrite_same (f : Fe) (c : Nat) (h : HitEntry) (reading : Bool) :
    ∃ l r, (f.derandWrite c h reading).chan c = { f.chan c with derand := l, report := r } := by
  obtain ⟨g, hg, e | ⟨i, old, -, e⟩⟩ := fe_derandWrite_cases f c h reading
  · exact ⟨_, _, by rw [e, fe_chan_setChan, hg]⟩
  · obtain ⟨r, hr⟩ := fe_chan_lose (g.setChan c { g.chan c with derand := (g.chan c).derand.eraseIdx i ++ [h] }) c .overwrite
      old.epoch old.time
    exact ⟨_, _, by rw [e, hr, fe_chan_setChan, hg]⟩

theorem fe_derandWrite_other (f : Fe) {c d : Nat} (h : HitEntry) (reading : Bool) (e : d ≠ c) :
    (f.derandWrite c h reading).chan d = f.chan d := by
  obtain ⟨g, hg, e' | ⟨i, old, -, e'⟩⟩ := fe_derandWrite_cases f c h reading
  · rw [e', fe_chan_setChan_other _ _ e, hg]
  · rw [e', fe_chan_lose_other _ _ _ _ e, fe_chan_setChan_other _ _ e, hg]

end Sys2Proof.Laws
end

