-- ==== Sys2Proof/Laws/FeClock.lean ====
section
/-! SUPPORT. The clock of the front-end and the second marks that wait: what each operation within a base tick leaves of them, so
that no mark that is due outlives its base tick. -/

namespace Sys2Proof.Laws

open Sys2Proof.Machine

/-- The base-tick counters and the second marks that wait for their execution. -/
def clockOf (f : Fe) : Nat × Nat × List (Nat × Nat) := (f.tick, f.now, f.marks)

@[simp] theorem clock_put (f : Fe) (o : Obj) (v i : Nat) : clockOf (f.put o v i) = clockOf f := rfl
@[simp] theorem clock_count (f : Fe) (o : Obj) (i n : Nat) : clockOf (f.count o i n) = clockOf f := rfl
@[simp] theorem clock_setChan (f : Fe) (c : Nat) (x : Chan) : clockOf (f.setChan c x) = clockOf f := rfl
@[simp] theorem clock_setSlot (f : Fe) (g s : Nat) (x : Slot) : clockOf (f.setSlot g s x) = clockOf f := rfl
@[simp] theorem clock_setGroup (f : Fe) (g : Nat) (x : Group) : clockOf (f.setGroup g x) = clockOf f := rfl
@[simp] theorem clock_setSide (f : Fe) (n : Nat) (x : FeSide) : clockOf (f.setSide n x) = clockOf f := rfl
@[simp] theorem clock_drawNat (f : Fe) : clockOf f.drawNat.2 = clockOf f := rfl
@[simp] theorem clock_emit (f : Fe) (side u : Nat) (r : Returns) (c : Cell) (t : Tx) : clockOf (f.emit side u r c t) = clockOf f := rfl
@[simp] theorem clock_upTest (f : Fe) (side u : Nat) : clockOf (f.upTest side u) = clockOf f := rfl
@[simp] theorem clock_pushSorter (f : Fe) (g : Nat) (x : SortItem) : clockOf (f.pushSorter g x) = clockOf f := rfl
@[simp] theorem clock_class2 (f : Fe) : clockOf f.class2Payload.2 = clockOf f := rfl
@[simp] theorem clock_class3 (f : Fe) : clockOf f.class3Payload.2 = clockOf f := rfl

/-- A fold of operations that each keep the clock keeps it. -/
theorem clock_fold {α : Type} {g : Fe → α → Fe} (h : ∀ f a, clockOf (g f a) = clockOf f) (l : List α) (f : Fe) :
    clockOf (l.foldl g f) = clockOf f := by
  induction l generalizing f with
  | nil => rfl
  | cons a l ih => rw [List.foldl_cons, ih, h]

theorem clock_if {p : Prop} [Decidable p] {a b : Fe} {c : Nat × Nat × List (Nat × Nat)} (ha : clockOf a = c) (hb : clockOf b = c) :
    clockOf (if p then a else b) = c := by split <;> assumption

@[simp] theorem clock_upData (f : Fe) (side u cls : Nat) : clockOf (f.upData side u cls).2.2 = clockOf f := by
  unfold Fe.upData
  split
  · exact clock_if rfl rfl
  · exact clock_if rfl rfl
  · exact (clock_class2 _).trans (clock_if rfl rfl)
  · rfl

@[simp] theorem clock_upSlot (f : Fe) (side u : Nat) (r : Returns) : clockOf (f.upSlot side u r) = clockOf f := by
  unfold Fe.upSlot
  refine clock_if rfl (clock_if rfl ?_)
  simp only
  split
  · rw [clock_emit, clock_setSide, clock_setSide]
  · split <;> rw [clock_emit, clock_setSide]
  · rw [clock_emit, clock_upData, clock_setSide]
  · rw [clock_emit, clock_setSide]

@[simp] theorem clock_uplinkSlot (f : Fe) (side : Nat) : clockOf (f.uplinkSlot side) = clockOf f := by
  unfold Fe.uplinkSlot
  exact clock_if ((clock_upSlot ..).trans ((clock_upSlot ..).trans rfl)) rfl

@[simp] theorem clock_histogramFull (f : Fe) (g s : Nat) : clockOf (f.histogramFull g s) = clockOf f := by
  unfold Fe.histogramFull
  exact clock_if rfl rfl

@[simp] theorem clock_histogram (f : Fe) (g s code : Nat) (real : Bool) : clockOf (f.histogram g s code real) = clockOf f := by
  unfold Fe.histogram
  exact clock_if rfl ((clock_setSlot ..).trans (clock_histogramFull ..))

@[simp] theorem clock_pulse (f : Fe) (g beat code : Nat) : clockOf (f.pulse g beat code) = clockOf f := by
  unfold Fe.pulse
  exact clock_if rfl ((clock_histogram ..).trans rfl)

@[simp] theorem clock_inject (f : Fe) (g beat code : Nat) : clockOf (f.inject g beat code) = clockOf f := by
  unfold Fe.inject
  exact clock_if rfl ((clock_pulse ..).trans rfl)

@[simp] theorem clock_injectFree (f : Fe) (g : Nat) : clockOf (f.injectFree g) = clockOf f := by
  unfold Fe.injectFree
  exact clock_if ((clock_inject ..).trans rfl) rfl

@[simp] theorem clock_swapSlot (f : Fe) (g s : Nat) : clockOf (f.swapSlot g s) = clockOf f := by
  unfold Fe.swapSlot
  simp only
  split
  · rfl
  · exact clock_if rfl rfl

@[simp] theorem clock_scalerEndChan (f : Fe) (irr : Bool) (c : Nat) : clockOf (f.scalerEndChan irr c) = clockOf f := by
  unfold Fe.scalerEndChan
  have h (a : Fe) (w : Word) : clockOf { a with class3 := a.class3 ++ [w] } = clockOf a := rfl
  refine clock_if ?_ ?_
  · rw [h, clock_put, clock_setChan]
  · rw [clock_put, clock_setChan]

@[simp] theorem clock_scalerEnd (f : Fe) (irr : Bool) : clockOf (f.scalerEnd irr) = clockOf f := by
  unfold Fe.scalerEnd
  have h := clock_fold (fun f c => clock_scalerEndChan f irr c) (List.range 256) f
  generalize (List.range 256).foldl (fun f c => f.scalerEndChan irr c) f = g at h ⊢
  exact h

@[simp] theorem clock_scalerMark (f : Fe) : clockOf f.scalerMark = clockOf f := by
  have h : clockOf (if 0 < f.now - f.scaler.start then
      f.scalerEnd (!f.scaler.marked || decide (f.now - f.scaler.start ≠ scalerTicks f.scaler.interval)) else f) = clockOf f :=
    clock_if (clock_scalerEnd ..) rfl
  unfold Fe.scalerMark
  simp only
  generalize (if 0 < f.now - f.scaler.start then
      f.scalerEnd (!f.scaler.marked || decide (f.now - f.scaler.start ≠ scalerTicks f.scaler.interval)) else f) = g at h ⊢
  exact clock_if h h

@[simp] theorem clock_slotReport (f : Fe) (g s : Nat) : clockOf (f.slotReport g s) = clockOf f := by
  unfold Fe.slotReport
  rfl

@[simp] theorem clock_groupEvent (f : Fe) (g a b : Nat) : clockOf (f.groupEvent g a b) = clockOf f := by
  unfold Fe.groupEvent
  rfl

@[simp] theorem clock_markStatus (f : Fe) (g : Nat) : clockOf (f.markStatus g) = clockOf f := by
  unfold Fe.markStatus
  refine clock_if (clock_fold (fun f s => ?_) _ _) (clock_groupEvent ..)
  split
  · exact clock_if (clock_slotReport ..) rfl
  · rfl

@[simp] theorem clock_feedSlot (f : Fe) (g s : Nat) : clockOf (f.feedSlot g s) = clockOf f := by
  unfold Fe.feedSlot
  exact clock_setSlot ..

theorem clock_feedSlots (l : List (Nat × Nat)) (f : Fe) : clockOf (l.foldl (fun f p => f.feedSlot p.1 p.2) f) = clockOf f :=
  clock_fold (g := fun (f : Fe) (p : Nat × Nat) => f.feedSlot p.1 p.2) (by intro f p; simp only [clock_feedSlot]) l f

theorem clock_swapSlots (l : List (Nat × Nat)) (f : Fe) : clockOf (l.foldl (fun f p => f.swapSlot p.1 p.2) f) = clockOf f :=
  clock_fold (g := fun (f : Fe) (p : Nat × Nat) => f.swapSlot p.1 p.2) (by intro f p; simp only [clock_swapSlot]) l f

theorem clock_markStatuses (l : List Nat) (f : Fe) : clockOf (l.foldl (fun f g => f.markStatus g) f) = clockOf f :=
  clock_fold (g := fun (f : Fe) (k : Nat) => f.markStatus k) (by intro f g; simp only [clock_markStatus]) l f

/-- Starting an epoch keeps the clock and the marks that wait. -/
@[simp] theorem clock_startEpoch (f : Fe) (second kind : Nat) : clockOf (f.startEpoch second kind) = clockOf f := by
  have h (a : Fe) : clockOf (a.beginEpoch second kind) = clockOf a := by unfold Fe.beginEpoch; rw [clock_put, clock_put]; rfl
  have h' (a : Fe) : clockOf a.takeCorrections = clockOf a := rfl
  have h'' : clockOf f.noteLength = clockOf f := clock_if rfl rfl
  unfold Fe.startEpoch
  rw [clock_markStatuses, h, Fe.swapTables, clock_feedSlots, clock_swapSlots, h', clock_scalerMark, h'']

@[simp] theorem clock_flywheel (f : Fe) : clockOf f.flywheel = clockOf f := by
  unfold Fe.flywheel
  exact clock_if ((clock_count ..).trans (clock_startEpoch ..)) rfl

/-- A mark that executes leaves the queue; the clock stays. -/
theorem clock_executeMark (f : Fe) :
    clockOf f.executeMark = (f.tick, f.now, match f.marks with | [] => [] | m :: rest => if m.1 ≤ f.now then rest else m :: rest) := by
  unfold Fe.executeMark
  split
  · rename_i h; rw [clockOf, h]
  · rename_i h
    split
    · rename_i hd; rw [clock_startEpoch, clockOf, h]; simp only [hd, if_true]
    · rename_i hd; rw [clockOf, h]; simp only [hd, if_false]

/-- Executing once for every mark that waits leaves the marks behind the ones that are due at the front. -/
theorem clock_executeMarks (ms : List (Nat × Nat)) (f : Fe) : ∀ n, f.marks = ms → ms.length ≤ n →
    ∀ l : List (Nat × Nat), l.length = n → clockOf (l.foldl (fun f _ => f.executeMark) f) =
      (f.tick, f.now, ms.dropWhile fun m => decide (m.1 ≤ f.now)) := by
  induction ms generalizing f with
  | nil =>
    intro n hm _ l _
    have : ∀ (l : List (Nat × Nat)) (f : Fe), f.marks = [] → l.foldl (fun f _ => f.executeMark) f = f := by
      intro l
      induction l with
      | nil => intros; rfl
      | cons a l ih => intro f h; rw [List.foldl_cons, show f.executeMark = f by unfold Fe.executeMark; rw [h], ih f h]
    rw [this l f hm, clockOf, hm]; rfl
  | cons m ms ih =>
    intro n hm hn l hl
    cases l with
    | nil => simp at hl; subst hl; simp at hn
    | cons a l =>
      rw [List.foldl_cons]
      have e := clock_executeMark f
      rw [hm] at e
      simp only at e
      by_cases hd : m.1 ≤ f.now
      · rw [if_pos hd] at e
        have h3 : f.executeMark.marks = ms := congrArg (fun x => x.2.2) e
        have h1 : f.executeMark.tick = f.tick := congrArg (fun x => x.1) e
        have h2 : f.executeMark.now = f.now := congrArg (fun x => x.2.1) e
        rw [ih f.executeMark (n - 1) h3 (by simp at hn; omega) l (by simp at hl; omega), h1, h2]
        rw [List.dropWhile_cons_of_pos (by simpa using hd)]
      · have : ∀ (l : List (Nat × Nat)), l.foldl (fun f _ => f.executeMark) f = f := by
          intro l
          induction l with
          | nil => rfl
          | cons a l ih => rw [List.foldl_cons, show f.executeMark = f by unfold Fe.executeMark; rw [hm]; simp only; rw [if_neg hd], ih]
        rw [← List.foldl_cons (f := fun (f : Fe) (_ : Nat × Nat) => f.executeMark) (a := a), this, clockOf, hm]
        simp [List.dropWhile, hd]

/-- The epochs due in a base tick leave the clock, and of the marks those behind the ones that are due at the front. -/
theorem clock_epochsDue (f : Fe) : clockOf f.epochsDue = (f.tick, f.now, f.marks.dropWhile fun m => decide (m.1 ≤ f.now)) := by
  unfold Fe.epochsDue
  rw [clock_flywheel]
  exact clock_executeMarks f.marks f _ rfl (Nat.le_refl _) f.marks rfl

@[simp] theorem clock_gatesIdle (f : Fe) : clockOf f.gatesIdle = clockOf f := by
  unfold Fe.gatesIdle
  refine clock_fold (fun f b => ?_) _ _
  refine clock_if ?_ rfl
  exact clock_if rfl rfl

/-- What is due in a base tick leaves the clock, and of the marks those behind the ones that are due at the front. -/
theorem clock_dueNow (f : Fe) : clockOf f.dueNow = (f.tick, f.now, f.marks.dropWhile fun m => decide (m.1 ≤ f.now)) := by
  have h := clock_epochsDue f
  unfold Fe.dueNow
  simp only
  generalize f.epochsDue = a at h ⊢
  have hb : clockOf ((List.range 16).foldl (fun f g => f.injectFree g) a) = clockOf a :=
    clock_fold (fun _ _ => clock_injectFree ..) _ _
  generalize (List.range 16).foldl (fun f g => f.injectFree g) a = b at hb ⊢
  exact (clock_if ((clock_gatesIdle _).trans ((clock_uplinkSlot ..).trans ((clock_uplinkSlot ..).trans hb))) hb).trans h

/-- Dropping what is due now and then what is due a tick later drops what is due a tick later. -/
theorem dropWhile_due (l : List (Nat × Nat)) (n : Nat) :
    (l.dropWhile fun m => decide (m.1 ≤ n)).dropWhile (fun m => decide (m.1 ≤ n + 1)) = l.dropWhile fun m => decide (m.1 ≤ n + 1) := by
  induction l with
  | nil => rfl
  | cons m l ih =>
    by_cases h : m.1 ≤ n
    · rw [List.dropWhile_cons_of_pos (by simpa using h), ih, List.dropWhile_cons_of_pos (by simp; omega)]
    · rw [List.dropWhile_cons_of_neg (by simpa using h)]

/-- What a tick does to the clock: the tick advances, and while the base clock runs so does its counter, and the marks due in the
tick that begins have executed. -/
theorem clock_tickOn (f : Fe) : clockOf f.tickOn = (f.tick + 1, if f.baseRuns then f.now + 1 else f.now,
    if f.baseRuns then f.marks.dropWhile fun m => decide (m.1 ≤ f.now + 1) else f.marks) := by
  have h := clock_dueNow f
  unfold Fe.tickOn
  split
  · rw [clockOf, Prod.mk.injEq, Prod.mk.injEq] at h
    rw [clock_epochsDue]
    simp only
    rw [h.1, h.2.1, h.2.2, dropWhile_due]
  · rfl

/-- The base-tick counters stand through what is due; a tick advances them by one, the part's while its base clock runs. -/
theorem tickOn_counters (f : Fe) : f.tickOn.tick = f.tick + 1 ∧ f.tickOn.now = if f.baseRuns then f.now + 1 else f.now :=
  ⟨congrArg (fun x => x.1) (clock_tickOn f), congrArg (fun x => x.2.1) (clock_tickOn f)⟩

/-- The marks that wait after a tick, while the base clock runs, are those behind the ones due at its front. -/
theorem tickOn_marks (f : Fe) (h : f.baseRuns = true) :
    f.tickOn.marks = f.marks.dropWhile fun m => decide (m.1 ≤ f.now + 1) := by
  have e : f.tickOn.marks = _ := congrArg (fun x => x.2.2) (clock_tickOn f)
  rw [e]
  simp only [h, if_true]

end Sys2Proof.Laws
end

