-- ==== Sys2Proof/Laws/Memory.lean ====
section
/-! SUPPORT. The operations over memory keep its canonical form; what each reads and leaves. -/

namespace Sys2Proof.Laws

open Sys2Proof.Machine

/-! ## One byte, bytes in a row -/

theorem byte_setByte_same (m : MemSt) (a v : Nat) : (m.setByte a v).byte a = v % 256 := by
  simp only [MemSt.setByte, MemSt.byte, get_set_same, BitVec.toNat_ofNat]

theorem byte_setByte_other (m : MemSt) {a b : Nat} (v : Nat) (h : b ≠ a) : (m.setByte a v).byte b = m.byte b := by
  simp only [MemSt.setByte, MemSt.byte, get_set_other m.bytes _ h]

theorem setByte_wf (m : MemSt) (a v : Nat) (h : Memory.wf m.bytes = true) : Memory.wf (m.setByte a v).bytes = true :=
  set_wf a _ h

theorem putBytes_wf (m : MemSt) (a : Nat) (bs : List Nat) (h : Memory.wf m.bytes = true) :
    Memory.wf (m.putBytes a bs).bytes = true := by
  induction bs generalizing m a with
  | nil => exact h
  | cons b bs ih => exact ih _ _ (setByte_wf m a b h)

theorem byte_putBytes_outside (m : MemSt) (a : Nat) (bs : List Nat) (x : Nat) (h : x < a ∨ a + bs.length ≤ x) :
    (m.putBytes a bs).byte x = m.byte x := by
  induction bs generalizing m a with
  | nil => rfl
  | cons b bs ih =>
    simp only [List.length_cons] at h
    rw [MemSt.putBytes, ih _ _ (by omega), byte_setByte_other m b (by omega)]

@[simp] theorem setErr_bytes (m : MemSt) (n : Nat) (e : Nat × Nat) : (m.setErr n e).bytes = m.bytes := rfl
@[simp] theorem upset_bytes (m : MemSt) (n d k : Nat) : (m.upset n d k).bytes = m.bytes := rfl
@[simp] theorem setByte_errs (m : MemSt) (a v : Nat) : (m.setByte a v).errs = m.errs := rfl

@[simp] theorem putBytes_errs (m : MemSt) (a : Nat) (bs : List Nat) : (m.putBytes a bs).errs = m.errs := by
  induction bs generalizing m a with
  | nil => rfl
  | cons b bs ih => rw [MemSt.putBytes, ih, setByte_errs]

/-! ## Poison, zeros, copies -/

theorem poison_wf (m : MemSt) (s : Nat) (h : Memory.wf m.bytes = true) : Memory.wf (m.poison s).bytes = true := by
  unfold MemSt.poison
  generalize List.range 4 = l
  induction l generalizing m with
  | nil => exact h
  | cons i l ih =>
    rw [List.foldl_cons]
    refine ih _ ?_
    rw [setErr_bytes]
    split
    · exact h
    · exact putBytes_wf _ _ _ h

theorem filter_wfFrom {α : Type} [DecidableEq α] {d : α} (p : Nat × α → Bool) {b : Bank α} {lo : Option Nat}
    (h : Bank.wfFrom d lo b = true) : Bank.wfFrom d lo (b.filter p) = true := by
  induction b generalizing lo with
  | nil => rfl
  | cons q b ih =>
    obtain ⟨k, v⟩ := q
    obtain ⟨h1, h2, h3⟩ := wfFrom_cons.1 h
    by_cases e : p (k, v) = true
    · rw [List.filter_cons_of_pos e]; exact wfFrom_cons.2 ⟨h1, h2, ih h3⟩
    · rw [List.filter_cons_of_neg e]; exact wfFrom_weaken (ih h3) fun m hm => Nat.le_of_lt (h1 m hm)

theorem zero_wf (m : MemSt) (lo hi : Nat) (h : Memory.wf m.bytes = true) : Memory.wf (m.zero lo hi).bytes = true :=
  filter_wfFrom _ h

theorem mem_ne {α : Type} [DecidableEq α] {d : α} {b : Bank α} {lo : Option Nat} (h : Bank.wfFrom d lo b = true) {p : Nat × α}
    (hp : p ∈ b) : p.2 ≠ d := by
  induction b generalizing lo with
  | nil => cases hp
  | cons q b ih =>
    obtain ⟨k, v⟩ := q
    obtain ⟨-, h2, h3⟩ := wfFrom_cons.1 h
    rcases List.mem_cons.1 hp with rfl | hp
    · exact h2
    · exact ih h3 hp

theorem copyRange_wf (m : MemSt) (src dst len : Nat) (h : Memory.wf m.bytes = true) :
    Memory.wf (m.copyRange src dst len).bytes = true := by
  have hz := zero_wf m dst (dst + len) h
  unfold MemSt.copyRange
  simp only
  generalize m.zero dst (dst + len) = z at hz ⊢
  suffices H : ∀ (l : List (Nat × BitVec 8)) (b : Memory), (∀ p ∈ l, p.2 ≠ 0#8) → Memory.wf b = true →
      Memory.wf (l.foldl (fun b p => Bank.insert b (p.1 - src + dst) p.2) b) = true by
    exact H _ _ (fun p hp => mem_ne hz ((List.mem_filter.1 hp).1)) hz
  intro l
  induction l with
  | nil => intro b _ hb; exact hb
  | cons p l ih =>
    intro b hl hb
    exact ih _ (fun q hq => hl q (List.mem_cons_of_mem _ hq))
      (insert_wfFrom (hl p List.mem_cons_self) (fun _ e => by cases e) hb)

/-- Memory right after reset is canonical. -/
theorem reset_wf : Memory.wf State.reset.conc.mem.bytes = true := rfl

end Sys2Proof.Laws
end

