-- ==== Sys2Proof/Tests/Slice0.lean ====
section
/-! SUPPORT. The tests: operands that commands refuse, states and operands that meet the hypotheses of every statement, and small
steps with results that the spec's rules give. -/

namespace Sys2Proof.Tests

open Sys2Proof.Machine

/-! ## States -/

set_option Elab.async false

/-- A checkpoint with nothing in it. -/
def blankCheckpoint : Checkpoint :=
  { gen := 0, od := [], ports := [], copies := [], times := [], incBase := 0, incAo := 0, slots := [], pwHash := 0 }

/-- The front-end in STANDBY with the lease at side A. -/
def readyFe : Fe :=
  ({ State.reset.fe with sys := { State.reset.fe.sys with inReset := false, bootStep := 5, mode := 2, leaseEnd := some 50000 } }).put O.leaseHolder 1

/-- The concentrator in STANDBY, alone, with a configuration session held by the peer. -/
def readyConc : Conc :=
  { State.reset.conc with
    boot := { State.reset.conc.boot with inReset := false, supplyOk := true, overTemp := false, recovery := false, step := 11 }
    pwr := { State.reset.conc.pwr with state := 3 }
    pair := { State.reset.conc.pair with state := 1 }
    dict := { State.reset.conc.dict with session := some 2, sessionLast := 0 } }

/-- Both parts ready, no command waiting. -/
def ready : State := { fe := readyFe, conc := readyConc, pending := [] }
/-- The ready state with another front-end. -/
def onFe (g : Fe → Fe) : State := { ready with fe := g readyFe }
/-- The ready state with another concentrator. -/
def onConc (g : Conc → Conc) : State := { ready with conc := g readyConc }
/-- The outcome is a next state with the property. -/
def answers (o : Host.Outcome State Fault Refusal) (p : State → Bool) : Bool := match o with | .next t => p t | _ => false
/-- A rule's answer is the success with this value. -/
def okWith {ε α : Type} (r : Except ε α) (p : α → Bool) : Bool := match r with | .ok a => p a | .error _ => false

/-! ## Accesses that pass, as tests -/

/-- The clock of the block of an object, as a test. -/
def clockedB (c : Conc) (index sub : Nat) : Bool := match concBlockOf index sub with | some b => !c.gated b | none => true
/-- The service of a source, as a test. -/
def servesB (c : Conc) (src : Nat) : Bool := c.up && (c.heard src).listens src && !(c.asked src).rom
/-- The checks of a write, as a test. -/
def passesB (c : Conc) (src : Nat) (o : Obj) (len v i : Nat) : Bool :=
  servesB c src && okWith (o.checkWrite ((c.asked src).mayLock src) len v) (fun w => decide (w = o.taken len v)) && clockedB (c.asked src) o.index (o.sub + i)
/-- The checks of a write at the front-end, as a test. -/
def fePassesB (f : Fe) (side : Nat) (o : Obj) (len v : Nat) : Bool :=
  f.runs && f.holder == side + 1 && !f.discardsWrite o && okWith (o.checkWrite false len v) (fun w => decide (w = o.taken len v))

theorem clocked_of_test {c : Conc} {index sub : Nat} (h : clockedB c index sub = true) : c.clocked index sub := by
  intro b hb; simpa [clockedB, hb] using h

theorem serves_of_test {c : Conc} {src : Nat} (h : servesB c src = true) : c.serves src := by
  simp only [servesB, Bool.and_eq_true, Bool.not_eq_true'] at h
  exact ⟨h.1.1, h.1.2, h.2⟩

theorem ok_of_test {ε α : Type} [DecidableEq α] {r : Except ε α} {v : α} (h : okWith r (fun a => decide (a = v)) = true) : r = .ok v := by
  cases r with
  | ok a => rw [of_decide_eq_true h]
  | error e => cases h

theorem admits_of_test {c : Conc} {src len v i : Nat} {o : Obj} (h : passesB c src o len v i = true) : c.admits src o len v i := by
  simp only [passesB, Bool.and_eq_true] at h
  exact ⟨serves_of_test h.1.1, ok_of_test h.1.2, clocked_of_test h.2⟩

theorem shows_of_test {c : Conc} {src : Nat} {o : Obj} (h : servesB c src = true) (hc : clockedB (c.asked src) o.index o.sub = true) :
    c.shows src o := ⟨serves_of_test h, clocked_of_test hc⟩

theorem fe_admits_of_test {f : Fe} {side len v : Nat} {o : Obj} (h : fePassesB f side o len v = true) : f.admits side o len v := by
  simp only [fePassesB, Bool.and_eq_true, beq_iff_eq] at h
  exact ⟨h.1.1.1, h.1.1.2, by simpa using h.1.2, ok_of_test h.2⟩

/-! ## Operands -/

/-- The commands with operands at the ends of their ranges are accepted, part 1. -/
theorem test_wf_accepts_1 :
  ([.adcStart 2, .adcDataRead 2, .loopConversionRequest 15 true, .adcConversionComplete 0 0, .adcCalibration,
    .maxLoopDelayRead 2, .excitationComplianceChange 1 true, .loopSample 15, .loopClearFault 2 15, .loopTuneStart 2 15,
    .loopTuneAccept 2 15, .loopTuneAbort 2 15, .tuneTimeout, .loopSetpointWrite 2 0, .loopGainsWrite 2 0,
    .loopStatusRead 2, .carouselStart 2, .carouselStop 2, .triginEdge 3 true 31 255 0, .randomTrigger,
    .lookbackRequest 17 0x41FFFFFFFFFFFFFF 0x42FFFFFFFFFFFFFF, .entryReady, .fillTimeout, .extractionStart 3,
    .extractionComplete 3, .prescaleGrid1ms, .prescaleGrid10ms, .carouselStatusRead 2, .clockSourceDead .conc 40,
    .clockSourceAlive .conc 40, .stabilityWindow .conc 40 true, .aoTrimWindow .conc 0, .aoCrystalReturn, .meterRun 2 255,
    .meterGateEnd 4294967295, .clockGateWrite .conc 2 65535 65535, .gateForce .conc 11, .powerRequestAsleep 2,
    .powerRequestColdStandby 2, .powerRequestStandby 2, .powerRequestObserve 2, .wakeAtAlarm, .wakeLadderComplete,
    .feModeRequestSleep 1, .feModeRequestStandby 1] :
    List Instr).all (fun i => i.wf) = true := by
  decide

/-- The commands with operands at the ends of their ranges are accepted, part 2. -/
theorem test_wf_accepts_2 :
  ([.feModeRequestObserve 1, .feSleepPark, .feWakeComplete, .probeSelectWrite .conc 2 7 4294967295,
    .tapInstructionUpdate .conc 0, .tapTokenUpdate 0, .dmiAccess 3 255 4294967295,
    .usdoRequest 127 true 65535 255 0 0 true true, .nmtStart, .nmtStop, .nmtEnterPreOperational, .nmtResetNode 255,
    .nmtResetCommunication 255, .canHeartbeat, .emcySend, .tpdoSend 4, .tpdoSend 1, .storeAll 2 3 4294967295,
    .restoreDefaults 2 3 4294967295, .sessionOpen 2 0 0, .sessionClose 2 255, .sessionTimeout, .passwordChange 2 0,
    .passwordLockoutEnd, .stagingTimeout .conc 2 65535 255, .relayRepeat, .relayTimeout, .errorHistoryClear 2 255,
    .registerWrite .conc 2 65535 255 0 0, .usdoTimeout 127, .class0CellBuild, .bulkRecordClose, .class0ResidenceRead 2,
    .engineInstruction 95, .qpop 95, .qpeek 95, .qtime 95, .qhist 95, .qtrig 95, .qemit 95, .qwait 95, .qslice 95,
    .qwaitLimitExpiry, .resultReturn 383 31, .feedDataArrival 383 0] :
    List Instr).all (fun i => i.wf) = true := by
  decide

/-- The commands with operands at the ends of their ranges are accepted, part 3. -/
theorem test_wf_accepts_3 :
  ([.ecallExit 95, .ecallSetRestart 95, .ecallLog 95, .serviceComplete 383, .instanceStart 2, .instanceSuspend 2,
    .instanceResume 2, .instanceKill 2, .drainComplete 383, .instanceRestart 2, .instanceRunnable 383, .taskLoad 2 255,
    .taskUnload 2 255, .parityRestart 383, .clusterIdleTimeout 12, .clusterWakeComplete 12, .faultDecrement .conc,
    .resourceSelfTestStart .conc 255 65535, .resourceSelfTestComplete .conc 255 65535 true, .annealRun 2,
    .annealPassComplete [], .annealBudgetExpiry, .feAnnealRun 1, .feAnnealComplete [], .hbmScrubLine true 7 0 255,
    .sramScrubWord 0 255, .scrubLineRetry 0 true, .feConfigScrub 0 0 [], .faultLogAck 2 4294967295,
    .feRetiredRestoreWrite 1 0, .secondMark 1 0x01FFFFFFFFFFFFFF 63 0, .secondMarkExecute, .flywheelEpochStart,
    .culletHistogramFull 15 16, .culletTableComputed 15 16, .pulserInject 15 31 255, .culletTableLoad 1 0 0,
    .culletFreezeWrite 1 65535, .histogramExponentWrite 1 255, .timeCorrectionWrite 1 65535 255 0 0,
    .groupRequestWake 1 65535, .groupRequestSleep 1 65535, .groupWake 1 0x03FFFFFFFFFFFFFF,
    .groupSleep 1 0x04FFFFFFFFFFFFFF, .groupPowerModeWrite 1 15 255] :
    List Instr).all (fun i => i.wf) = true := by
  decide

/-- The commands with operands at the ends of their ranges are accepted, part 4. -/
theorem test_wf_accepts_4 :
  ([.aoActivitySample 15, .groupPllLocked 15, .groupDllLocked 15, .groupWakeComplete 15, .groupIdleTimeout 15,
    .groupLockLoss 15, .gatherCellTake 95, .horizonAdvance, .laneStaleTimeout 95, .sliceComplete, .channelRatesPublish,
    .portEnableWrite 2 0, .rateWindowEnd, .sorterTake 15 0, .sorterRelease 15 0, .mergerTake, .uplinkSlot 1,
    .scalerIntervalEnd, .sorterStatusRead 1 15, .timingCrossing 255 31 255 0 (some 149), .trailingEdge 255 8191 0 true,
    .totSaturated 255 31 0 true, .lostHitReportFull 255, .baselineSaturationChange 255 0,
    .channelTableWrite 1 65535 255 0 0, .channelSettleEnd 255, .spareAssignWrite 1 15 255, .spareBlankEnd 255,
    .baselineStatusRead 1, .signalDetect (.conc 163), .signalDetect (.feDown 1), .signalDetect (.conc 48),
    .signalLoss (.conc 163), .signalLoss (.feDown 1), .signalLoss (.conc 48), .cdrLocked (.conc 163),
    .cdrLocked (.feDown 1), .cdrLocked (.conc 48), .cdrLockTimeout (.conc 163), .cdrLockTimeout (.feDown 1),
    .cdrLockTimeout (.conc 48), .cellArrival (.conc 163) 0, .cellArrival (.feDown 1) 0, .cellArrival (.conc 48) 0,
    .tightropeJudge 143] :
    List Instr).all (fun i => i.wf) = true := by
  decide

/-- The commands with operands at the ends of their ranges are accepted, part 5. -/
theorem test_wf_accepts_5 :
  ([.tightropeJudge 48, .tightropeRetry 143, .tightropeRetry 48, .trainDetectSense 163 true, .trainDetectSense 144 true,
    .trainDwellEnd 163, .trainDwellEnd 144, .trainingTimeout 163, .trainingTimeout 144, .trainHoldoffEnd 163,
    .trainHoldoffEnd 144, .laneParkRequest 2 163, .parkEntry 163, .laneUnpark 2 163, .unparkDeadline (.conc 163),
    .unparkDeadline (.feDown 1), .unparkDeadline (.conc 48), .prbsTestStart 2 163 3, .fePrbsTestStart 1 (.feUp 3) 3,
    .fePrbsTestStart 1 (.feDown 1) 3, .fePrbsTestStop 1 (.feUp 3), .fePrbsTestStop 1 (.feDown 1),
    .prbsDurationEnd (.feUp 3), .prbsDurationEnd (.feDown 1), .quadPllLockLoss .conc 40, .quadPllRelock .conc 40,
    .prbsCheckerLock (.conc 163), .prbsCheckerLock (.feDown 1), .prbsCheckerLock (.conc 48), .prbsBitError (.conc 163) 0,
    .prbsBitError (.feDown 1) 0, .prbsBitError (.conc 48) 0, .prbsTestStop 2 163, .laneEnableWrite 2 163 true,
    .flashFire 2 255, .flashStart, .flashEnd, .ledComplianceLoss 15, .ledComplianceRestored 15, .feedbackRunStart 2,
    .feedbackRunAbort 2, .feedbackStep [], .txSlot 163, .replayTimerExpiry (.conc 163), .replayTimerExpiry (.feUp 3)] :
    List Instr).all (fun i => i.wf) = true := by
  decide

/-- The commands with operands at the ends of their ranges are accepted, part 6. -/
theorem test_wf_accepts_6 :
  ([.ackProgressTimeout (.conc 163), .ackProgressTimeout (.feUp 3), .answerTimeout (.conc 163), .answerTimeout (.feUp 3),
    .mgmtRead (.backEnd 17 3) 65535 65535 255 true, .mgmtRead (.feDown 1) 65535 65535 255 true,
    .mgmtRead (.peer 1 1) 65535 65535 255 true, .mgmtWrite (.backEnd 17 3) 65535 65535 255 65535 0 true,
    .mgmtWrite (.feDown 1) 65535 65535 255 65535 0 true, .mgmtWrite (.peer 1 1) 65535 65535 255 65535 0 true,
    .mgmtReadAt (.backEnd 17 3) 65535 65535 255 4294967295 65535 true,
    .mgmtReadAt (.feDown 1) 65535 65535 255 4294967295 65535 true,
    .mgmtReadAt (.peer 1 1) 65535 65535 255 4294967295 65535 true,
    .mgmtWriteAt (.backEnd 17 3) 65535 65535 255 4294967295 true 65535 0 true,
    .mgmtWriteAt (.feDown 1) 65535 65535 255 4294967295 true 65535 0 true,
    .mgmtWriteAt (.peer 1 1) 65535 65535 255 4294967295 true 65535 0 true, .mgmtResponse 95 [],
    .echoRequest 1 0x02FFFFFFFFFFFFFF 0, .echoReply 95 0x11FFFFFFFFFFFFFF 31 0, .leaseRenew 1 0x05FFFFFFFFFFFFFF,
    .leaseClaim 1 0x06FFFFFFFFFFFFFF true, .leaseAck 95 0x12FFFFFFFFFFFFFF, .feFault 95 0x13FFFFFFFFFFFFFF,
    .beEchoRequest 17 0x40FFFFFFFFFFFFFF 0, .moverTailWrite 31 65535, .moverResume 31, .moverAbort 31, .moverCopy 31 0,
    .moverScatter 31 0, .moverFill 31 0, .moverSend 31 0, .moverCompress 31 0, .moverCrc 31 0, .descriptorComplete 31,
    .marverBlockFlush 31, .flipArmWrite 2 255, .eccLastErrorRead 2, .leaseExpiry, .leaseRenewSend 47, .leaseClaimSend 47,
    .localLeaseExpiry, .lockstepFailure, .failedHeartbeatEnd, .heartbeatSend, .heartbeat 1 0x50FFFFFFFFFFFFFF 0] :
    List Instr).all (fun i => i.wf) = true := by
  decide

/-- The commands with operands at the ends of their ranges are accepted, part 7. -/
theorem test_wf_accepts_7 :
  ([.heartbeatTime 1 0x51FFFFFFFFFFFFFF, .heartbeatLoss, .relinquish 1 0x52FFFFFFFFFFFFFF,
    .takeoverRequest 1 0x53FFFFFFFFFFFFFF, .takeoverComplete, .takeoverClaimTimeout, .checkpointPush,
    .checkpointReceive blankCheckpoint true, .checkpointImageReceive 0 0, .partnerRelinquish 2, .partnerRequestTakeover 2,
    .partnerForceTakeover 2, .roleDecision, .standbySelfTestStep true, .brownOut .conc, .supplyRelease .conc,
    .rstNAssert .conc 0, .rstNRelease .conc, .rstNStuck .conc, .resetCommand 2 4294967295, .feResetCommand 1 4294967295,
    .softwareResetDue .conc, .watchdogRestart, .watchdogExpiry, .bootWatchdogExpiry, .bootLadder 255 true [] true true,
    .warmupComplete, .warmupLimit, .feBootLadder [], .dieOvertempWarning .conc 0, .dieOvertempShutdown .conc 0,
    .rstNStuckRearm .conc, .dieOvertempRecovery .conc 0, .buckStop, .buckRestart, .safetyInputChange 3 0,
    .releaseDelayEnd, .biasRequestWrite 2 255, .relayFeedbackCheck 1 true, .testPulseStart 1, .testPulseEnd true true,
    .stimulusTest true true, .safetyClearFault 2, .safetyRunStimulus 2 true true, .safetyBundleWrite 2 0] :
    List Instr).all (fun i => i.wf) = true := by
  decide

/-- The commands with operands at the ends of their ranges are accepted, part 8. -/
theorem test_wf_accepts_8 :
  ([.ownerKeyEnrol 2 0 true, .firmwareFloorCommit 2 255, .ownerFloorCommit 2 255, .firmwareImageVerify 2 0 0,
    .firmwareActivate 2 255, .attestRun 2 255, .attestComplete, .debugToken 2 0, .debugLock 2 255, .rollover,
    .ppsWindowClose, .ppsEdge true 0, .alignArmWrite 2 255, .incrementWrite 2 true 0, .counterToAo, .counterToBase,
    .secondMarkSend 47, .tiuRunStart 2, .tiuRunAbort 2, .tiuEchoSend, .tiuStartEdge 31 true, .tiuStopEdge 31 0,
    .tiuSampleTimeout, .latencyPeriodDue 47, .timeNowRead 2, .ppsCaptureRead 2] :
    List Instr).all (fun i => i.wf) = true := by
  decide

/-- One operand beyond its range, or a word of another opcode, is refused, part 1. -/
theorem test_wf_refuses_1 :
  ([.adcStart 3, .adcDataRead 3, .loopConversionRequest 16 true, .maxLoopDelayRead 3, .excitationComplianceChange 2 true,
    .loopSample 16, .loopClearFault 3 15, .loopClearFault 2 16, .loopTuneStart 3 15, .loopTuneStart 2 16,
    .loopTuneAccept 3 15, .loopTuneAccept 2 16, .loopTuneAbort 3 15, .loopTuneAbort 2 16, .loopSetpointWrite 3 0,
    .loopGainsWrite 3 0, .loopStatusRead 3, .carouselStart 3, .carouselStop 3, .triginEdge 4 true 31 255 0,
    .triginEdge 3 true 32 255 0, .triginEdge 3 true 31 256 0, .lookbackRequest 18 0x41FFFFFFFFFFFFFF 0x42FFFFFFFFFFFFFF,
    .lookbackRequest 17 0x4200000000000000 0x42FFFFFFFFFFFFFF, .lookbackRequest 17 0x41FFFFFFFFFFFFFF 0x4300000000000000,
    .extractionStart 4, .extractionComplete 4, .carouselStatusRead 3, .clockSourceDead .conc 41,
    .clockSourceAlive .conc 41, .stabilityWindow .conc 41 true, .meterRun 3 255, .meterRun 2 256,
    .meterGateEnd 4294967296, .clockGateWrite .conc 3 65535 65535, .clockGateWrite .conc 2 65536 65535,
    .clockGateWrite .conc 2 65535 65536, .gateForce .conc 12, .powerRequestAsleep 3, .powerRequestColdStandby 3,
    .powerRequestStandby 3, .powerRequestObserve 3, .feModeRequestSleep 2, .feModeRequestStandby 2,
    .feModeRequestObserve 2] :
    List Instr).all (fun i => !i.wf) = true := by
  decide

/-- One operand beyond its range, or a word of another opcode, is refused, part 2. -/
theorem test_wf_refuses_2 :
  ([.probeSelectWrite .conc 3 7 4294967295, .probeSelectWrite .conc 2 8 4294967295, .probeSelectWrite .conc 2 7 4294967296,
    .dmiAccess 4 255 4294967295, .dmiAccess 3 256 4294967295, .dmiAccess 3 255 4294967296,
    .usdoRequest 128 true 65535 255 0 0 true true, .usdoRequest 127 true 65536 255 0 0 true true,
    .usdoRequest 127 true 65535 256 0 0 true true, .nmtResetNode 256, .nmtResetCommunication 256, .tpdoSend 0,
    .tpdoSend 5, .storeAll 3 3 4294967295, .storeAll 2 4 4294967295, .storeAll 2 3 4294967296,
    .restoreDefaults 3 3 4294967295, .restoreDefaults 2 4 4294967295, .restoreDefaults 2 3 4294967296, .sessionOpen 3 0 0,
    .sessionClose 3 255, .sessionClose 2 256, .passwordChange 3 0, .stagingTimeout .conc 3 65535 255,
    .stagingTimeout .conc 2 65536 255, .stagingTimeout .conc 2 65535 256, .errorHistoryClear 3 255,
    .errorHistoryClear 2 256, .registerWrite .conc 3 65535 255 0 0, .registerWrite .conc 2 65536 255 0 0,
    .registerWrite .conc 2 65535 256 0 0, .usdoTimeout 128, .class0ResidenceRead 3, .engineInstruction 96, .qpop 96,
    .qpeek 96, .qtime 96, .qhist 96, .qtrig 96, .qemit 96, .qwait 96, .qslice 96, .resultReturn 384 31,
    .resultReturn 383 32, .feedDataArrival 384 0] :
    List Instr).all (fun i => !i.wf) = true := by
  decide

/-- One operand beyond its range, or a word of another opcode, is refused, part 3. -/
theorem test_wf_refuses_3 :
  ([.ecallExit 96, .ecallSetRestart 96, .ecallLog 96, .serviceComplete 384, .instanceStart 3, .instanceSuspend 3,
    .instanceResume 3, .instanceKill 3, .drainComplete 384, .instanceRestart 3, .instanceRunnable 384, .taskLoad 3 255,
    .taskLoad 2 256, .taskUnload 3 255, .taskUnload 2 256, .parityRestart 384, .clusterIdleTimeout 13,
    .clusterWakeComplete 13, .resourceSelfTestStart .conc 256 65535, .resourceSelfTestStart .conc 255 65536,
    .resourceSelfTestComplete .conc 256 65535 true, .resourceSelfTestComplete .conc 255 65536 true, .annealRun 3,
    .feAnnealRun 2, .hbmScrubLine true 8 0 255, .hbmScrubLine true 7 0 256, .sramScrubWord 0 256,
    .faultLogAck 3 4294967295, .faultLogAck 2 4294967296, .feRetiredRestoreWrite 2 0,
    .secondMark 2 0x01FFFFFFFFFFFFFF 63 0, .secondMark 1 0x0200000000000000 63 0, .secondMark 1 0x01FFFFFFFFFFFFFF 64 0,
    .culletHistogramFull 16 16, .culletHistogramFull 15 17, .culletTableComputed 16 16, .culletTableComputed 15 17,
    .pulserInject 16 31 255, .pulserInject 15 32 255, .pulserInject 15 31 256, .culletTableLoad 2 0 0,
    .culletFreezeWrite 2 65535, .culletFreezeWrite 1 65536, .histogramExponentWrite 2 255, .histogramExponentWrite 1 256] :
    List Instr).all (fun i => !i.wf) = true := by
  decide

/-- One operand beyond its range, or a word of another opcode, is refused, part 4. -/
theorem test_wf_refuses_4 :
  ([.timeCorrectionWrite 2 65535 255 0 0, .timeCorrectionWrite 1 65536 255 0 0, .timeCorrectionWrite 1 65535 256 0 0,
    .groupRequestWake 2 65535, .groupRequestWake 1 65536, .groupRequestSleep 2 65535, .groupRequestSleep 1 65536,
    .groupWake 2 0x03FFFFFFFFFFFFFF, .groupWake 1 0x0400000000000000, .groupSleep 2 0x04FFFFFFFFFFFFFF,
    .groupSleep 1 0x0500000000000000, .groupPowerModeWrite 2 15 255, .groupPowerModeWrite 1 16 255,
    .groupPowerModeWrite 1 15 256, .aoActivitySample 16, .groupPllLocked 16, .groupDllLocked 16, .groupWakeComplete 16,
    .groupIdleTimeout 16, .groupLockLoss 16, .gatherCellTake 96, .laneStaleTimeout 96, .portEnableWrite 3 0,
    .sorterTake 16 0, .sorterRelease 16 0, .uplinkSlot 2, .sorterStatusRead 2 15, .sorterStatusRead 1 16,
    .timingCrossing 256 31 255 0 (some 149), .timingCrossing 255 32 255 0 (some 149),
    .timingCrossing 255 31 256 0 (some 149), .trailingEdge 256 8191 0 true, .trailingEdge 255 8192 0 true,
    .totSaturated 256 31 0 true, .totSaturated 255 32 0 true, .lostHitReportFull 256, .baselineSaturationChange 256 0,
    .channelTableWrite 2 65535 255 0 0, .channelTableWrite 1 65536 255 0 0, .channelTableWrite 1 65535 256 0 0,
    .channelSettleEnd 256, .spareAssignWrite 2 15 255, .spareAssignWrite 1 16 255, .spareAssignWrite 1 15 256,
    .spareBlankEnd 256] :
    List Instr).all (fun i => !i.wf) = true := by
  decide

/-- One operand beyond its range, or a word of another opcode, is refused, part 5. -/
theorem test_wf_refuses_5 :
  ([.baselineStatusRead 2, .signalDetect (.conc 47), .signalDetect (.conc 164), .signalDetect (.feDown 2),
    .signalDetect (.feUp 0), .signalLoss (.conc 47), .signalLoss (.conc 164), .signalLoss (.feDown 2),
    .signalLoss (.feUp 0), .cdrLocked (.conc 47), .cdrLocked (.conc 164), .cdrLocked (.feDown 2), .cdrLocked (.feUp 0),
    .cdrLockTimeout (.conc 47), .cdrLockTimeout (.conc 164), .cdrLockTimeout (.feDown 2), .cdrLockTimeout (.feUp 0),
    .cellArrival (.conc 47) 0, .cellArrival (.conc 164) 0, .cellArrival (.feDown 2) 0, .cellArrival (.feUp 0) 0,
    .tightropeJudge 47, .tightropeJudge 144, .tightropeRetry 47, .tightropeRetry 144, .trainDetectSense 143 true,
    .trainDetectSense 164 true, .trainDwellEnd 143, .trainDwellEnd 164, .trainingTimeout 143, .trainingTimeout 164,
    .trainHoldoffEnd 143, .trainHoldoffEnd 164, .laneParkRequest 3 163, .laneParkRequest 2 164, .parkEntry 164,
    .laneUnpark 3 163, .laneUnpark 2 164, .unparkDeadline (.conc 47), .unparkDeadline (.conc 164),
    .unparkDeadline (.feDown 2), .unparkDeadline (.feUp 0), .prbsTestStart 3 163 3, .prbsTestStart 2 164 3,
    .prbsTestStart 2 163 4] :
    List Instr).all (fun i => !i.wf) = true := by
  decide

/-- One operand beyond its range, or a word of another opcode, is refused, part 6. -/
theorem test_wf_refuses_6 :
  ([.fePrbsTestStart 2 (.feUp 3) 3, .fePrbsTestStart 1 (.feUp 4) 3, .fePrbsTestStart 1 (.feDown 2) 3,
    .fePrbsTestStart 1 (.conc 0) 3, .fePrbsTestStart 1 (.feUp 3) 4, .fePrbsTestStop 2 (.feUp 3),
    .fePrbsTestStop 1 (.feUp 4), .fePrbsTestStop 1 (.feDown 2), .fePrbsTestStop 1 (.conc 0), .prbsDurationEnd (.feUp 4),
    .prbsDurationEnd (.feDown 2), .prbsDurationEnd (.conc 0), .quadPllLockLoss .conc 41, .quadPllRelock .conc 41,
    .prbsCheckerLock (.conc 47), .prbsCheckerLock (.conc 164), .prbsCheckerLock (.feDown 2), .prbsCheckerLock (.feUp 0),
    .prbsBitError (.conc 47) 0, .prbsBitError (.conc 164) 0, .prbsBitError (.feDown 2) 0, .prbsBitError (.feUp 0) 0,
    .prbsTestStop 3 163, .prbsTestStop 2 164, .laneEnableWrite 3 163 true, .laneEnableWrite 2 164 true, .flashFire 3 255,
    .flashFire 2 256, .ledComplianceLoss 16, .ledComplianceRestored 16, .feedbackRunStart 3, .feedbackRunAbort 3,
    .txSlot 164, .replayTimerExpiry (.conc 164), .replayTimerExpiry (.feUp 4), .replayTimerExpiry (.feDown 0),
    .ackProgressTimeout (.conc 164), .ackProgressTimeout (.feUp 4), .ackProgressTimeout (.feDown 0),
    .answerTimeout (.conc 164), .answerTimeout (.feUp 4), .answerTimeout (.feDown 0),
    .mgmtRead (.backEnd 18 1) 65535 65535 255 true, .mgmtRead (.backEnd 0 2) 65535 65535 255 true,
    .mgmtRead (.feDown 2) 65535 65535 255 true] :
    List Instr).all (fun i => !i.wf) = true := by
  decide

/-- One operand beyond its range, or a word of another opcode, is refused, part 7. -/
theorem test_wf_refuses_7 :
  ([.mgmtRead (.peer 2 3) 65535 65535 255 true, .mgmtRead (.peer 0 0) 65535 65535 255 true,
    .mgmtRead (.backEnd 17 3) 65536 65535 255 true, .mgmtRead (.backEnd 17 3) 65535 65536 255 true,
    .mgmtRead (.backEnd 17 3) 65535 65535 256 true, .mgmtWrite (.backEnd 18 1) 65535 65535 255 65535 0 true,
    .mgmtWrite (.backEnd 0 2) 65535 65535 255 65535 0 true, .mgmtWrite (.feDown 2) 65535 65535 255 65535 0 true,
    .mgmtWrite (.peer 2 3) 65535 65535 255 65535 0 true, .mgmtWrite (.peer 0 0) 65535 65535 255 65535 0 true,
    .mgmtWrite (.backEnd 17 3) 65536 65535 255 65535 0 true, .mgmtWrite (.backEnd 17 3) 65535 65536 255 65535 0 true,
    .mgmtWrite (.backEnd 17 3) 65535 65535 256 65535 0 true, .mgmtWrite (.backEnd 17 3) 65535 65535 255 65536 0 true,
    .mgmtReadAt (.backEnd 18 1) 65535 65535 255 4294967295 65535 true,
    .mgmtReadAt (.backEnd 0 2) 65535 65535 255 4294967295 65535 true,
    .mgmtReadAt (.feDown 2) 65535 65535 255 4294967295 65535 true,
    .mgmtReadAt (.peer 2 3) 65535 65535 255 4294967295 65535 true,
    .mgmtReadAt (.peer 0 0) 65535 65535 255 4294967295 65535 true,
    .mgmtReadAt (.backEnd 17 3) 65536 65535 255 4294967295 65535 true,
    .mgmtReadAt (.backEnd 17 3) 65535 65536 255 4294967295 65535 true,
    .mgmtReadAt (.backEnd 17 3) 65535 65535 256 4294967295 65535 true,
    .mgmtReadAt (.backEnd 17 3) 65535 65535 255 4294967296 65535 true,
    .mgmtReadAt (.backEnd 17 3) 65535 65535 255 4294967295 65536 true,
    .mgmtWriteAt (.backEnd 18 1) 65535 65535 255 4294967295 true 65535 0 true,
    .mgmtWriteAt (.backEnd 0 2) 65535 65535 255 4294967295 true 65535 0 true,
    .mgmtWriteAt (.feDown 2) 65535 65535 255 4294967295 true 65535 0 true,
    .mgmtWriteAt (.peer 2 3) 65535 65535 255 4294967295 true 65535 0 true,
    .mgmtWriteAt (.peer 0 0) 65535 65535 255 4294967295 true 65535 0 true,
    .mgmtWriteAt (.backEnd 17 3) 65536 65535 255 4294967295 true 65535 0 true,
    .mgmtWriteAt (.backEnd 17 3) 65535 65536 255 4294967295 true 65535 0 true,
    .mgmtWriteAt (.backEnd 17 3) 65535 65535 256 4294967295 true 65535 0 true,
    .mgmtWriteAt (.backEnd 17 3) 65535 65535 255 4294967296 true 65535 0 true,
    .mgmtWriteAt (.backEnd 17 3) 65535 65535 255 4294967295 true 65536 0 true, .mgmtResponse 96 [],
    .echoRequest 2 0x02FFFFFFFFFFFFFF 0, .echoRequest 1 0x0300000000000000 0, .echoReply 96 0x11FFFFFFFFFFFFFF 31 0,
    .echoReply 95 0x1200000000000000 31 0, .echoReply 95 0x11FFFFFFFFFFFFFF 32 0, .leaseRenew 2 0x05FFFFFFFFFFFFFF,
    .leaseRenew 1 0x0600000000000000, .leaseClaim 2 0x06FFFFFFFFFFFFFF true, .leaseClaim 1 0x0700000000000000 true,
    .leaseAck 96 0x12FFFFFFFFFFFFFF] :
    List Instr).all (fun i => !i.wf) = true := by
  decide

/-- One operand beyond its range, or a word of another opcode, is refused, part 8. -/
theorem test_wf_refuses_8 :
  ([.leaseAck 95 0x1300000000000000, .feFault 96 0x13FFFFFFFFFFFFFF, .feFault 95 0x1400000000000000,
    .beEchoRequest 18 0x40FFFFFFFFFFFFFF 0, .beEchoRequest 17 0x4100000000000000 0, .moverTailWrite 32 65535,
    .moverTailWrite 31 65536, .moverResume 32, .moverAbort 32, .moverCopy 32 0, .moverScatter 32 0, .moverFill 32 0,
    .moverSend 32 0, .moverCompress 32 0, .moverCrc 32 0, .descriptorComplete 32, .marverBlockFlush 32,
    .flipArmWrite 3 255, .flipArmWrite 2 256, .eccLastErrorRead 3, .leaseRenewSend 48, .leaseClaimSend 48,
    .heartbeat 2 0x50FFFFFFFFFFFFFF 0, .heartbeat 1 0x5100000000000000 0, .heartbeatTime 2 0x51FFFFFFFFFFFFFF,
    .heartbeatTime 1 0x5200000000000000, .relinquish 2 0x52FFFFFFFFFFFFFF, .relinquish 1 0x5300000000000000,
    .takeoverRequest 2 0x53FFFFFFFFFFFFFF, .takeoverRequest 1 0x5400000000000000, .partnerRelinquish 3,
    .partnerRequestTakeover 3, .partnerForceTakeover 3, .resetCommand 3 4294967295, .resetCommand 2 4294967296,
    .feResetCommand 2 4294967295, .feResetCommand 1 4294967296, .bootLadder 256 true [] true true, .safetyInputChange 4 0,
    .biasRequestWrite 3 255, .biasRequestWrite 2 256, .relayFeedbackCheck 2 true, .testPulseStart 2, .safetyClearFault 3,
    .safetyRunStimulus 3 true true] :
    List Instr).all (fun i => !i.wf) = true := by
  decide

/-- One operand beyond its range, or a word of another opcode, is refused, part 9. -/
theorem test_wf_refuses_9 :
  ([.safetyBundleWrite 3 0, .ownerKeyEnrol 3 0 true, .firmwareFloorCommit 3 255, .firmwareFloorCommit 2 256,
    .ownerFloorCommit 3 255, .ownerFloorCommit 2 256, .firmwareImageVerify 3 0 0, .firmwareActivate 3 255,
    .firmwareActivate 2 256, .attestRun 3 255, .attestRun 2 256, .debugToken 3 0, .debugLock 3 255, .debugLock 2 256,
    .alignArmWrite 3 255, .alignArmWrite 2 256, .incrementWrite 3 true 0, .secondMarkSend 48, .tiuRunStart 3,
    .tiuRunAbort 3, .tiuStartEdge 32 true, .tiuStopEdge 32 0, .latencyPeriodDue 48, .timeNowRead 3, .ppsCaptureRead 3] :
    List Instr).all (fun i => !i.wf) = true := by
  decide

/-! ## Signed envelopes (R396) -/

/-- A modulus of 4,096 bits for which the tests hold signatures: a prime, so that anyone can sign. -/
def testModulus : Nat := 2 ^ 4096 - 2549
/-- An envelope of the layout of R396 with this signature. -/
def envelope (kind version binding notAfter : Nat) (payload : List Nat) (signature : Nat) : List Nat :=
  toBytes 4 0xD3E751A9 ++ toBytes 2 1 ++ [kind, 0] ++ toBytes 4 version ++ toBytes 4 payload.length ++ toBytes 8 binding ++
    toBytes 8 notAfter ++ sha512 payload ++ toBytesBe 512 testModulus ++ toBytesBe 512 signature ++ payload
def safetySignature : Nat :=
    0x588808cffc503a7ffb70c9ca2d91f9b52ecf42cb7d3ff1efbdd07c442f3eb4bc569303913f13156a5c654601088d60c370a2a741 * 2 ^ 0 +
    0x86e0d34a02868f75bb97ad6cc15f384e833cd9fcc51634175cb03a7bb61a5cb5f3108021a5f80b31bad88ac0d37d717cc2dbfc2c * 2 ^ 416 +
    0xa292af7de425bd748bd1499d7f727fe4372ac6be73cbe186c811dea94ce3cff8081af90149b0b2a565a42f9ced5f53affeec0898 * 2 ^ 832 +
    0x5406adf7ee1191a3496d7d2dffde4a6d8c82fee890052d8286f3d556ca8d0a29c4806259d6e1f4934f325f76ac27fd929b8f2f01 * 2 ^ 1248 +
    0xf89dedb63c62dae5184e9d15581d4260b506d76c3a8eba008a81f4bad633b4afc48fe2dd440d6c705c03e0c438b6bc9f12fce1c9 * 2 ^ 1664 +
    0xaa96f9a581b559cb1ec4eb439e12931d41e5ad62f090c2c64a5c91151eb10ecb12c1321dd4913a2c032a1d0de90daecbbb7db8ac * 2 ^ 2080 +
    0xfd762cc085754169cffeeadd9155b0017c5899ffe47e959897858deade0331e8ddd7f2b95cb77a1ab2b643dbcc38413f67e80779 * 2 ^ 2496 +
    0x1e87e6d56159daef9b7fadc2bbe94a2eae1de64c052a135df9c9783728005895ee32f542ddc65f3913a6dfb0a3b48b65aba6e0d3 * 2 ^ 2912 +
    0x0e42304ae103c6327135fc0a5bb2cd9d80b797a24bbb0b8978b7c73963390ae480d61b883fc20af2958b1d31f7c1c50856ac0a1c * 2 ^ 3328 +
    0x61e0886c8947542c723406cb7bb09816b5d2309b95f7b3ef8301b7363ba4e0d79a61d24171210130536c3f74 * 2 ^ 3744
def safetyPayload : List Nat := toBytes 32 (1 + 5 * 2 ^ 8 + 100 * 2 ^ 16 + 500 * 2 ^ 32 + 20 * 2 ^ 48 + 10 * 2 ^ 64 + 5 * 2 ^ 80)
def safetyEnvelope : List Nat := envelope 3 1 0 0 safetyPayload safetySignature
def taskSignature : Nat :=
    0xd61c54a50c95b330fe9a4a0f560e3ae7e1f958042552451c113d569a522eadc88979355cdcddf47e67c3a95d7238c7a4124a29d6 * 2 ^ 0 +
    0x9e8fcaccdec089b2a8bd89f2405902b8ec5546aa4e19b7d759f375b7d31c892a4198a45f53d704c60619f0983612225f261c0b0b * 2 ^ 416 +
    0xe181fb6016234300e7006fb473d04314bbb7a502aa9e2d8045b7edaab3e74be89c30f10e7e512aa766dc7c61d510909a26f461d5 * 2 ^ 832 +
    0x25650e5b69273480774dbba4739c659a40c4cddb0e3a0c86c1b03023b280eca4deaae769187d0c9d463a2b0846ea02c054abea25 * 2 ^ 1248 +
    0x84aaf51a89c4925cb6ca57e2765a2d7d9e5db4c31978bb85096661cf856e4111073b8d1692c3586f3459cfdf7fd48b58afb2c4a6 * 2 ^ 1664 +
    0xe318e593044d63e56ef773016b3b0a7dba13357daa24f9257b8a35ec46d46d4c84b335924cdeab4caa499579a5936bc0ff06cdc3 * 2 ^ 2080 +
    0x5bb51217ec23165deef443d104575d3a9d335a831b9b49420db8399c973e5fa68bda42648c72aa051b84589e409f5cb2cd71ccfd * 2 ^ 2496 +
    0x9046586537701952e1ad80c85c1f87981bb00589e9fe9e4cd95a6b0c3469e28b6907566deae7876862af189de6ccd4e08bad5632 * 2 ^ 2912 +
    0xbc472199b908e6ba29375750b46dc2b0619e2ea674d9dbe08aae34311768feeb7f211b780b89243c57c25e7c256131536d62faf4 * 2 ^ 3328 +
    0xa96f5ba31c6ea164232a056d5357549d3014aa97a774e550f4ba2fb631cb23d85ac23d10fbd6f01736e5470b * 2 ^ 3744
def taskPayload : List Nat := toBytes 8 0x10000 ++ [1, 0] ++ toBytes 28 0 ++ toBytes 8 0x10000 ++ toBytes 8 4096 ++ toBytes 8 0 ++ toBytes 8 5
def taskEnvelope : List Nat := envelope 2 1 0 0 taskPayload taskSignature
def firmwareSignature : Nat :=
    0x97c9c3717f5d3f9eeaa01771d48bdcfaea968dd5aa511586f77fc898f054f15f1efd91492b08e85a3ff8a4eb010b3d10ca2a8029 * 2 ^ 0 +
    0xfde9792b58053bb464f8ad2c42b544019f267144e6fc8854d9c6f213552500f2d311bde29258932846461294926c7694f8f5682f * 2 ^ 416 +
    0xb99c1a4fc37f5b242deb720eabe75e304c618d0598b89214a255dbf507c43c32ac9ec0d322e1787b00192a5d6cdfd1bde75af15c * 2 ^ 832 +
    0x386d1f7afc0e8f2d93260a33788627e6b69fa3f861b5619485db30dab384a497a6318674e14c3ed6dde4c0f8cf4aaabf6f572b58 * 2 ^ 1248 +
    0xc2e5bf87e88e87673429d84b6335c0ef0eecca303c45b4063769c744ebe0424f2f015dfaf3af67ab798b203e9b3257df5779cfd3 * 2 ^ 1664 +
    0x3f82c2cd9963ef44d3b935d47f1877aba8fbe9a8a69ec831cab030f8d86160eb0648582444b4bf9911d115cae221e3d6accecbcf * 2 ^ 2080 +
    0x173761960d377649e100b0396a56ba93241bb5067b56d405ab3d0a7c6e059a3241fdac8b87709b36877a4b785a5b432b1376ef19 * 2 ^ 2496 +
    0x90b8230fd50fe420b97dbe2fffc5e1701275e50223d3f2085aec7c661dbcb0d7598584f862203778ca00fa1847643edadbf37d10 * 2 ^ 2912 +
    0xe2db89ce1d4f15caf06bb69ececaf400c882669d326c7a7d9eb622eacbbb92314251f6322fd948f4b7dfe88f201f24f5ea974e07 * 2 ^ 3328 +
    0x61d546c9159b445e5aaa168210d4e3d3a6ad0c63348cb4855e3827080031ae405dc12c94834d49d166a8ab48 * 2 ^ 3744
def firmwarePayload : List Nat := [5]
def firmwareEnvelope : List Nat := envelope 1 1 0 0 firmwarePayload firmwareSignature
def tokenSignature : Nat :=
    0x44f6cacfb4b5f0bd747f2e9ad4fae40bc45486bd209a705491a93d3dbdefa89c9a484678d5223ef8f645bd57bd208309582dca0d * 2 ^ 0 +
    0xf2de3838b248737c3ca807db2be719baa53ed73552929ed4ac6fe3c0c528f06270a5969f705076344715fc765a05d97d2277a362 * 2 ^ 416 +
    0x8a6f128ebf0f68356c658f425b6ea3e33eaf43fe59d689fbe5e20e6a696235e518b9146c98ea68c853ec473ca6365a3aac7d1656 * 2 ^ 832 +
    0xac529728fc9864bb539b8c04e3e5c354df29e905667d31e108ba423928d3fb6f07d3a14160dae9b72c345bf2626937fca4101062 * 2 ^ 1248 +
    0xf39f0cb29b25bf70f66599f0602f58babc0d2318f56bdc199506e8daf065bc478bcc64cb750263104e707e49bee5cff9bfef6604 * 2 ^ 1664 +
    0x4428f9bccdb7686c28db7666abe27f7edf33ed8a5e17f1500758866cbc1a483cadaf46048dd678738a146bbd074fb5636b4e01c1 * 2 ^ 2080 +
    0x86b09b06afdb660482d127d315dcf280b62315d92b70da828e35c356af9f43dc20461a5ceb0d1632b997d78d74d61824a0820cee * 2 ^ 2496 +
    0x12e690c4547683bc6bdf95186bf963117ac188bedd0d22502f936682879c2cf4d00aa0cc8dcd587541145fdfe7b236c85c8c6760 * 2 ^ 2912 +
    0x91e41a711b4fefff1c7241359c4839d185d3acac41b75bb8c66446cc09620d24eaf4ee2cb01775360858095d075c068d95570a0a * 2 ^ 3328 +
    0x71feb57c62206484b8d9b7d075057c303c556209bf888a2f1b2ac4bb7801b5edaa89b26f303da639aba96183 * 2 ^ 3744
def tokenPayload : List Nat := toBytes 8 77 ++ toBytes 8 1
def tokenEnvelope : List Nat := envelope 4 0 5 1 tokenPayload tokenSignature

/-! ## The hypotheses of the statements are met: the families of commands -/

/-- The guards of the events: both parts run, with every supply and clock; side A holds the lease. -/
theorem hyp_guards :
    ready.fe.up = true ∧ ready.fe.holder = 0 + 1 ∧ ready.conc.up = true ∧ ready.conc.runs = true ∧ ready.conc.baseUp = true ∧
      ready.conc.analogUp = true ∧ ready.conc.safetyUp = true := by decide +kernel

/-- Words with the opcodes of the fast commands, the other bits all ones. -/
theorem hyp_words :
    opcodeIs 0x01 0x01FFFFFFFFFFFFFF = true ∧ opcodeIs 0x02 0x02FFFFFFFFFFFFFF = true ∧ opcodeIs 0x03 0x03FFFFFFFFFFFFFF = true ∧
      opcodeIs 0x04 0x04FFFFFFFFFFFFFF = true ∧ opcodeIs 0x05 0x05FFFFFFFFFFFFFF = true ∧ opcodeIs 0x06 0x06FFFFFFFFFFFFFF = true ∧
      opcodeIs 0x11 0x11FFFFFFFFFFFFFF = true ∧ opcodeIs 0x12 0x12FFFFFFFFFFFFFF = true ∧ opcodeIs 0x13 0x13FFFFFFFFFFFFFF = true ∧
      opcodeIs 0x40 0x40FFFFFFFFFFFFFF = true ∧ opcodeIs 0x41 0x41FFFFFFFFFFFFFF = true ∧ opcodeIs 0x42 0x42FFFFFFFFFFFFFF = true ∧
      opcodeIs 0x50 0x50FFFFFFFFFFFFFF = true ∧ opcodeIs 0x51 0x51FFFFFFFFFFFFFF = true ∧ opcodeIs 0x52 0x52FFFFFFFFFFFFFF = true ∧
      opcodeIs 0x53 0x53FFFFFFFFFFFFFF = true := by decide +kernel

/-- A word of the leased downlink leaves the lease where it is. -/
theorem hyp_leased_words :
    (ready.fe.take 0 [0x03FFFFFFFFFFFFFF]).holder = 0 + 1 ∧ (ready.fe.take 0 [0x04FFFFFFFFFFFFFF]).holder = 0 + 1 ∧
      (ready.fe.take 0 [0x01FFFFFFFFFFFFFF]).holder = 0 + 1 := by decide +kernel

/-- The clock gates that events name are open. -/
theorem hyp_gates : ∀ b, b ≤ 11 → b ≠ 7 → b ≠ 8 → b ≠ 10 → ready.conc.gated b = false := by decide +kernel

/-- Objects of the front-end with a length and a value at an end of their range. -/
def feWrites : List (Obj × Nat × Nat) :=
  [(O.feGateControl, 1, 3), (O.feModeRequest, 1, 1), (O.feModeRequest, 1, 2), (O.feModeRequest, 1, 3), (O.feProbe, 4, 0),
   (O.prbsDuration, 2, 3600), (O.feAnnealRun, 1, 1), (O.feRetiredRestore, 34, 1), (O.culletTableData, 512, 0), (O.freeze, 2, 65535),
   (O.histogramExponent, 1, 20), (O.histogramExponent, 1, 12), (O.timeOffset, 512, 1), (O.walkTable, 2048, 1), (O.walkEnable, 2, 65535),
   (O.groupRequest, 4, 65535), (O.groupRequest, 4, 65535 * 2 ^ 16), (O.groupPowerMode, 1, 2), (O.thresholdTiming, 512, 1023),
   (O.thresholdValidation, 512, 1023), (O.biasTrim, 256, 255), (O.channelMode, 256, 30), (O.validationWindow, 1, 48),
   (O.validationWindow, 1, 3), (O.spareAssignGroup, 1, 15), (O.spareAssignGroup, 1, 255), (O.downlinkPrbsMode, 1, 0x30),
   (O.uplinkPrbsMode, 2, 0x3000), (O.feResetCommand, 4, 0x74657372)]

/-- A write of each passes at the front-end on the downlink of the holder. -/
theorem hyp_fe_writes : ∀ p ∈ feWrites, ready.fe.admits 0 p.1 p.2.1 p.2.2 := fun p hp =>
  fe_admits_of_test ((by decide +kernel : ∀ p ∈ feWrites, fePassesB ready.fe 0 p.1 p.2.1 p.2.2 = true) p hp)

/-- So does one on the other side, once that side holds the lease. -/
theorem hyp_fe_writes_side_b : (onFe fun f => f.put O.leaseHolder 2).fe.admits 1 O.freeze O.freeze.bytes 65535 :=
  fe_admits_of_test (by decide +kernel)

/-- Objects of the concentrator with a length, a value and a position. -/
def concWrites : List (Obj × Nat × Nat × Nat) :=
  [(O.loopGains, 1024, 1, 0), (O.carouselEnable, 1, 1, 0), (O.carouselEnable, 1, 0, 0), (O.store, 4, 0x65766173, 0),
   (O.store, 4, 0x65766173, 2), (O.restore, 4, 0x64616F6C, 0), (O.restore, 4, 0x64616F6C, 2), (O.errorCount, 1, 0, 0),
   (O.producerHeartbeat, 2, 65535, 0), (O.faultLogAck, 4, 2 ^ 32 - 1, 0), (O.portEnable, 6, 2 ^ 48 - 1, 0), (O.flipArm, 1, 1, 0),
   (O.resetCommand, 4, 0x74657372, 0), (O.biasRequest, 1, 3, 0), (O.debugLock, 1, 1, 0), (O.incrementBase, 5, 45767171507, 0),
   (O.incrementBase, 5, 45858797475, 0), (O.incrementAo, 5, 511488000000, 0), (O.incrementAo, 5, 512512000000, 0)]

/-- A write of each by the session's holder passes at the concentrator; the blocks that they need have their clock. -/
theorem hyp_conc_writes : ∀ p ∈ concWrites, ready.conc.admits 2 p.1 p.2.1 p.2.2.1 p.2.2.2 := fun p hp =>
  admits_of_test ((by decide +kernel : ∀ p ∈ concWrites, passesB ready.conc 2 p.1 p.2.1 p.2.2.1 p.2.2.2 = true) p hp)

/-- The same write over CAN and on a back-end lane, where the object needs no session. -/
theorem hyp_conc_sources :
    ready.conc.admits 0 O.producerHeartbeat O.producerHeartbeat.bytes 1000 ∧ ready.conc.admits 1 O.faultLogAck O.faultLogAck.bytes 5 ∧
      ready.conc.serves 0 ∧ ready.conc.serves 1 ∧ ready.conc.serves 2 :=
  ⟨admits_of_test (by decide +kernel), admits_of_test (by decide +kernel), serves_of_test (by decide +kernel),
    serves_of_test (by decide +kernel), serves_of_test (by decide +kernel)⟩

/-- The objects whose reads have effects. -/
def shownReads : List Obj :=
  [O.adcData, O.maxLoopDelay, O.loopStatus, O.tailKey, O.class0Residence, O.lastErrorAddress, O.timeSeconds, O.ppsSeconds]

theorem hyp_reads : ∀ o ∈ shownReads, ready.conc.shows 2 o := fun o ho =>
  shows_of_test ((by decide +kernel : ∀ o ∈ shownReads, servesB ready.conc 2 = true) o ho)
    ((by decide +kernel : ∀ o ∈ shownReads, clockedB (ready.conc.asked 2) o.index o.sub = true) o ho)

/-- Every lane's bits of `LaneControl` pass, at the ends of the lane numbers, and hold no training bit of an ingress lane. -/
theorem hyp_lane_writes :
    (∀ x ∈ [0, 163], ∀ v ∈ [entryUpd 8 (ready.conc.get O.laneControl) x fun e => setBit e 1 true,
        entryUpd 8 (ready.conc.get O.laneControl) x fun e => setBit e 1 false,
        entryUpd 8 (ready.conc.get O.laneControl) x fun e => e % 4 + 3 * 4 + e / 16 * 16,
        entryUpd 8 (ready.conc.get O.laneControl) x fun e => e % 4 + e / 16 * 16,
        entryUpd 8 (ready.conc.get O.laneControl) x fun e => setBit e 0 false],
      ready.conc.admits 2 O.laneControl O.laneControl.bytes v ∧
        ∀ i, i < 144 → bitAt (entryGet 8 (O.laneControl.taken O.laneControl.bytes v) i) 4 = false) := by
  intro x hx v hv
  refine ⟨admits_of_test ?_, ?_⟩
  · revert v; revert x; decide +kernel
  · revert v; revert x; decide +kernel

/-- A mode table without the reserved mode, a monotone table on a live channel, a spare switch that is not locked, PRBS codes of
both directions, a probe that is free, a mode that lets a self-test pass run. -/
theorem hyp_fe_conditions :
    (∀ c, c < 256 → entryGet 8 (O.channelMode.taken O.channelMode.bytes 30) c % 4 ≠ 3) ∧
      ready.fe.live (ready.fe.get O.culletTableSelect) = true ∧ monotone (O.culletTableData.taken 512 0) = true ∧
      (ready.fe.group 15).assignLocked = false ∧ ready.fe.sys.mode = 2 ∧
      (∀ n, n < 2 → entryGet 4 (O.downlinkPrbsMode.taken O.downlinkPrbsMode.bytes 0x30) n ≤ 3) ∧
      entryGet 4 (O.downlinkPrbsMode.taken O.downlinkPrbsMode.bytes 0x30) 0 = 0 ∧
      entrySet 4 (ready.fe.get O.downlinkPrbsMode) 1 3 = 0x30 ∧ entrySet 4 (ready.fe.get O.uplinkPrbsMode) 3 3 = 0x3000 ∧
      (∀ n, n < 4 → entryGet 4 (O.uplinkPrbsMode.taken O.uplinkPrbsMode.bytes 0x3000) n ≤ 3) ∧
      ready.fe.probeOn 0 = false ∧ ready.fe.probeOn 1 = false ∧
      bitAt (onFe fun f => f.withSys fun y => { y with gated := 0 }).fe.sys.gated 0 = false ∧
      feProbeBad (O.feProbe.taken O.feProbe.bytes 0 % 2 ^ 18) = false := by decide +kernel

/-- A standby partner whose Safety Net stands in FAULT with a bundle, whose firmware version lies above the floor, with an update
verified, a tune accepted on loop 15 and one running on loop 14. -/
def armedState : State := onConc fun c =>
  ((({ c with safety := { c.safety with st := 3, bundle := some { payload := 0, measurement := 0 } }
              sec := { c.sec with running := 0, slotA := { version := 40 }, update := 3 }
              pair := { c.pair with state := 2 } } : Conc).setTune 15 { status := 1 }).setLoop 14
    { st := 4, tune := some { start := 0, u0 := 0, region := 0, top := 0, bottom := 0 } })

/-- Setup 1 is a voltage setup. -/
def adcState : State := onConc fun c => (c.put O.adcSelect 1).put O.sensorSetup (entrySet 64 0 1 0xFF0001)

theorem hyp_adcStart :
    adcState.conc.admits 2 O.adcStart O.adcStart.bytes 1 ∧
      ((adcState.conc.asked 2).setup ((adcState.conc.asked 2).get O.adcSelect)).kind ≠ 0 ∧
      (adcState.conc.asked 2).setupOwner ((adcState.conc.asked 2).get O.adcSelect) = none ∧ (adcState.conc.asked 2).adc.hostBusy = false :=
  ⟨admits_of_test (by decide +kernel), by decide +kernel⟩

/-- The host's request waits, so a second start is ignored. -/
def adcBusyState : State := onConc fun _ => adcState.conc.withAdc fun a => { a with host := some 1 }
/-- Loop 0 runs on setup 1. -/
def adcOwnedState : State := onConc fun _ => (adcState.conc.put O.loopSetup 0x100).setLoop 0 { st := 1 }

theorem hyp_adcStart_refused :
    adcBusyState.conc.admits 2 O.adcStart 1 1 ∧ adcOwnedState.conc.admits 2 O.adcStart 1 1 ∧
      (adcBusyState.conc.asked 2).adc.hostBusy = true ∧ (adcOwnedState.conc.asked 2).adc.hostBusy = false ∧
      ((adcOwnedState.conc.asked 2).setup ((adcOwnedState.conc.asked 2).get O.adcSelect)).kind ≠ 0 ∧
      (adcOwnedState.conc.asked 2).setupOwner ((adcOwnedState.conc.asked 2).get O.adcSelect) = some 0 :=
  ⟨admits_of_test (by decide +kernel), admits_of_test (by decide +kernel), by decide +kernel⟩

/-- Thermal loop 15 at its target with room for the relay. -/
def tuneState : State := onConc fun c =>
  (((c.setLoop 15 { st := 1 }).put O.loopLimits (entrySet 192 0 15 (100 * 2 ^ 96 + (2 ^ 32 - 100) * 2 ^ 64))).put O.tuneConfig
    (entrySet 128 0 3 (10 + 4 * 2 ^ 64 + 60 * 2 ^ 80)))

theorem hyp_tuneStart :
    tuneState.conc.admits 2 O.loopCommand O.loopCommand.bytes (32 + 15) ∧ 12 ≤ 15 ∧ ((tuneState.conc.asked 2).loop 15).st = 1 ∧
      ((tuneState.conc.asked 2).loop 15).restart = false ∧
      ((tuneState.conc.asked 2).loop 15).r = ((tuneState.conc.asked 2).target 15 : Rat) ∧
      ((tuneState.conc.asked 2).loop 15).u + (bits ((tuneState.conc.asked 2).tuneCfg 15) 31 0 : Nat) ≤ ((tuneState.conc.asked 2).outLimits 15).2 ∧
      ((tuneState.conc.asked 2).outLimits 15).1 ≤ ((tuneState.conc.asked 2).loop 15).u - (bits ((tuneState.conc.asked 2).tuneCfg 15) 31 0 : Nat) ∧
      4 ≤ bits ((tuneState.conc.asked 2).tuneCfg 15) 71 64 ∧ 60 ≤ bits ((tuneState.conc.asked 2).tuneCfg 15) 95 80 :=
  ⟨admits_of_test (by decide +kernel), by decide +kernel⟩

theorem hyp_tune_commands :
    ready.conc.admits 2 O.loopCommand O.loopCommand.bytes (16 + 15) ∧ armedState.conc.admits 2 O.loopCommand O.loopCommand.bytes (48 + 15) ∧
      armedState.conc.admits 2 O.loopCommand O.loopCommand.bytes (64 + 14) ∧ ((armedState.conc.asked 2).tune 15).status = 1 ∧
      ((armedState.conc.asked 2).loop 14).tune.isSome = true :=
  ⟨admits_of_test (by decide +kernel), admits_of_test (by decide +kernel), admits_of_test (by decide +kernel), by decide +kernel⟩

/-- Limits that admit a new target of loop 15. -/
def limitState : State := onConc fun c => c.put O.loopLimits (entrySet 192 0 15 (100 * 2 ^ 32))

theorem hyp_setpoints :
    limitState.conc.admits 2 O.loopSetpoint O.loopSetpoint.bytes (entrySet 64 0 15 100) ∧
      (∀ m, m < 16 →
        int32At (O.loopSetpoint.taken O.loopSetpoint.bytes (entrySet 64 0 15 100)) (2 * m) ≠ int32At ((limitState.conc.asked 2).get O.loopSetpoint) (2 * m) →
        limitOf ((limitState.conc.asked 2).get O.loopLimits) m 0 ≤ int32At (O.loopSetpoint.taken O.loopSetpoint.bytes (entrySet 64 0 15 100)) (2 * m) ∧
          int32At (O.loopSetpoint.taken O.loopSetpoint.bytes (entrySet 64 0 15 100)) (2 * m) ≤ limitOf ((limitState.conc.asked 2).get O.loopLimits) m 1) :=
  ⟨admits_of_test (by decide +kernel), by decide +kernel⟩

theorem hyp_clocks :
    ready.conc.admits 2 O.meterRun O.meterRun.bytes 1 ∧ (∀ b, b < 12 → bitAt (O.gateControl.taken O.gateControl.bytes 0xF9E) b = true → (ready.conc.asked 2).gated b = false →
        (ready.conc.asked 2).gateOwner b = none) ∧ ready.conc.admits 2 O.gateControl O.gateControl.bytes 0xF9E :=
  ⟨admits_of_test (by decide +kernel), by decide +kernel, admits_of_test (by decide +kernel)⟩

/-- Probes have their clock. -/
def probeState : State := onConc fun c => c.withPwr fun x => { x with gated := 0 }

theorem hyp_probes :
    probeState.conc.admits 2 O.probeSelect O.probeSelect.bytes (entrySet 32 (probeState.conc.get O.probeSelect) 7 0x10000) ∧
      (probeState.conc.asked 2).gated 7 = false ∧
      (∀ p, p < 8 → (probeState.conc.asked 2).probeBad (entryGet 32 (andBits (O.probeSelect.taken O.probeSelect.bytes (entrySet 32
        (probeState.conc.get O.probeSelect) 7 0x10000)) (rep 8 4 0x3FFFF)) p) = none) ∧
      (∀ p, p < 8 → bitAt (entryGet 32 (andBits (O.probeSelect.taken O.probeSelect.bytes (entrySet 32 (probeState.conc.get
        O.probeSelect) 7 0x10000)) (rep 8 4 0x3FFFF)) p) 16 = true → (probeState.conc.asked 2).probeOn p = true ∨ (probeState.conc.asked 2).ballOwner p = none) :=
  ⟨admits_of_test (by decide +kernel), by decide +kernel⟩

/-- Power requests in STANDBY, of a standby partner, of an active one. -/
theorem hyp_power :
    (∀ v, v < 5 → 1 ≤ v → ready.conc.admits 2 O.powerRequest O.powerRequest.bytes v) ∧
      (ready.conc.asked 2).pwr.state ≠ 2 ∧ (ready.conc.asked 2).pwr.state ≠ 6 ∧ (ready.conc.asked 2).pwr.state ≠ 5 ∧
      (ready.conc.asked 2).pair.state = 1 ∧ ready.conc.admits 2 O.partnerCommand O.partnerCommand.bytes 1 ∧
      armedState.conc.admits 2 O.partnerCommand O.partnerCommand.bytes 2 ∧ armedState.conc.admits 2 O.partnerCommand O.partnerCommand.bytes 3 ∧
      (armedState.conc.asked 2).pair.state = 2 :=
  ⟨fun v h1 h2 => admits_of_test ((by decide +kernel : ∀ v, v < 5 → 1 ≤ v → passesB ready.conc 2 O.powerRequest O.powerRequest.bytes v 0 = true)
      v h1 h2), by decide +kernel, by decide +kernel, by decide +kernel, by decide +kernel, admits_of_test (by decide +kernel),
    admits_of_test (by decide +kernel), admits_of_test (by decide +kernel), by decide +kernel⟩

/-- No session is held. -/
def closedState : State := onConc fun c => { c with dict := { c.dict with session := none } }

theorem hyp_sessions :
    closedState.conc.admits 2 O.sessionOpen O.sessionOpen.bytes 0 ∧ (closedState.conc.asked 2).unlocked = true ∧
      (closedState.conc.asked 2).dict.session = none ∧ (closedState.conc.asked 2).passwordOk (O.sessionOpen.taken O.sessionOpen.bytes 0) = true ∧
      ready.conc.admits 2 O.sessionClose O.sessionClose.bytes 1 ∧ ready.conc.admits 2 O.passwordChange O.passwordChange.bytes 1 ∧
      (ready.conc.asked 2).dict.session = some 2 :=
  ⟨admits_of_test (by decide +kernel), by decide +kernel, by decide +kernel, by decide +kernel, admits_of_test (by decide +kernel),
    admits_of_test (by decide +kernel), by decide +kernel⟩

/-- A loaded task that asks for one page of stack, and instance 383 configured for it. -/
def taskState : State := onConc fun c =>
  { ((c.put O.instanceSelect 383).put O.instanceConfig (entrySet 64 (c.get O.instanceConfig) 383 0)) with
    eng := { c.eng with slots := Bank.set none c.eng.slots 0 (some { version := 1, measurement := 2, image := 0, hdr :=
      { entry := 0x10000, classes := 0xF, channels := 0, stack := 4096, scratch := 0, cluster := 0, priv := 0, shared := 0, segs := [] } }) } }

/-- The same with instance 383 running, or faulted. -/
def taskAt (st : Nat) : State := onConc fun _ => taskState.conc.setCtx 383 { st := st }
/-- Every instance at once. -/
def everyInstance : State := onConc fun c => c.put O.instanceSelect 0xFFFF

theorem instances_tests (s : State) (h : ∀ v, v < 6 → 1 ≤ v → passesB s.conc 2 O.instanceCommand O.instanceCommand.bytes v 0 = true) (v : Nat)
    (h1 : v < 6) (h2 : 1 ≤ v) : s.conc.admits 2 O.instanceCommand O.instanceCommand.bytes v := admits_of_test (h v h1 h2)

theorem hyp_instances :
    (∀ v, v < 6 → 1 ≤ v → (taskAt 2).conc.admits 2 O.instanceCommand O.instanceCommand.bytes v) ∧
      (∀ v, v < 6 → 1 ≤ v → (taskAt 7).conc.admits 2 O.instanceCommand O.instanceCommand.bytes v) ∧
      (∀ v, v < 6 → 1 ≤ v → everyInstance.conc.admits 2 O.instanceCommand O.instanceCommand.bytes v) ∧
      ((taskAt 2).conc.asked 2).get O.instanceSelect = 383 ∧ (((taskAt 2).conc.asked 2).ctx 383).st = 2 ∧
      ((taskAt 7).conc.asked 2).get O.instanceSelect = 383 ∧ (((taskAt 7).conc.asked 2).ctx 383).st = 7 ∧
      (everyInstance.conc.asked 2).get O.instanceSelect = 0xFFFF ∧
      ready.conc.admits 2 O.taskUnload O.taskUnload.bytes 63 ∧ (ready.conc.asked 2).lowestInstance 63 = none :=
  ⟨instances_tests _ (by decide +kernel), instances_tests _ (by decide +kernel), instances_tests _ (by decide +kernel),
    by decide +kernel, by decide +kernel, by decide +kernel, by decide +kernel, by decide +kernel, admits_of_test (by decide +kernel),
    by decide +kernel⟩

theorem hyp_instanceStart :
    (∀ v, v < 6 → 1 ≤ v → taskState.conc.admits 2 O.instanceCommand O.instanceCommand.bytes v) ∧
      (taskState.conc.asked 2).get O.instanceSelect < 384 ∧
      ∃ e, (taskState.conc.asked 2).startInstance ((taskState.conc.asked 2).get O.instanceSelect) = .ok e := by
  refine ⟨instances_tests _ (by decide +kernel), by decide +kernel, ?_⟩
  have h : okWith ((taskState.conc.asked 2).startInstance ((taskState.conc.asked 2).get O.instanceSelect)) (fun _ => true) = true := by
    decide +kernel
  cases e : (taskState.conc.asked 2).startInstance ((taskState.conc.asked 2).get O.instanceSelect) with
  | ok d => exact ⟨d, rfl⟩
  | error a => rw [e] at h; cases h

/-- Output 3 is a DC output; setup 1 converts. -/
def lightState : State := onConc fun _ =>
  (((adcState.conc.put O.ledChannel (entrySet 64 0 3 1)).put O.feedbackLed 3).put O.feedbackSetup 1)

theorem hyp_light :
    ready.conc.admits 2 O.flashFire O.flashFire.bytes 1 ∧ (ready.conc.asked 2).get O.flashPeriod = 0 ∧
      lightState.conc.admits 2 O.feedbackRun O.feedbackRun.bytes 1 ∧ (lightState.conc.asked 2).gated 6 = false ∧
      (lightState.conc.asked 2).setupOwner ((lightState.conc.asked 2).get O.feedbackSetup) = none ∧
      (lightState.conc.asked 2).light.run.isSome = false ∧
      ledMode ((lightState.conc.asked 2).get O.ledChannel) ((lightState.conc.asked 2).get O.feedbackLed) = 1 ∧
      ((lightState.conc.asked 2).setup ((lightState.conc.asked 2).get O.feedbackSetup)).kind ≠ 0 ∧
      lightState.conc.admits 2 O.feedbackRun O.feedbackRun.bytes 0 :=
  ⟨admits_of_test (by decide +kernel), by decide +kernel, admits_of_test (by decide +kernel), by decide +kernel, by decide +kernel,
    by decide +kernel, by decide +kernel, by decide +kernel, admits_of_test (by decide +kernel)⟩

/-- The TIU has its clock and is not the Ringmaster's. -/
def tiuState : State := onConc fun _ => (probeState.conc.put O.autoLatency 0).put O.tiuMode 2

theorem hyp_runs :
    ready.conc.admits 2 O.annealRun O.annealRun.bytes 1 ∧ (ready.conc.asked 2).pwr.state = 3 ∧
      ready.conc.admits 2 O.checkpointImage 4096 1 ∧
      (ready.conc.asked 2).flash.images.foldl (fun n p => n + p.1) 0 + 4096 ≤ 25165824 ∧
      ready.conc.admits 2 O.alignArm O.alignArm.bytes 1 ∧ ready.conc.admits 2 O.alignArm O.alignArm.bytes 0 ∧
      tiuState.conc.admits 2 O.tiuRun O.tiuRun.bytes 1 ∧ tiuState.conc.admits 2 O.tiuRun O.tiuRun.bytes 0 ∧
      (tiuState.conc.asked 2).get O.autoLatency ≠ 1 ∧
      (tiuState.conc.asked 2).get O.tiuMode ≠ 1 :=
  ⟨admits_of_test (by decide +kernel), by decide +kernel, admits_of_test (by decide +kernel), by decide +kernel,
    admits_of_test (by decide +kernel), admits_of_test (by decide +kernel), admits_of_test (by decide +kernel),
    admits_of_test (by decide +kernel), by decide +kernel⟩

theorem hyp_security :
    armedState.conc.admits 2 O.safetyCommand O.safetyCommand.bytes 1 ∧ armedState.conc.admits 2 O.safetyCommand O.safetyCommand.bytes 2 ∧
      (armedState.conc.asked 2).safety.st = 3 ∧ (armedState.conc.asked 2).safety.bundle.isSome = true ∧
      ready.conc.admits 2 O.ownerKeyHash O.ownerKeyHash.bytes 1 ∧ (ready.conc.asked 2).sec.owner = 0 ∧
      armedState.conc.admits 2 O.firmwareFloorCommit O.firmwareFloorCommit.bytes 1 ∧ (armedState.conc.asked 2).sec.running ≠ 0xFF ∧
      (armedState.conc.asked 2).sec.fwFloor < (if (armedState.conc.asked 2).sec.running = 0 then (armedState.conc.asked 2).sec.slotA.version
        else (armedState.conc.asked 2).sec.slotB.version) ∧
      (if (armedState.conc.asked 2).sec.running = 0 then (armedState.conc.asked 2).sec.slotA.version
        else (armedState.conc.asked 2).sec.slotB.version) ≤ 40 ∧
      ready.conc.admits 2 O.ownerFloorCommit O.ownerFloorCommit.bytes 24 ∧ (ready.conc.asked 2).sec.ownerFloor < 24 ∧
      armedState.conc.admits 2 O.firmwareActivate O.firmwareActivate.bytes 1 ∧ (armedState.conc.asked 2).sec.update = 3 ∧
      ready.conc.admits 2 O.attestRun O.attestRun.bytes 1 ∧ (ready.conc.asked 2).gated 9 = false :=
  ⟨admits_of_test (by decide +kernel), admits_of_test (by decide +kernel), by decide +kernel, by decide +kernel,
    admits_of_test (by decide +kernel), by decide +kernel, admits_of_test (by decide +kernel), by decide +kernel, by decide +kernel,
    by decide +kernel, admits_of_test (by decide +kernel), by decide +kernel, admits_of_test (by decide +kernel), by decide +kernel,
    admits_of_test (by decide +kernel), by decide +kernel⟩

/-- Enrolled with the test key, which is also the vendor's root; serial number 5, challenge 77, time known. -/
def enrolled : State := onConc fun c =>
  { c with
    sec := { c.sec with owner := 1, ownerHash := ofBytes (sha512 (toBytesBe 512 testModulus)),
                        rootHash := ofBytes (sha512 (toBytesBe 512 testModulus)), serial := 5, challenge := 77 }
    time := { c.time with state := 1 }
    eng := { c.eng with staged := (taskEnvelope.length, ofBytes taskEnvelope) } }

/-- What a verified envelope of the tests gives. -/
def verified (version binding notAfter : Nat) (payload : List Nat) (byOwner : Bool) : Envelope :=
  { version := version, measurement := ofBytes (sha512 payload), payload := payload, byOwner := byOwner, notAfter := notAfter,
    binding := binding }

theorem hyp_safetyBundle :
    enrolled.conc.admits 2 O.safetyBundleData O.safetyBundleData.bytes (ofBytes safetyEnvelope) ∧ (enrolled.conc.asked 2).gated 9 = false ∧
      (enrolled.conc.asked 2).judgeEnvelope 3 false true (toBytes O.safetyBundleData.bytes (O.safetyBundleData.taken
        O.safetyBundleData.bytes (ofBytes safetyEnvelope))) = .ok (verified 1 0 0 safetyPayload true) ∧
      safetyPayload.length = 32 ∧ (SafetyBundle.mk (ofBytes safetyPayload) (ofBytes (sha512 safetyPayload))).ok = true ∧
      (enrolled.conc.asked 2).probeHolds (SafetyBundle.mk (ofBytes safetyPayload) (ofBytes (sha512 safetyPayload))).led = false :=
  ⟨admits_of_test (by decide +kernel), by decide +kernel, ok_of_test (by decide +kernel), by decide +kernel⟩

theorem hyp_taskLoad :
    enrolled.conc.admits 2 O.taskLoadSlot O.taskLoadSlot.bytes 63 ∧ (enrolled.conc.asked 2).gated 9 = false ∧
      (enrolled.conc.asked 2).sec.owner = 1 ∧ (enrolled.conc.asked 2).lowestInstance 63 = none ∧
      (enrolled.conc.asked 2).judgeEnvelope 2 false true (toBytes (enrolled.conc.asked 2).eng.staged.1 (enrolled.conc.asked 2).eng.staged.2) =
        .ok (verified 1 0 0 taskPayload true) ∧ (hdrOf taskPayload).ok taskPayload.length = true :=
  ⟨admits_of_test (by decide +kernel), by decide +kernel, by decide +kernel, by decide +kernel, ok_of_test (by decide +kernel),
    by decide +kernel⟩

theorem hyp_firmwareImage :
    enrolled.conc.admits 2 O.firmwareImageData firmwareEnvelope.length (ofBytes firmwareEnvelope) ∧ (enrolled.conc.asked 2).mayLock 2 = true ∧
      (enrolled.conc.asked 2).gated 9 = false ∧
      (enrolled.conc.asked 2).firmwareSegment.judgeEnvelope 1 true false (toBytes firmwareEnvelope.length (O.firmwareImageData.taken
        firmwareEnvelope.length (ofBytes firmwareEnvelope))) = .ok (verified 1 0 0 firmwarePayload false) :=
  ⟨admits_of_test (by decide +kernel), by decide +kernel, by decide +kernel, ok_of_test (by decide +kernel)⟩

theorem hyp_debugToken :
    enrolled.conc.admits 2 O.debugToken O.debugToken.bytes (ofBytes tokenEnvelope) ∧ (enrolled.conc.asked 2).gated 9 = false ∧
      (enrolled.conc.asked 2).judgeEnvelope 4 true true (toBytes O.debugToken.bytes (O.debugToken.taken O.debugToken.bytes
        (ofBytes tokenEnvelope))) = .ok (verified 0 5 1 tokenPayload false) ∧
      tokenPayload.length = 16 ∧ ofBytes (tokenPayload.take 8) = (enrolled.conc.asked 2).sec.challenge ∧
      5 = (enrolled.conc.asked 2).sec.serial :=
  ⟨admits_of_test (by decide +kernel), by decide +kernel, ok_of_test (by decide +kernel), by decide +kernel, by decide +kernel,
    by decide +kernel⟩

/-! ## The hypotheses of the statements are met: the step, the link, the rules -/

/-- A state with nothing waiting is safe, and so is one whose waiting commands are well formed; both parts have commands. -/
theorem hyp_step :
    ready.pending = [] ∧ ready.safe = true ∧ ({ ready with pending := [.mergerTake, .rollover, .leaseExpiry] } : State).safe = true ∧
      Instr.target .mergerTake = .fe ∧ Instr.target .rollover = .conc ∧ answers (exec .mergerTake ready) (fun _ => true) = true ∧
      answers (exec .rollover ready) (fun _ => true) = true ∧ ready.fe.baseRuns = true ∧
      (onFe fun f => f.withSys fun y => { y with mode := 1 }).pending = [] ∧
      (onFe fun f => f.withSys fun y => { y with mode := 1 }).fe.baseRuns = false := by decide +kernel

/-- Payloads of every lane kind's length; the largest header and return fields. -/
theorem hyp_link :
    (∀ k ∈ [LaneKind.downlink, .ingress, .backEnd, .peer], (List.replicate k.words (0 : Word)).length = k.words ∧
      (List.replicate k.bodyBits false).length = k.bodyBits) ∧
      ({ cls := 3, kind := 3, seq := 255, payload := [] } : Cell).seq < 256 ∧ 255 < 256 ∧ 31 < 32 ∧
      58 ≤ (List.replicate 58 true).length ∧ stuff false 0 (List.replicate 32 true) = [] ++ List.replicate 32 true ++ [false] := by
  decide +kernel

/-- A transmitter that holds 40 of class 3 and receives a report of 71, the furthest that 5 bits can say. -/
theorem hyp_credits :
    Bank.get 0 ({ got := Bank.set 0 [] 3 40 } : Tx).got 3 ≤ 71 ∧ 71 < Bank.get 0 ({ got := Bank.set 0 [] 3 40 } : Tx).got 3 + 32 ∧
      ({ ccls := 3, credits := 7 } : Returns).credits = 71 % 32 := by decide +kernel

/-- A candidate that began 257 beats after reset, on channel 255, and base tick 40, 1,023 beats later. -/
def testCand : Cand := { epoch := 0, lead := 257 * 256 + 255, coarse := 8, frac := 0, base := 0, walk := none, quality := true, prescaled := false }
def hitState : State := onFe fun f => ({ f with now := 40 } : Fe).setChan 255 { f.chan 255 with discHigh := true, cand := some testCand }

theorem hyp_hit :
    hitState.fe.up = true ∧ (hitState.fe.chan 255).cand = some testCand ∧ testCand.lead / 256 + 1023 ≤ hitState.fe.now * 32 + 0 ∧
      ready.fe.now * 32 + 31 < testCand.lead / 256 + 1023 := by decide +kernel

/-- A derandomiser of 32 hits, the read of the oldest started or not, no report open. -/
def testHit (i : Nat) : HitEntry := { epoch := 0, time := i, word := 0 }
def fullState : State := onFe fun f => f.setChan 255 { f.chan 255 with derand := (List.range 32).map testHit }

theorem hyp_derand :
    (fullState.fe.chan 255).derand.length = 32 ∧ (fullState.fe.chan 255).derand[if true then 1 else 0]? = some (testHit 1) ∧
      (fullState.fe.chan 255).derand[if false then 1 else 0]? = some (testHit 0) ∧
      (fullState.fe.chan 255).report = none := by decide +kernel

/-- A word of a sorter, and sorters with one word, with 512, and with a word that waits at the entry. -/
def testItem : SortItem := { epoch := 0, time := 3, rank := 1, tie := 0, word := 0, released := false }
def sorterState (n : Nat) (wait : List SortItem) : State := onFe fun f =>
  f.setGroup 15 { f.group 15 with sorter := List.replicate n testItem, wait := wait }

theorem hyp_sorter :
    (∀ n ∈ [0, 511, 512], ((sorterState n []).fe.group 15).sorter.Pairwise (fun a b => a.order ≤ b.order)) ∧
      ((sorterState 511 []).fe.group 15).wait = [] ∧ ((sorterState 511 []).fe.group 15).sorter.length < 512 ∧
      512 ≤ ((sorterState 512 []).fe.group 15).sorter.length ∧ ((sorterState 512 [testItem]).fe.group 15).wait ≠ [] := by
  refine ⟨fun n _ => ?_, by decide +kernel⟩
  have h : ((sorterState n []).fe.group 15).sorter = List.replicate n testItem := by
    simp [sorterState, onFe]
  rw [h, List.pairwise_replicate]
  exact .inr (Nat.le_refl _)

theorem hyp_spare :
    (onFe fun f => f.put O.leaseHolder 2).fe.admits 1 O.spareAssignGroup 1 15 ∧ ready.fe.admits 0 O.spareAssignGroup 1 255 ∧
      ((onFe fun f => f.put O.leaseHolder 2).fe.group 15).assignLocked = false ∧ (onFe fun f => f.put O.leaseHolder 2).fe.assigned 15 ≠ 15 :=
  ⟨fe_admits_of_test (by decide +kernel), fe_admits_of_test (by decide +kernel), by decide +kernel, by decide +kernel⟩

/-- A mark due now and another later; a commanded epoch at its last beat, and a flywheel epoch at its. -/
def markState : State := onFe fun f => { f with marks := [(7, 5), (9, 6)], now := 7 }
def epochState (kind now : Nat) : State := onFe fun f => { f with kind := kind, now := now }

theorem hyp_marks :
    markState.fe.up = true ∧ markState.fe.marks = (7, 5) :: [(9, 6)] ∧ 7 ≤ markState.fe.now ∧ ({ markState.fe with now := 6 } : Fe).now < 7 ∧
      (epochState 1 93843750).fe.up = true ∧ (epochState 1 93843750).fe.kind ≠ 0 ∧
      flywheelTicks (epochState 1 93843750).fe.kind ≤ (epochState 1 93843750).fe.inEpoch ∧
      (epochState 2 93750000).fe.kind ≠ 0 ∧ flywheelTicks (epochState 2 93750000).fe.kind ≤ (epochState 2 93750000).fe.inEpoch ∧
      (epochState 1 93843749).fe.inEpoch < flywheelTicks (epochState 1 93843749).fe.kind ∧ ready.fe.kind = 0 ∧
      (∀ m ∈ (epochState 2 93750000).fe.marks, (epochState 2 93750000).fe.now < m.1) ∧ (∃ m ∈ markState.fe.marks, m.1 ≤ markState.fe.now) ∧
      markState.pending = [] ∧ markState.fe.marks.Pairwise (fun a b => a.1 ≤ b.1) := by decide +kernel

/-- The pending corrections may be any value of their bytes. -/
theorem hyp_corrections :
    (onFe fun f => f.put O.leaseHolder 2).fe.admits 1 O.walkEnable O.walkEnable.bytes (2 ^ 16 - 1) ∧ 2 ^ 16 - 1 < 2 ^ (8 * O.walkEnable.bytes) ∧
      ready.fe.admits 0 O.timeOffset O.timeOffset.bytes 1 ∧ ready.fe.admits 0 O.walkTable O.walkTable.bytes 1 :=
  ⟨fe_admits_of_test (by decide +kernel), by decide +kernel, fe_admits_of_test (by decide +kernel), fe_admits_of_test (by decide +kernel)⟩

/-- No lease; a lease of side A with number 9, running and at the end of its timer. -/
def leaseState (now : Nat) : State := onFe fun f =>
  (({ f with tick := now } : Fe).withSys fun y => { y with leaseEnd := some 50000 }).put O.leaseNumber 9
def freeState : State := onFe fun f => (f.withSys fun y => { y with leaseEnd := none }).put O.leaseHolder 0

theorem hyp_leases :
    freeState.fe.up = true ∧ freeState.fe.leaseNow = none ∧ ¬(1 = 1 ∧ false = true) ∧ (leaseState 0).fe.leaseNow ≠ none ∧
      (leaseState 0).fe.leaseNow = some (0 + 1, some 50000) ∧ (0x0500000000000009 : Word).toNat % 2 ^ 32 = (leaseState 0).fe.get O.leaseNumber ∧
      (∀ e ∈ [none, some 50000], (leaseState 0).fe.leaseNow ≠ some (1 + 1, e)) ∧
      (0x0500000000000008 : Word).toNat % 2 ^ 32 ≠ (leaseState 0).fe.get O.leaseNumber ∧
      (leaseState 150000000).fe.sys.leaseEnd = some 50000 ∧ 50000 < (leaseState 150000000).fe.ao ∧ (leaseState 0).fe.ao ≤ 50000 := by
  decide +kernel

/-- The downlink of side 1 and uplink 3 in test mode, their time over. -/
def testLane (l : Lane) : Lane := { l with st := .prbs, prbs := { mode := 1, until? := some 5 } }
def prbsState : State := onFe fun f =>
  ({ f with tick := 5 } : Fe).setSide 1 { f.side 1 with down := testLane (f.side 1).down, up1 := testLane (f.side 1).up1 }

theorem hyp_prbs :
    (∀ code, code < 4 → 1 ≤ code → ready.fe.admits 0 O.downlinkPrbsMode O.downlinkPrbsMode.bytes (entrySet 4 (ready.fe.get O.downlinkPrbsMode) 0 code)) ∧
      (List.range 2).all (fun n => decide (entryGet 4 (ready.fe.get O.downlinkPrbsMode) n < 4)) = true ∧ prbsState.fe.up = true ∧
      (prbsState.fe.side 1).down.st = .prbs ∧ (prbsState.fe.side 1).down.prbs.until? = some 5 ∧ 5 ≤ prbsState.fe.tick ∧
      ((prbsState.fe.side (3 / 2)).up (3 % 2)).st = .prbs ∧ ((prbsState.fe.side (3 / 2)).up (3 % 2)).prbs.until? = some 5 :=
  ⟨fun code h1 h2 => fe_admits_of_test ((by decide +kernel : ∀ code, code < 4 → 1 ≤ code → fePassesB ready.fe 0 O.downlinkPrbsMode
    O.downlinkPrbsMode.bytes (entrySet 4 (ready.fe.get O.downlinkPrbsMode) 0 code) = true) code h1 h2), by decide +kernel⟩

theorem hyp_health :
    ({ st := .retired } : Health).st = .retired ∧ ({} : Health).st ≠ .retired ∧ ((0x10 = 0x10 ∧ 271 < 272) : Prop) ∧ 15 < 16 ∧ 3 < 4 ∧
      (leaseState 0).fe.holder ≠ 1 + 1 ∧ (leaseState 0).fe.up = true := by decide +kernel

/-- Event counters of both parts, at zero and at their all-ones value. -/
theorem hyp_counters :
    O.lostHits ∈ feObjs ∧ O.feUnleasedRequests ∈ feObjs ∧ O.feUnleasedRequests.counter = true ∧ O.gatedAccesses ∈ concObjs ∧
      O.gatedAccesses.counter = true ∧ 2 ^ 32 - 1 < 2 ^ (8 * O.gatedAccesses.bytes) := by decide +kernel

/-- A reset of both parts asked for, due at tick 5. -/
def resetState (now : Nat) : State :=
  { ready with fe := { readyFe with tick := now, sys := { readyFe.sys with resetDue := some 5 } }
               conc := { readyConc with tick := now, boot := { readyConc.boot with resetDue := some 5 } } }

theorem hyp_resets :
    ready.conc.serves 2 ∧ ready.fe.holder = 0 + 1 ∧ (resetState 5).fe.sys.resetDue = some 5 ∧ 5 ≤ (resetState 5).fe.tick ∧
      (resetState 4).fe.tick < 5 ∧ (resetState 5).conc.boot.resetDue = some 5 ∧ 5 ≤ (resetState 5).conc.tick ∧ (resetState 4).conc.tick < 5 :=
  ⟨serves_of_test (by decide +kernel), by decide +kernel⟩

/-- A counter on the base clock, one on the always-on clock, at and below the end of a second; bounds of the increments. -/
def secondState (acc : Nat) : State := onConc fun c => c.withTime fun t => { t with acc := acc }

/-- The end of a second in tick 7, and an increment written in a tick. -/
def wroteState (w : Nat) : State := onConc fun c =>
  { c with tick := 7 }.withTime fun t => { t with acc := 10 ^ 9 * 2 ^ 32, crossTick := 7, wroteAt := some w, before := (45800000000, 512000000000) }

theorem hyp_time :
    ({} : TimeBase).load = none ∧ ({} : TimeBase).hand = 0 ∧ ({} : TimeBase).onAo = false ∧ ({ onAo := true } : TimeBase).onAo = true ∧ aoOf 2861 < aoOf (2861 + 1) ∧
      aoOf 1 = aoOf (1 + 1) ∧ (secondState (10 ^ 9 * 2 ^ 32)).conc.up = true ∧
      1000000000 * 2 ^ 32 ≤ (secondState (10 ^ 9 * 2 ^ 32)).conc.time.acc ∧
      (secondState (10 ^ 9 * 2 ^ 32 - 1)).conc.time.acc < 1000000000 * 2 ^ 32 ∧ 45767171507 ≤ 45858797475 ∧ 511488000000 ≤ 512512000000 ∧
      (secondState (10 ^ 9 * 2 ^ 32)).conc.time.wroteAt = none ∧ (wroteState 7).conc.time.wroteAt = some 7 ∧
      (wroteState 7).conc.rolloverTick ≤ 7 ∧ 6 < (wroteState 6).conc.rolloverTick ∧
      ({ acc := 10 ^ 9 * 2 ^ 32 - 1 } : TimeBase).acc < 1000000000 * 2 ^ 32 ∧
      1000000000 * 2 ^ 32 ≤ (({ acc := 10 ^ 9 * 2 ^ 32 - 1 } : TimeBase).tick 1).acc ∧
      1000000000 * 2 ^ 32 ≤ (({ acc := 10 ^ 9 * 2 ^ 32 - 1, onAo := true } : TimeBase).tick 2861).acc := by
  decide +kernel

theorem hyp_can :
    ready.conc.up = true ∧ (ready.conc.heard 0).canAlive = true ∧ (ready.conc.heard 0).ringAsleep = false ∧ (ready.conc.heard 0).rom = false ∧
      ({ readyConc with dict := { readyConc.dict with can := { readyConc.dict.can with state := 4 } } } : Conc).dict.can.state = 4 := by
  decide +kernel

/-- The session is free, held by source 2, or locked; a right and a wrong password; two wrong ones before. -/
def lockedState : State := onConc fun c => { c with dict := { c.dict with session := none, lockedUntil := some 1 } }
def wrongState : State := onConc fun c => { c with dict := { c.dict with session := none, wrong := 2 } }

theorem hyp_session :
    closedState.conc.serves 1 ∧ (closedState.conc.asked 1).unlocked = true ∧ (closedState.conc.asked 1).dict.session = none ∧
      (closedState.conc.asked 1).passwordOk 0 = true ∧ (closedState.conc.asked 1).passwordOk (2 ^ 64 - 1) = false ∧
      ready.conc.serves 1 ∧ (ready.conc.asked 1).unlocked = true ∧ (ready.conc.asked 1).dict.session = some 2 ∧
      lockedState.conc.serves 2 ∧ (lockedState.conc.asked 2).unlocked = false ∧
      wrongState.conc.serves 2 ∧ (wrongState.conc.asked 2).unlocked = true ∧ 2 ≤ (wrongState.conc.asked 2).dict.wrong ∧
      (wrongState.conc.asked 2).passwordOk 1 = false :=
  ⟨serves_of_test (by decide +kernel), by decide +kernel, by decide +kernel, by decide +kernel, by decide +kernel,
    serves_of_test (by decide +kernel), by decide +kernel, by decide +kernel, serves_of_test (by decide +kernel), by decide +kernel,
    serves_of_test (by decide +kernel), by decide +kernel⟩

/-- Eight entries posted, three acknowledged. -/
def logState : State := onConc fun c => { c with faults := { c.faults with next := 8, acked := 3 } }

theorem hyp_log :
    logState.conc.admits 2 O.faultLogAck 4 7 ∧ logState.conc.admits 2 O.faultLogAck 4 2 ∧ 2 < (logState.conc.asked 2).faults.acked ∧
      (logState.conc.asked 2).faults.acked ≤ 7 ∧ 7 < (logState.conc.asked 2).faults.next :=
  ⟨admits_of_test (by decide +kernel), admits_of_test (by decide +kernel), by decide +kernel⟩

/-- A failed pair; an enabled loop; scopes locked; the debug module gated. -/
theorem hyp_failures :
    (onConc fun c => c.withPair fun x => { x with state := 5 }).conc.pair.state = 5 ∧ ready.conc.pair.state ≠ 5 ∧ ready.conc.up = true ∧
      (onConc fun c => c.put O.loopSetup (entrySet 128 0 15 1)).conc.loopEnabled 15 = true ∧
      ready.conc.sec.unlocked = 0 ∧ ready.conc.gated 8 = true := by decide +kernel

/-- The Ringmaster's scope alone is open, the module ungated, and an engine's hart is selected. -/
def halfLocked : State := onConc fun c => { c with sec := { c.sec with unlocked := 2 }, pwr := { c.pwr with gated := 0 } }

theorem hyp_locked_hart :
    halfLocked.conc.up = true ∧ halfLocked.conc.gated 8 = false ∧ halfLocked.conc.sec.unlocked ≠ 0 ∧ halfLocked.conc.hartSel ≤ 384 ∧
      halfLocked.conc.hartOpen halfLocked.conc.hartSel = false ∧ halfLocked.conc.hartOpen 384 = true ∧
      halfLocked.conc.hartOpen 383 = false := by decide +kernel

/-- Port 47 with a lease, 45 ms after the last answered renewal and one tick later. -/
def heldState (now : Nat) : State := onConc fun c => { c.setLease 47 { status := 2, base := 0 } with tick := now }

theorem hyp_held :
    (heldState (45 * msTicks)).conc.acts 47 = true ∧ (heldState (45 * msTicks + 1)).conc.runs = true ∧
      ((heldState (45 * msTicks + 1)).conc.lease 47).status = 2 ∧
      ((heldState (45 * msTicks + 1)).conc.lease 47).base + 45 * msTicks < (heldState (45 * msTicks + 1)).conc.tick ∧
      ¬(((heldState (45 * msTicks)).conc.lease 47).status = 2 ∧
        ((heldState (45 * msTicks)).conc.lease 47).base + 45 * msTicks < (heldState (45 * msTicks)).conc.tick) := by decide +kernel

/-- Bytes at the top of memory, and the empty memory in its form. -/
theorem hyp_memory : (∀ b ∈ [255, 0], b < 256) ∧ Memory.wf readyConc.mem.bytes = true ∧ (0 < 1 ∨ 1 + [255, 0].length ≤ 0) := by decide +kernel

/-- Back-end lanes 0 and 1 carry class 0, and a word waits. -/
def egressState : State := onConc fun c =>
  let up : Lane := { st := .active, tx := { synced := true } }
  { ((c.setLane (laneBe 0) up).setLane (laneBe 1) up) with egr := { c.egr with c0 := [(0, 1)] } }

theorem hyp_egress :
    egressState.conc.baseUp = true ∧ egressState.conc.egr.c0 ≠ [] ∧ egressState.conc.class0Lanes ≠ [] ∧ egressState.conc.mute = false ∧
      egressState.conc.egr.c0.length ≤ 512 ∧ ready.conc.egr.c0 = [] ∧ ready.conc.egr.c0.length ≤ 512 ∧
      (ready.conc.egr.held ≠ [] → ready.conc.egr.c0.length = 512) := by decide +kernel

/-- Not enrolled, sealed, and incomplete with a hash. -/
def ownerState (owner hash : Nat) : State := onConc fun c => { c with sec := { c.sec with owner := owner, ownerHash := hash } }

theorem owner_admits (owner hash v : Nat) (h : passesB (ownerState owner hash).conc 2 O.ownerKeyHash 64 v 0 = true) :
    (ownerState owner hash).conc.admits 2 O.ownerKeyHash 64 v := admits_of_test h

theorem hyp_owner :
    (ownerState 0 0).conc.admits 2 O.ownerKeyHash 64 (2 ^ 512 - 2) ∧ ((ownerState 0 0).conc.asked 2).sec.owner = 0 ∧
      (ownerState 2 7).conc.admits 2 O.ownerKeyHash 64 7 ∧ ((ownerState 2 7).conc.asked 2).sec.owner = 2 ∧
      7 = ((ownerState 2 7).conc.asked 2).sec.ownerHash ∧ (ownerState 1 7).conc.admits 2 O.ownerKeyHash 64 7 ∧
      ((ownerState 1 7).conc.asked 2).sec.owner = 1 ∧ (ownerState 0 0).conc.admits 2 O.ownerKeyHash 64 0 ∧
      (ownerState 0 0).conc.admits 2 O.ownerKeyHash 64 (2 ^ 512 - 1) ∧ (ownerState 0 0).conc.admits 2 O.ownerFloorCommit 1 24 ∧
      ((ownerState 0 0).conc.asked 2).sec.ownerFloor < 24 ∧ answers (exec (.ownerFloorCommit 2 24) (ownerState 0 0)) (fun _ => true) = true ∧
      answers (exec (.firmwareFloorCommit 2 1) armedState) (fun _ => true) = true :=
  ⟨owner_admits _ _ _ (by decide +kernel), by decide +kernel, owner_admits _ _ _ (by decide +kernel), by decide +kernel, by decide +kernel,
    owner_admits _ _ _ (by decide +kernel), by decide +kernel, owner_admits _ _ _ (by decide +kernel), owner_admits _ _ _ (by decide +kernel),
    admits_of_test (by decide +kernel), by decide +kernel⟩

theorem hyp_store :
    ready.conc.admits 2 O.store 4 0x65766173 ∧ ready.conc.admits 2 O.restore 4 0x64616F6C ∧ (ready.conc.asked 2).gated 11 = false :=
  ⟨admits_of_test (by decide +kernel), admits_of_test (by decide +kernel), by decide +kernel⟩

/-- REFUSED with a bundle and its conditions held for ReleaseDelay. -/
def safetyState : State := onConc fun c => c.withSafety fun x =>
  { x with st := 1, passed := true, inputs := 15, since := some 0, bundle := some { payload := ofBytes safetyPayload, measurement := 0 }, request := 3 }

theorem hyp_safety :
    safetyState.conc.safetyUp = true ∧ ready.conc.safetyUp = true ∧ safetyState.conc.safety.conditions = true ∧
      answers (exec .releaseDelayEnd { safetyState with conc := { safetyState.conc with tick := 10 * msTicks + 1 } })
        (fun t => decide (t.conc.safety.st = 2 ∧ bitAt t.conc.safety.outputs 1 = true)) = true ∧
      answers (exec (.safetyInputChange 3 0) { safetyState with conc := safetyState.conc.safetySet fun x => { x with st := 2 } })
        (fun t => decide (t.conc.safety.st = 2)) = true := by decide +kernel

/-- Channel 31 with a ring of 4 entries: a tail within it, and one beyond. -/
def moverState : State := onConc fun c => c.setMover 31 { entries := 4, head := 65535, tail := 65535 }

theorem hyp_mover :
    moverState.conc.baseUp = true ∧ (3 + 65536 - (moverState.conc.mover 31).head) % 65536 ≤ (moverState.conc.mover 31).entries ∧
      (moverState.conc.mover 31).entries < (4 + 65536 - (moverState.conc.mover 31).head) % 65536 := by decide +kernel

theorem hyp_loops :
    (0 : Rat) ≤ 1 / 1000 ∧ (0 : Rat) ≤ 12 ∧ (12 : Rat) < 50 ∧ (-65535 : Int) ≤ 65535 ∧ ((5 : Rat) ≤ 7) ∧ (7 : Rat) ≤ 7 := by decide +kernel

/-- The TIU's gate closed: an object of its block, of no block that is claimed. -/
def gatedState : State := onConc fun c => c.withPwr fun x => { x with gated := 1 }

theorem hyp_gated :
    okWith (lookupObj concObjs O.tiuMode.index O.tiuMode.sub) (fun p => decide (p = (O.tiuMode, 0))) = true ∧ O.tiuMode.access ≠ .wo ∧
      O.tiuMode.access ≠ .const ∧ concBlockOf O.tiuMode.index O.tiuMode.sub = some 0 ∧ gatedState.conc.gated 0 = true ∧
      gatedState.conc.serves 2 ∧ okWith (O.tiuMode.checkWrite ((gatedState.conc.asked 2).mayLock 2) 1 2) (fun v => decide (v = O.tiuMode.taken 1 2)) = true ∧
      (gatedState.conc.asked 2).gated 0 = true ∧ claimsGate O.tiuMode.index O.tiuMode.sub = false :=
  ⟨by decide +kernel, by decide +kernel, by decide +kernel, by decide +kernel, by decide +kernel, serves_of_test (by decide +kernel),
    by decide +kernel⟩

/-- The gate of the light drive closed: its feedback run claims the block. -/
def claimState : State := onConc fun c => c.withPwr fun x => { x with gated := 2 ^ 6 }

theorem hyp_claimed :
    okWith (lookupObj concObjs O.feedbackRun.index O.feedbackRun.sub) (fun p => decide (p = (O.feedbackRun, 0))) = true ∧
      concBlockOf O.feedbackRun.index O.feedbackRun.sub = some 6 ∧ claimState.conc.serves 2 ∧ (claimState.conc.asked 2).gated 6 = true ∧
      claimsGate O.feedbackRun.index O.feedbackRun.sub = true :=
  ⟨by decide +kernel, by decide +kernel, serves_of_test (by decide +kernel), by decide +kernel⟩

/-- A queue of 3,840 sealed entries is full for tiers B and C, and none of them takes a trigger. -/
def sealedEntry : QEntry := { id := 0, a := 0, b := 0, tier := 0, sealed := true }
def queueState : State := onConc fun c => c.withCaro fun x => { x with queue := List.replicate 3840 sealedEntry }

theorem sealed_takes_none (f : Option QEntry → QEntry → Option QEntry) (h : f none sealedEntry = none) (n : Nat) :
    (List.replicate n sealedEntry).foldl f none = none := by
  induction n with
  | zero => rfl
  | succ n ih => simp only [List.replicate_succ, List.foldl_cons, h, ih]

theorem hyp_triggers :
    (queueState.conc.admitTrigger 2 0 100 false).1 = 3 ∧ (ready.conc.admitTrigger 2 0 100 false).1 ≠ 3 ∧ ready.conc.caro.running = false := by
  refine ⟨?_, by decide +kernel, by decide +kernel⟩
  have h1 : queueState.conc.openEntry 0 100 = none := sealed_takes_none _ (by simp [sealedEntry]) 3840
  have h2 : queueState.conc.entryAllowed 2 = false := by
    show decide ((List.replicate 3840 sealedEntry).length < 3840) = false
    simp only [List.length_replicate, Nat.lt_irrefl, decide_false]
  simp [Conc.admitTrigger, h1, h2]

/-- The largest fields of words, messages, registers and encodings. -/
theorem hyp_fields :
    (255 < 256 ∧ 1023 < 1024 ∧ 2 ^ 40 - 1 < 2 ^ 40) ∧ (2 ^ 16 - 1 < 2 ^ 16 ∧ 2 ^ 8 - 1 < 2 ^ 8 ∧ 2 ^ 32 - 1 < 2 ^ 32) ∧
      (31 < 32 ∧ 127 < 128 ∧ 1 ≤ 31) ∧ (47 < 48 ∧ 0x2000 ≤ 0x207F ∧ 0x207F ≤ 0x207F) ∧ (31 : Nat) ≠ 0 := by decide +kernel

/-- A request to the last window index of port 47, to one without a front-end object, one of 40 bytes and one of 41. -/
def liveState : State := onConc fun _ => (heldState 0).conc.setGport 47 { (heldState 0).conc.gport 47 with st := .live }
def windowReq (index sub op len : Nat) : Req := { tid := 1, op := op, index := index, sub := sub, len := len }

theorem hyp_windows :
    isWindow 0x57FF = true ∧ liveState.conc.rom = false ∧ (windowReq 0x57FF 0 1 0).poisoned = false ∧
      okWith (lookupObj feObjs (windowFe 0x57FF) 0) (fun _ => true) = false ∧ isWindow 0x5790 = true ∧
      okWith (liveState.conc.windowCheck 2 (windowReq 0x5790 0 1 0)) (fun _ => true) = true ∧ (windowReq 0x5790 0 2 23).bytes ≤ 40 ∧
      40 < (windowReq 0x5790 0 2 512).bytes := by decide +kernel

/-! ## One step at a time -/

/-- No row of the table has a word of its own, so no word spells a command. -/
theorem test_no_words : decodeTableWord 16 0x5A5A = none ∧ (ready.withFetchWord 16 0x5A5A).pending = [] := by decide +kernel

/-- A step takes the front of the queue and leaves the rest. -/
theorem test_step_takes_the_front :
    answers (step { ready with pending := [.rollover, .mergerTake] }) (fun t => decide (t.pending = [.mergerTake])) = true := by decide +kernel

/-- An ill-formed command stops with its name. -/
theorem test_ill_formed : exec (.channelSettleEnd 256) ready = .fault .illFormed := rfl

/-- R31: 1,024 beats after the leading edge the time-over-threshold is 1,023; the hit is in the derandomiser. -/
theorem test_trailing_edge :
    answers (exec (.trailingEdge 255 256 0 false) hitState)
      (fun t => (t.fe.chan 255).derand.any fun h => bits h.word.toNat 49 40 == 1023 && bits h.word.toNat 60 53 == 255) = true := by decide +kernel

/-- R31: edges less than a beat apart, on two sides of the start of a beat, are no whole beat apart. -/
theorem test_tot_within_a_beat :
    hitState.fe.totAt { testCand with lead := (40 * 32 + 4) * 256 + 200 } (5 * 256 + 100) = 0 ∧
      hitState.fe.totAt { testCand with lead := (40 * 32 + 4) * 256 + 200 } (5 * 256 + 200) = 1 := by decide +kernel

/-- R46: a pulse below 150 ps makes no count of any kind, in a blank either; one of 250 ps is lost to the blank. -/
def blankState : State := onFe fun f =>
  ((f.withSys fun y => { y with mode := 3 }).put O.channelMode (entrySet 8 0 255 2)).setChan 255 { f.chan 255 with blankUntil := some 9 }
theorem test_narrow_pulse :
    answers (exec (.timingCrossing 255 0 0 149 none) blankState)
        (fun t => decide (t.fe.get O.lostHits = blankState.fe.get O.lostHits ∧ (t.fe.chan 255).cand = none)) = true ∧
      answers (exec (.timingCrossing 255 0 0 250 none) blankState)
        (fun t => decide (entryGet 32 (t.fe.get O.lostHits) 255 = 1)) = true := by decide +kernel

/-- R67: the 513th word of a sorter waits at its entry. -/
theorem test_sorter_full :
    (((sorterState 512 []).fe.pushSorter 15 testItem).group 15).wait.length = 1 ∧
      (((sorterState 511 []).fe.pushSorter 15 testItem).group 15).sorter.length = 512 := by decide +kernel

/-- R71: the 33rd hit discards the oldest, or the next-oldest while the oldest is read. -/
theorem test_derandomiser_full :
    ((fullState.fe.derandWrite 255 (testHit 40) false).chan 255).derand.map HitEntry.time = (List.range 31).map (· + 1) ++ [40] ∧
      ((fullState.fe.derandWrite 255 (testHit 40) true).chan 255).derand.map HitEntry.time = 0 :: (List.range 30).map (· + 2) ++ [40] := by
  decide +kernel

/-- R377: a claim with no holder is granted with the next number and a timer of 50,000 AO ticks. -/
theorem test_lease_claim :
    answers (exec (.leaseClaim 1 0x0600000000000000 false) freeState)
      (fun t => decide (t.fe.get O.leaseHolder = 2 ∧ t.fe.get O.leaseNumber = 1 ∧ t.fe.sys.leaseEnd = some 50000)) = true := by decide +kernel

/-- R42: a mark that is not due yet changes nothing. -/
theorem test_mark_waits :
    answers (exec .secondMarkExecute { markState with fe := { markState.fe with now := 6 } })
      (fun t => decide (t.fe.marks = [(7, 5), (9, 6)] ∧ t.fe.kind = 0)) = true := by decide +kernel

/-- R42: the base tick in which a mark is due does not end without it. -/
theorem test_mark_executes_in_its_tick :
    markState.fe.tickOn.marks = [(9, 6)] ∧ markState.fe.tickOn.epoch.start = 7 ∧ markState.fe.tickOn.now = 8 := by decide +kernel

/-- R33: with input 15 on the spare, slot 16 of group 15 serves channel 255 and slot 15 none. -/
theorem test_spare :
    answers (exec (.spareAssignWrite 0 15 15) ready)
      (fun t => decide (t.fe.servedBy 15 16 = some 255 ∧ t.fe.servedBy 15 15 = none ∧ t.fe.servedBy 15 14 = some 254)) = true := by decide +kernel

/-- R318: side B does not hold the lease, so its write is counted and refused. -/
theorem test_unleased :
    answers (exec (.registerWrite .fe 1 0x2024 4 2 1) ready)
      (fun t => decide (t.fe.get O.feUnleasedRequests = 1 ∧ t.fe.get O.freeze = 0)) = true := by decide +kernel

/-- R148: at 10^9 ns the second ends. -/
theorem test_rollover :
    answers (exec .rollover (secondState (10 ^ 9 * 2 ^ 32 + 3))) (fun t => decide (t.conc.seconds = 1 ∧ t.conc.time.acc = 3)) = true ∧
      answers (exec .rollover (secondState (10 ^ 9 * 2 ^ 32 - 1))) (fun t => decide (t.conc.seconds = 0)) = true := by decide +kernel

/-- R151, R170: an increment written in the tick of the rollover waits for the next one. -/
theorem test_increment_waits :
    answers (exec .rollover (wroteState 7)) (fun t => decide (t.conc.time.incBase = 45800000000)) = true ∧
      answers (exec .rollover (wroteState 6)) (fun t => decide (t.conc.time.incBase = 45812984491)) = true := by decide +kernel

/-- R505: a conversion is rounded to nearest, a tie upwards. -/
theorem test_nearest : roundDiv 5 2 = 3 ∧ roundDiv (-5) 2 = -2 ∧ roundDiv 7 3 = 2 := by decide +kernel

/-- R466: the signature asks for a reset in 10 ms; any other value is refused. -/
theorem test_reset_command :
    answers (exec (.resetCommand 2 0x74657372) ready) (fun t => decide (t.conc.boot.resetDue = some 937500)) = true ∧
      answers (exec (.resetCommand 2 0x74657373) ready) (fun t => decide (t.conc.boot.resetDue = none)) = true := by decide +kernel

/-- R253: four descriptors fit a ring of four, five do not. -/
theorem test_mover_tail :
    answers (exec (.moverTailWrite 31 3) moverState) (fun t => decide ((t.conc.mover 31).tail = 3)) = true ∧
      answers (exec (.moverTailWrite 31 4) moverState)
        (fun t => decide ((t.conc.mover 31).tail = 65535 ∧ (t.conc.mover 31).tailRefused = true ∧ t.conc.get O.tailRefused = 1)) = true := by
  decide +kernel

/-- R421: a read of AdcData clears bits 22 and 23 and leaves the rest. -/
theorem test_adc_data :
    answers (exec (.adcDataRead 2) (onConc fun c => c.put O.adcData 0xFFFFFF)) (fun t => decide (t.conc.get O.adcData = 0x3FFFFF)) = true := by
  decide +kernel

/-- R9: an event counter stops at all ones. -/
theorem test_counter_saturates :
    ((readyConc.put O.gatedAccesses (2 ^ 32 - 1)).count O.gatedAccesses).get O.gatedAccesses = 2 ^ 32 - 1 ∧
      ((readyConc.put O.gatedAccesses 5).count O.gatedAccesses).get O.gatedAccesses = 6 := by decide +kernel

/-- R351: the eighth event makes a resource SUSPECT, and an immediate cause does at once.  R372: a test passed in the clock of a
new event leaves 5 of 8. -/
theorem test_health :
    (({ counter := 6 } : Health).event false).st = .healthy ∧ (({ counter := 7 } : Health).event false).st = .suspect ∧
      (({} : Health).event true).st = .suspect ∧ (({} : Health).event true).counter = 8 ∧
      ((({ counter := 8 } : Health).eventAt 70 false).heal 70).counter = 5 ∧
      ((({ counter := 8 } : Health).eventAt 70 false).heal 71).counter = 4 := by decide +kernel

/-- Output 5 at fraction 256 in PWM mode of depth 12 with a duty, full scale 120 mA. -/
def lampConc (now duty : Nat) : Conc :=
  { ((ready.conc.put O.ledFullScale 120).put O.ledBinGain (entrySet 16 (ready.conc.get O.ledBinGain) 5 31130)).put O.ledChannel
      (entrySet 64 0 5 (2 + 12 * 2 ^ 8 + 256 * 2 ^ 16 + duty * 2 ^ 32)) with now := now }

/-- R447's lamp: a gain of 0.95 makes 243 of 1,023 of 120 mA, 28.504 mA; a new duty waits for the next period. -/
theorem test_lamp :
    ((lampConc 0 1024).ledDrive 5).k = 243 ∧ ((lampConc 0 1024).ledCurrent 5 * 1000).floor = 28504 ∧
      (lampConc 1023 1024).ledOn 5 = true ∧ (lampConc 1024 1024).ledOn 5 = false ∧
      ((lampConc 9 5).holdDrive (lampConc 9 1024)).ledOn 5 = true ∧ (lampConc 9 5).ledOn 5 = false := by decide +kernel

/-- R432, R433: a ramp of 2 per s moves by 1 in half a second; the feed-forward of 12 V towards 24 V is half of 65,536. -/
theorem test_loop_arithmetic :
    rampStep 0 10 2 (1 / 2) = 1 ∧ rampStep 0 10 0 (1 / 2) = 10 ∧ feedForward 0 (some 12000) 24000 = 32768 ∧ feedForward 12 (some 12000) 24000 = 0 := by
  decide +kernel

/-- R316: index 2010 hex of the front-end on port 12 is index 4610 hex. -/
theorem test_window : windowIndex 12 0x2010 = 0x4610 ∧ windowPort 0x4610 = 12 ∧ windowFe 0x4610 = 0x2010 := by decide +kernel

/-- R122: the check value of CRC-32C. -/
theorem test_crc : crc32c [0x31, 0x32, 0x33, 0x34, 0x35, 0x36, 0x37, 0x38, 0x39] = 0xE3069283 := by decide +kernel

/-- FIPS 180-4: the digest of "abc" begins DDAF35A1. -/
theorem test_sha512 : (sha512 [0x61, 0x62, 0x63]).take 4 = [0xDD, 0xAF, 0x35, 0xA1] := by decide +kernel

/-- R219: the words that the rule spells. -/
theorem test_xqtm :
    decode32 0x0000050B = some (.xqtm .qpop 10 0 0) ∧ decode32 0x0600250B = some (.xqtm (.qtime 3) 10 0 0) ∧
      decode32 0x00C5C50B = some (.xqtm .qtrig 10 11 12) := by decide +kernel

/-- R451: REFUSED with its conditions held for ReleaseDelay becomes PERMITTED, one tick less does not. -/
theorem test_release :
    answers (exec .releaseDelayEnd { safetyState with conc := { safetyState.conc with tick := 10 * msTicks + 1 } })
      (fun t => decide (t.conc.safety.outputs = 3)) = true ∧
      answers (exec .releaseDelayEnd { safetyState with conc := { safetyState.conc with tick := 10 * msTicks } })
        (fun t => decide (t.conc.safety.st = 1 ∧ t.conc.safety.outputs = 0)) = true := by decide +kernel

/-- R340: while the TIU is gated its mode reads zero and a write of it is discarded and counted. -/
theorem test_gated :
    answers (exec (.registerWrite .conc 2 O.tiuMode.index O.tiuMode.sub 1 2) gatedState)
      (fun t => decide (t.conc.get O.tiuMode = 1 ∧ t.conc.get O.gatedAccesses = 1)) = true := by decide +kernel

/-- R502: with both scopes locked the debug module reads zero with status 2. -/
theorem test_debug_locked :
    answers (exec (.dmiAccess 1 0x11 0) ready) (fun t => decide (t.conc.tap.op = 2 ∧ t.conc.tap.data = 0)) = true := by decide +kernel

/-- Defaults of the cards: GateControl 0580 hex, ProducerHeartbeat 1,000 ms, ValidationWindow 12. -/
theorem test_defaults :
    State.reset.conc.get O.gateControl = 0x580 ∧ State.reset.conc.get O.producerHeartbeat = 1000 ∧ State.reset.fe.get O.validationWindow = 12 := by
  decide +kernel

end Sys2Proof.Tests
end

section
/-! Memory: a little-endian read of the bytes just written gives their value (R7, R237). -/

namespace Sys2Proof.Proofs

open Sys2Proof.Machine Sys2Proof.Laws

@[simp] theorem memGet_zero (m : MemSt) (a : Nat) : m.get a 0 = 0 := rfl

/-- R7: the byte at the lowest address is the least significant one. -/
theorem memGet_succ (m : MemSt) (a n : Nat) : m.get a (n + 1) = m.byte a % 256 + 256 * m.get (a + 1) n := by
  have shift : ∀ i, m.byte (a + (i + 1)) = m.byte (a + 1 + i) := fun i => by rw [Nat.add_assoc, Nat.add_comm i 1]
  simp only [MemSt.get, List.range_succ_eq_map, List.map_cons, List.map_map, ofBytes, Nat.add_zero, Function.comp_def,
    Nat.succ_eq_add_one, shift]

/-- The later bytes of a row leave its first byte alone, so the read gives it back. -/
theorem byte_putBytes_head (m : MemSt) (a b : Nat) (bs : List Nat) : (m.putBytes a (b :: bs)).byte a = b % 256 := by
  rw [MemSt.putBytes, byte_putBytes_outside _ (a + 1) bs a (.inl a.lt_succ_self), byte_setByte_same]

/-- A value above 255 is stored by its low eight bits, and `ofBytes` counts no more of it: no bound on the bytes is needed. -/
theorem memGet_putBytes_same (m : MemSt) (a : Nat) (bs : List Nat) : (m.putBytes a bs).get a bs.length = ofBytes bs := by
  induction bs generalizing m a with
  | nil => exact memGet_zero m a
  | cons b bs ih =>
    have tail : (m.putBytes a (b :: bs)).get (a + 1) bs.length = ofBytes bs := ih (m.setByte a b) (a + 1)
    rw [List.length_cons, memGet_succ, byte_putBytes_head, tail, Nat.mod_mod, ofBytes]

/-- Settles O38: the read by induction on the bytes written, the frame and the canonical form by the laws of `putBytes`. -/
theorem memoryReadsBackWhatWasWritten : Obligations.MemoryReadsBackWhatWasWritten := fun m a bs _ =>
  ⟨memGet_putBytes_same m a bs, byte_putBytes_outside m a bs, putBytes_wf m a bs⟩

end Sys2Proof.Proofs
end

section
/-! A hit leaves its channel with its time-over-threshold (R31). -/

namespace Sys2Proof.Proofs

open Sys2Proof.Machine Sys2Proof.Laws

/-- R89: a scaler event changes the scaler of its channel and nothing else of it. -/
theorem fe_chan_scale (f : Fe) (c src : Nat) : ∃ n, (f.scale c src).chan c = { f.chan c with scaler := n } := by
  unfold Fe.scale
  split
  · exact ⟨_, fe_chan_setChan ..⟩
  · exact ⟨_, rfl⟩

theorem fe_chan_scale_other (f : Fe) {c d : Nat} (src : Nat) (h : d ≠ c) : (f.scale c src).chan d = f.chan d := by
  unfold Fe.scale
  split
  · exact fe_chan_setChan_other _ _ h
  · rfl

/-- The time of a hit comes from its candidate and the epochs, so the candidate may be taken out of the channel first. -/
theorem fe_finishHit_eq {f : Fe} {c : Nat} {k : Cand} (tot ups : Nat) (reading : Bool) (h : (f.chan c).cand = some k) :
    f.finishHit c tot ups reading =
      ((f.setChan c { f.chan c with cand := none }).derandWrite c (f.hitOf k tot c ups) reading).scale c 2 := by
  simp only [Fe.finishHit, h, Fe.hitOf]

/-- A hit that leaves ends the wait of its edge and is the newest entry of the derandomiser. -/
theorem fe_chan_finishHit {f : Fe} {c : Nat} {k : Cand} (tot ups : Nat) (reading : Bool) (h : (f.chan c).cand = some k) :
    ((f.finishHit c tot ups reading).chan c).cand = none ∧
      ((f.finishHit c tot ups reading).chan c).discHigh = (f.chan c).discHigh ∧
      ((f.finishHit c tot ups reading).chan c).derand.getLast? = some (f.hitOf k tot c ups) := by
  let waited := f.setChan c { f.chan c with cand := none }
  obtain ⟨n, scaled⟩ := fe_chan_scale (waited.derandWrite c (f.hitOf k tot c ups) reading) c 2
  obtain ⟨l, r, written⟩ := fe_derandWrite_same waited c (f.hitOf k tot c ups) reading
  have newest := fe_derandWrite_last waited c (f.hitOf k tot c ups) reading
  rw [fe_finishHit_eq tot ups reading h, scaled]
  refine ⟨?_, ?_, newest⟩ <;> simp only [written, waited, fe_chan_setChan]

theorem fe_chan_finishHit_other (f : Fe) {c d : Nat} (tot ups : Nat) (reading : Bool) (e : d ≠ c) :
    (f.finishHit c tot ups reading).chan d = f.chan d := by
  cases h : (f.chan c).cand with
  | none => simp only [Fe.finishHit, h]
  | some k =>
    rw [fe_finishHit_eq tot ups reading h, fe_chan_scale_other _ _ e, fe_derandWrite_other _ _ _ e, fe_chan_setChan_other _ _ e]

/-- R31: at the trailing edge the discriminator is low and the waiting hit leaves with the whole beats since its leading edge. -/
theorem fe_trailing_eq {f : Fe} {c : Nat} {k : Cand} (fine ups : Nat) (reading : Bool) (h : (f.chan c).cand = some k) :
    f.trailing c fine ups reading =
      (f.setChan c { f.chan c with discHigh := false }).finishHit c (f.totAt k fine) ups reading := by
  simp only [Fe.trailing, h]; rfl

theorem exec_trailingEdge {s : State} {c fine : Nat} (ups : Nat) (reading : Bool) (hc : c < 256) (hf : fine < 8192)
    (up : s.fe.up = true) :
    exec (.trailingEdge c fine ups reading) s = .next { s with fe := s.fe.trailing c fine ups reading } :=
  (run_wf s _ (by simp [Instr.wf, hc, hf])).trans (congrArg _ (onFe_up _ up))

theorem exec_totSaturated {s : State} {c beat : Nat} (ups : Nat) (reading : Bool) (hc : c < 256) (hb : beat < 32)
    (up : s.fe.up = true) :
    exec (.totSaturated c beat ups reading) s = .next { s with fe := s.fe.totFull c beat ups reading } :=
  (run_wf s _ (by simp [Instr.wf, hc, hb])).trans (congrArg _ (onFe_up _ up))

/-- Settles O17: both events are `finishHit`, which writes the derandomiser last; before saturation it is not reached. -/
theorem hitLeavesWithItsTimeOverThreshold : Obligations.HitLeavesWithItsTimeOverThreshold := by
  constructor
  · intro s c fine ups reading k hc hf up hk
    have waits : ((s.fe.setChan c { s.fe.chan c with discHigh := false }).chan c).cand = some k := by
      rw [fe_chan_setChan]; exact hk
    obtain ⟨ended, high, newest⟩ := fe_chan_finishHit (s.fe.totAt k fine) ups reading waits
    refine ⟨_, exec_trailingEdge ups reading hc hf up, rfl, rfl, ?_⟩
    rw [fe_trailing_eq fine ups reading hk]
    refine ⟨ended, high.trans (by rw [fe_chan_setChan]), fun d hd => ?_, newest⟩
    rw [fe_chan_finishHit_other _ _ _ _ hd, fe_chan_setChan_other _ _ hd]
  · intro s c beat ups reading k hc hb up hk
    rw [exec_totSaturated ups reading hc hb up]
    simp only [Fe.totFull, hk]
    constructor
    · intro full
      rw [if_pos full]
      obtain ⟨ended, high, newest⟩ := fe_chan_finishHit 1023 ups reading hk
      exact ⟨_, rfl, rfl, rfl, ended, high, fun d hd => fe_chan_finishHit_other _ _ _ _ hd, newest⟩
    · intro early
      rw [if_neg (Nat.not_le.2 early)]

end Sys2Proof.Proofs
end

section
/-! The spare slot of a group serves the input that `SpareAssign` names (R33). -/

namespace Sys2Proof.Proofs

open Sys2Proof.Machine Sys2Proof.Laws

/-! ## What an assignment means -/

theorem fe_slotOf_eq (f : Fe) (g : Nat) {k : Nat} (hk : k < 16) :
    f.slotOf (16 * g + k) = if f.assigned g = k then 16 else k := by
  have group : (16 * g + k) / 16 = g := by omega
  have input : (16 * g + k) % 16 = k := by omega
  rw [Fe.slotOf, group, input]

/-- The spare slot serves the input that the assignment names, and none when it names none. -/
theorem fe_servedBy_spare (f : Fe) (g : Nat) :
    f.servedBy g 16 = if f.assigned g < 16 then some (g * 16 + f.assigned g) else none := rfl

/-- A slot of an input serves it unless the assignment names it. -/
theorem fe_servedBy_own (f : Fe) (g : Nat) {k : Nat} (hk : k < 16) :
    f.servedBy g k = if f.assigned g = k then none else some (g * 16 + k) := if_neg (Nat.ne_of_lt hk)

/-- An input that the assignment of its group does not name is served by its own slot. -/
theorem fe_own_slot {f : Fe} {g k : Nat} (hk : k < 16) (h : f.assigned g ≠ k) :
    f.slotOf (16 * g + k) = k ∧ f.servedBy g k = some (g * 16 + k) :=
  ⟨by rw [fe_slotOf_eq f g hk, if_neg h], by rw [fe_servedBy_own f g hk, if_neg h]⟩

/-! ## What a move of the switch leaves unchanged -/

/-- R9: of the objects, a loss changes the counts of lost hits only. -/
theorem fe_od_lose (f : Fe) (c : Nat) (k : LossCause) (e t : Nat) :
    (f.lose c k e t).od = (f.countEntry O.lostHits 32 c).od := by
  obtain ⟨g, r, lost, rfl | rfl⟩ := fe_lose_eq f c k e t
  · rw [lost, fe_setChan_od]
  · rw [lost, fe_setChan_od, fe_closeReport_frame]

theorem fe_slots_lose (f : Fe) (c : Nat) (k : LossCause) (e t : Nat) : (f.lose c k e t).slots = f.slots := by
  obtain ⟨g, r, lost, rfl | rfl⟩ := fe_lose_eq f c k e t
  · rw [lost, fe_setChan_slots, Fe.countEntry, fe_put_slots]
  · rw [lost, fe_setChan_slots, fe_closeReport_frame, Fe.countEntry, fe_put_slots]

/-- The counts of lost hits stand apart from the assignments of the 16 groups. -/
theorem fe_assigned_lose (f : Fe) (c : Nat) (k : LossCause) (e t : Nat) {j : Nat} (hj : j < 16) :
    (f.lose c k e t).assigned j = f.assigned j := by
  have apart : O.spareAssignGroup.key j ≠ O.lostHits.key := by
    simp only [Obj.key, O.spareAssignGroup, O.lostHits]; omega
  rw [Fe.assigned, Fe.get, fe_od_lose]
  exact fe_get_put_other f _ apart

theorem fe_assigned_put_other (f : Fe) (v : Nat) {g j : Nat} (e : j ≠ g) :
    (f.put O.spareAssignGroup v g).assigned j = f.assigned j := by
  refine fe_get_put_other f v ?_
  simp only [Obj.key]; omega

theorem fe_assigned_blankChan (f : Fe) (c n : Nat) {j : Nat} (hj : j < 16) :
    (f.blankChan c n).assigned j = f.assigned j := by
  unfold Fe.blankChan
  split
  · rfl
  · dsimp only
    split
    · rfl
    · exact fe_assigned_lose _ _ _ _ _ hj

theorem fe_slots_blankChan (f : Fe) (c n : Nat) : (f.blankChan c n).slots = f.slots := by
  unfold Fe.blankChan
  split
  · rfl
  · dsimp only
    split
    · rfl
    · exact fe_slots_lose ..

theorem fe_slot_blankChan (f : Fe) (c n g s : Nat) : (f.blankChan c n).slot g s = f.slot g s := by
  rw [Fe.slot, Fe.slot, fe_slots_blankChan]

theorem fe_assigned_startServing (f : Fe) (g s k j : Nat) : (f.startServing g s k).assigned j = f.assigned j := rfl

theorem fe_slot_startServing_other (f : Fe) {g s g' s' : Nat} (k : Nat) (e : slotIx g' s' ≠ slotIx g s) :
    (f.startServing g s k).slot g' s' = f.slot g' s' := fe_slot_setSlot_other _ _ e

/-! ## A move of the switch (R34) -/

/-- The front-end once the input that a group had on the spare slot is back on its own slot. -/
def spareFreed (f : Fe) (g b : Nat) : Fe :=
  let a := f.assigned g
  let f := f.put O.spareAssignGroup b g
  if a < 16 then
    (f.startServing g a a).blankChan (g * 16 + a) (if (f.slot g a).powered then blankShort else blankLong)
  else f

theorem fe_assigned_spareFreed (f : Fe) (g b : Nat) {j : Nat} (hj : j < 16) :
    (spareFreed f g b).assigned j = (f.put O.spareAssignGroup b g).assigned j := by
  unfold spareFreed
  dsimp only
  split
  · rw [fe_assigned_blankChan _ _ _ hj, fe_assigned_startServing]
  · rfl

/-- A move puts the old input back on its slot, then disconnects and unpowers the slot of the new one. -/
theorem fe_moveSpare_input {f : Fe} {g b : Nat} (hb : b < 16) (e : f.assigned g ≠ b) :
    ∃ x, x.powered = false ∧ f.moveSpare g b =
      (((spareFreed f g b).setSlot g b x).startServing g 16 b).blankChan (g * 16 + b) blankShort := by
  simp only [Fe.moveSpare, if_neg e, if_pos hb]
  exact ⟨_, rfl, rfl⟩

theorem fe_moveSpare_none {f : Fe} {g b : Nat} (hb : 16 ≤ b) (e : f.assigned g ≠ b) :
    ∃ x, f.moveSpare g b = (spareFreed f g b).setSlot g 16 x := by
  simp only [Fe.moveSpare, if_neg e, if_neg (Nat.not_lt.2 hb)]
  exact ⟨_, rfl⟩

/-- Of the assignments, a move changes that of its group only, and sets it as a plain write of the object would. -/
theorem fe_assigned_moveSpare_put (f : Fe) (g b : Nat) {j : Nat} (hj : j < 16) (e : f.assigned g ≠ b) :
    (f.moveSpare g b).assigned j = (f.put O.spareAssignGroup b g).assigned j := by
  rw [← fe_assigned_spareFreed f g b hj]
  by_cases hb : b < 16
  · obtain ⟨x, -, moved⟩ := fe_moveSpare_input hb e
    rw [moved, fe_assigned_blankChan _ _ _ hj, fe_assigned_startServing]; rfl
  · obtain ⟨x, moved⟩ := fe_moveSpare_none (Nat.not_lt.1 hb) e
    rw [moved]; rfl

theorem fe_moveSpare_same {f : Fe} {g b : Nat} (e : f.assigned g = b) : f.moveSpare g b = f := if_pos e

theorem fe_assigned_moveSpare (f : Fe) {g : Nat} (b : Nat) (hg : g < 16) : (f.moveSpare g b).assigned g = b := by
  by_cases e : f.assigned g = b
  · rw [fe_moveSpare_same e, e]
  · rw [fe_assigned_moveSpare_put f g b hg e]; exact fe_get_put ..

theorem fe_assigned_moveSpare_other (f : Fe) {g j : Nat} (b : Nat) (hj : j < 16) (h : j ≠ g) :
    (f.moveSpare g b).assigned j = f.assigned j := by
  by_cases e : f.assigned g = b
  · rw [fe_moveSpare_same e]
  · rw [fe_assigned_moveSpare_put f g b hj e, fe_assigned_put_other f b h]

/-- R33: the slot of the input that a move takes to the spare slot is unpowered. -/
theorem fe_moveSpare_unpowers {f : Fe} {g b : Nat} (hb : b < 16) (e : f.assigned g ≠ b) :
    ((f.moveSpare g b).slot g b).powered = false := by
  have apart : slotIx g b ≠ slotIx g 16 := by simp only [slotIx]; omega
  obtain ⟨x, off, moved⟩ := fe_moveSpare_input hb e
  rw [moved, fe_slot_blankChan, fe_slot_startServing_other _ _ apart, fe_slot_setSlot, off]

/-! ## The write of `SpareAssign` (R33, R36) -/

theorem lookup_spareAssign {g : Nat} (hg : g < 16) :
    lookupObj feObjs O.spareAssignGroup.index (O.spareAssignGroup.sub + g) = .ok (O.spareAssignGroup, g) := by
  have found : ∀ i < 16, (feObjs.find? fun o => o.index = O.spareAssignGroup.index && o.sub ≤ O.spareAssignGroup.sub + i &&
      O.spareAssignGroup.sub + i < o.sub + o.count) = some O.spareAssignGroup := by decide
  simp only [lookupObj, found g hg, Nat.add_sub_cancel_left]

/-- The object has no reserved fields: a one-byte write leaves its byte. -/
theorem spareAssign_taken {v : Nat} (hv : v < 256) : O.spareAssignGroup.taken 1 v = v := Nat.mod_eq_of_lt hv

/-- A write that names an input or none, of a group that is not locked, moves the switch; besides, only the group record changes. -/
theorem fe_writeSpareAssign_ok {f : Fe} {g v : Nat} (hv : v < 16 ∨ v = 255) (free : (f.group g).assignLocked = false) :
    ∃ x, f.writeSpareAssign g v = .ok ((f.moveSpare g v).setGroup g x) := by
  have named : ¬(v ≠ 255 ∧ 16 ≤ v) := by omega
  rw [Fe.writeSpareAssign, if_neg named, free, if_neg Bool.false_ne_true]
  exact ⟨_, rfl⟩

/-- A write that passes finds the part out of reset and booted (R472). -/
theorem fe_up_of_admits {f : Fe} {side len v : Nat} {o : Obj} (h : f.admits side o len v) : f.up = true := by
  obtain ⟨runs, -⟩ := h
  exact (Bool.and_eq_true_iff.mp runs).1

theorem exec_spareAssignWrite {s : State} {side g v : Nat} (hs : side < 2) (hg : g < 16)
    (passes : s.fe.admits side O.spareAssignGroup 1 v) (hv : v < 16 ∨ v = 255) (free : (s.fe.group g).assignLocked = false) :
    ∃ x, exec (.spareAssignWrite side g v) s = .next { s with fe := (s.fe.moveSpare g v).setGroup g x } := by
  have byte : v < 256 := by omega
  have wf : (Instr.spareAssignWrite side g v).wf = true := by simp [Instr.wf, hs, hg, byte]
  obtain ⟨x, moved⟩ := fe_writeSpareAssign_ok hv free
  refine ⟨x, (run_wf s _ wf).trans (congrArg _ ((onFe_up _ (fe_up_of_admits passes)).trans ?_))⟩
  have written : s.fe.hw side O.spareAssignGroup v g = (s.fe.moveSpare g v).setGroup g x := by
    refine (feHostWrite_admits (lookup_spareAssign hg) passes).trans ?_
    have effect : s.fe.applyObj side 0 O.spareAssignGroup g v = s.fe.writeSpareAssign g v := rfl
    rw [spareAssign_taken byte, effect, moved]
  rw [written]

/-- Settles O21: the write is a move of the switch, which sets the assignment of the group; the slots follow from that. -/
theorem spareSwitchServesOneInput : Obligations.SpareSwitchServesOneInput := by
  intro s side g v hs hg passes free
  constructor
  · intro hv moves
    obtain ⟨x, done⟩ := exec_spareAssignWrite hs hg passes (.inl hv) free
    have named : ((s.fe.moveSpare g v).setGroup g x).assigned g = v := fe_assigned_moveSpare s.fe v hg
    refine ⟨_, done, rfl, rfl, named, ?_, ?_, ?_, fe_moveSpare_unpowers hv moves, fun k hk other => ?_,
      fun j hj other => fe_assigned_moveSpare_other s.fe v hj other⟩
    · rw [fe_slotOf_eq _ g hv, if_pos named]
    · rw [fe_servedBy_spare, named, if_pos hv]
    · rw [fe_servedBy_own _ g hv, if_pos named]
    · exact fe_own_slot hk (by rw [named]; exact other.symm)
  · rintro rfl
    obtain ⟨x, done⟩ := exec_spareAssignWrite hs hg passes (.inr rfl) free
    have named : ((s.fe.moveSpare g 255).setGroup g x).assigned g = 255 := fe_assigned_moveSpare s.fe 255 hg
    refine ⟨_, done, rfl, rfl, ?_, fun k hk => ?_, fun j hj other => fe_assigned_moveSpare_other s.fe 255 hj other⟩
    · rw [fe_servedBy_spare, named]; rfl
    · exact fe_own_slot hk (by rw [named]; omega)

end Sys2Proof.Proofs
end

section
/-! An epoch starts (R42, R44, R60): what its start makes of the epoch, of the objects and of the corrections in force. -/

namespace Sys2Proof.Proofs

open Sys2Proof.Machine Sys2Proof.Laws

/-! ## What the operations at a second mark keep -/

/-- What a second mark goes by and what it sets, with the value of one object. -/
structure EpochView where
  value : Nat
  now : Nat
  epoch : EpochRec
  kind : Nat
  offset : Nat
  walk : Nat
  walkEnable : Nat

def epochView (o : Obj) (f : Fe) : EpochView :=
  { value := f.get o, now := f.now, epoch := f.epoch, kind := f.kind, offset := f.offset, walk := f.walk, walkEnable := f.walkEnable }

theorem epochView_value {o : Obj} {f : Fe} {v : EpochView} (h : epochView o f = v) : f.get o = v.value := by rw [← h, epochView]

/-- A fold of operations that each keep the view keeps it. -/
theorem epochView_foldl {α : Type} {o : Obj} {g : Fe → α → Fe} (keeps : ∀ f a, epochView o (g f a) = epochView o f) (l : List α)
    (f : Fe) : epochView o (l.foldl g f) = epochView o f := by
  induction l generalizing f with
  | nil => rfl
  | cons a l ih => rw [List.foldl_cons, ih, keeps]

theorem epochView_ite {o : Obj} {p : Prop} [Decidable p] {a b : Fe} {v : EpochView} (ha : epochView o a = v)
    (hb : epochView o b = v) : epochView o (if p then a else b) = v := by split <;> assumption

@[simp] theorem epochView_setSlot (o : Obj) (f : Fe) (g s : Nat) (x : Slot) : epochView o (f.setSlot g s x) = epochView o f := rfl
@[simp] theorem epochView_setChan (o : Obj) (f : Fe) (c : Nat) (x : Chan) : epochView o (f.setChan c x) = epochView o f := rfl
@[simp] theorem epochView_pushSorter (o : Obj) (f : Fe) (g : Nat) (x : SortItem) :
    epochView o (f.pushSorter g x) = epochView o f := rfl

theorem epochView_put_other (f : Fe) {o p : Obj} {i : Nat} (v : Nat) (apart : o.key ≠ p.key i) :
    epochView o (f.put p v i) = epochView o f := by
  rw [epochView, fe_get_put_other f v apart]; rfl

@[simp] theorem epochView_swapSlot (o : Obj) (f : Fe) (g s : Nat) : epochView o (f.swapSlot g s) = epochView o f := by
  unfold Fe.swapSlot
  simp only
  split
  · rfl
  · exact epochView_ite rfl rfl

@[simp] theorem epochView_feedSlot (o : Obj) (f : Fe) (g s : Nat) : epochView o (f.feedSlot g s) = epochView o f :=
  epochView_setSlot ..

theorem epochView_swapSlots (o : Obj) (l : List (Nat × Nat)) (f : Fe) :
    epochView o (l.foldl (fun f p => f.swapSlot p.1 p.2) f) = epochView o f :=
  epochView_foldl (g := fun (f : Fe) (p : Nat × Nat) => f.swapSlot p.1 p.2) (fun f p => epochView_swapSlot o f p.1 p.2) l f

theorem epochView_feedSlots (o : Obj) (l : List (Nat × Nat)) (f : Fe) :
    epochView o (l.foldl (fun f p => f.feedSlot p.1 p.2) f) = epochView o f :=
  epochView_foldl (g := fun (f : Fe) (p : Nat × Nat) => f.feedSlot p.1 p.2) (fun f p => epochView_feedSlot o f p.1 p.2) l f

@[simp] theorem epochView_swapTables (o : Obj) (f : Fe) : epochView o f.swapTables = epochView o f := by
  rw [Fe.swapTables, epochView_feedSlots, epochView_swapSlots]

@[simp] theorem epochView_markStatus (o : Obj) (f : Fe) (g : Nat) : epochView o (f.markStatus g) = epochView o f := by
  unfold Fe.markStatus
  refine epochView_ite (epochView_foldl (fun f s => ?_) _ _) (epochView_pushSorter ..)
  split
  · exact epochView_ite (epochView_pushSorter ..) rfl
  · rfl

theorem epochView_markStatuses (o : Obj) (l : List Nat) (f : Fe) :
    epochView o (l.foldl (fun f g => f.markStatus g) f) = epochView o f := epochView_foldl (epochView_markStatus o) l f

/-- R93: of the objects, the end of an interval writes `ScalerRead` only. -/
theorem epochView_scalerEndChan (f : Fe) {o : Obj} (irr : Bool) (c : Nat) (apart : o.key ≠ O.scalerRead.key) :
    epochView o (f.scalerEndChan irr c) = epochView o f := by
  have queued : ∀ (a : Fe) (w : Word), epochView o { a with class3 := a.class3 ++ [w] } = epochView o a := fun _ _ => rfl
  unfold Fe.scalerEndChan
  refine epochView_ite ?_ ?_
  · rw [queued, epochView_put_other _ _ apart, epochView_setChan]
  · rw [epochView_put_other _ _ apart, epochView_setChan]

theorem epochView_scalerEnd (f : Fe) {o : Obj} (irr : Bool) (apart : o.key ≠ O.scalerRead.key) :
    epochView o (f.scalerEnd irr) = epochView o f := by
  have channels := epochView_foldl (fun f c => epochView_scalerEndChan f irr c apart) (List.range 256) f
  unfold Fe.scalerEnd
  generalize (List.range 256).foldl (fun f c => f.scalerEndChan irr c) f = ended at channels ⊢
  exact channels

theorem epochView_scalerMark (f : Fe) {o : Obj} (apart : o.key ≠ O.scalerRead.key) :
    epochView o f.scalerMark = epochView o f := by
  have interval : epochView o (if 0 < f.now - f.scaler.start then
      f.scalerEnd (!f.scaler.marked || decide (f.now - f.scaler.start ≠ scalerTicks f.scaler.interval)) else f) = epochView o f :=
    epochView_ite (epochView_scalerEnd f _ apart) rfl
  unfold Fe.scalerMark
  simp only
  generalize (if 0 < f.now - f.scaler.start then
      f.scalerEnd (!f.scaler.marked || decide (f.now - f.scaler.start ≠ scalerTicks f.scaler.interval)) else f) = ended
    at interval ⊢
  exact epochView_ite interval interval

theorem epochView_noteLength (f : Fe) {o : Obj} (apart : o.key ≠ O.lastEpochLength.key) :
    epochView o f.noteLength = epochView o f := epochView_ite rfl (epochView_put_other f _ apart)

/-! ## The epoch that starts -/

/-- R42: the epoch that begins at the present base tick, its number one above the present one's. -/
def epochAfter (f : Fe) (second : Nat) : EpochRec := { idx := f.epoch.idx + 1, start := f.now, second := second % 2 ^ 32 }

/-- The epoch that begins is the newest of those kept (R43), and so the present one. -/
theorem fe_epoch_beginEpoch (f : Fe) (second kind : Nat) : (f.beginEpoch second kind).epoch = epochAfter f second := by
  have kept : ∀ e, (f.keepEpochs e).headD {} = e := fun e => by
    rw [Fe.keepEpochs, List.filter_cons_of_pos (by simp)]; rfl
  exact kept _

theorem epochView_beginEpoch (f : Fe) {o : Obj} (second kind : Nat) (notSecond : o.key ≠ O.currentSecond.key)
    (notState : o.key ≠ O.epochState.key) :
    epochView o (f.beginEpoch second kind) = { epochView o f with epoch := epochAfter f second, kind := kind } := by
  have value : (f.beginEpoch second kind).get o = f.get o :=
    (fe_get_put_other _ _ notState).trans (fe_get_put_other _ _ notSecond)
  rw [epochView, value, fe_epoch_beginEpoch]; rfl

/-- R60: with the pending corrections in force, what else the start of an epoch goes by is as before. -/
theorem epochView_beforeEpoch (f : Fe) {o : Obj} (notLength : o.key ≠ O.lastEpochLength.key) (notScaler : o.key ≠ O.scalerRead.key) :
    epochView o f.noteLength.scalerMark.takeCorrections.swapTables = { epochView o f with
      offset := f.get O.timeOffset, walk := f.get O.walkTable, walkEnable := f.get O.walkEnable } := by
  have closed : ∀ {p : Obj}, p.key ≠ O.lastEpochLength.key → p.key ≠ O.scalerRead.key →
      epochView p f.noteLength.scalerMark = epochView p f := fun length scaler => by
    rw [epochView_scalerMark _ scaler, epochView_noteLength _ length]
  have pending : ∀ {p : Obj}, p.key ≠ O.lastEpochLength.key → p.key ≠ O.scalerRead.key →
      f.noteLength.scalerMark.get p = f.get p := fun length scaler => epochView_value (closed length scaler)
  have taken : ∀ g : Fe, epochView o g.takeCorrections = { epochView o g with
      offset := g.get O.timeOffset, walk := g.get O.walkTable, walkEnable := g.get O.walkEnable } := fun _ => rfl
  rw [epochView_swapTables, taken, closed notLength notScaler, pending (by decide) (by decide), pending (by decide) (by decide),
    pending (by decide) (by decide)]

/-- R88: the status words come last and change neither the epoch nor an object. -/
theorem epochView_startEpoch (o : Obj) (f : Fe) (second kind : Nat) : epochView o (f.startEpoch second kind) =
    epochView o (f.noteLength.scalerMark.takeCorrections.swapTables.beginEpoch second kind) := by
  rw [Fe.startEpoch, epochView_markStatuses]

/-- The objects that the start of an epoch writes. -/
def writtenAtStart : List Obj := [O.lastEpochLength, O.scalerRead, O.currentSecond, O.epochState]

theorem epochView_startEpoch_other (f : Fe) {o : Obj} (second kind : Nat) (apart : ∀ p ∈ writtenAtStart, o.key ≠ p.key) :
    epochView o (f.startEpoch second kind) =
      { value := f.get o, now := f.now, epoch := epochAfter f second, kind := kind,
        offset := f.get O.timeOffset, walk := f.get O.walkTable, walkEnable := f.get O.walkEnable } := by
  simp only [writtenAtStart, List.forall_mem_cons] at apart
  obtain ⟨notLength, notScaler, notSecond, notState, -⟩ := apart
  have before := epochView_beforeEpoch f notLength notScaler
  rw [epochView_startEpoch]
  generalize f.noteLength.scalerMark.takeCorrections.swapTables = g at before ⊢
  rw [epochView_beginEpoch g second kind notSecond notState, before]
  simp only [epochView, EpochView.mk.injEq] at before
  obtain ⟨-, now, epoch, -⟩ := before
  rw [epochAfter, now, epoch]; rfl

theorem fe_get_startEpoch_other (f : Fe) {o : Obj} (second kind : Nat) (apart : ∀ p ∈ writtenAtStart, o.key ≠ p.key) :
    (f.startEpoch second kind).get o = f.get o := epochView_value (epochView_startEpoch_other f second kind apart)

/-- R42, R44: the epoch that starts, and its kind. -/
theorem fe_epoch_startEpoch (f : Fe) (second kind : Nat) :
    (f.startEpoch second kind).epoch = epochAfter f second ∧ (f.startEpoch second kind).kind = kind := by
  have started := epochView_startEpoch_other (o := O.flywheelEpochs) f second kind (by decide)
  simp only [epochView, EpochView.mk.injEq] at started
  obtain ⟨-, -, epoch, kindOf, -⟩ := started
  exact ⟨epoch, kindOf⟩

/-- R60: an epoch takes up the pending corrections as it starts. -/
theorem fe_corrections_startEpoch (f : Fe) (second kind : Nat) :
    (f.startEpoch second kind).offset = f.get O.timeOffset ∧ (f.startEpoch second kind).walk = f.get O.walkTable ∧
      (f.startEpoch second kind).walkEnable = f.get O.walkEnable := by
  have started := epochView_startEpoch_other (o := O.flywheelEpochs) f second kind (by decide)
  simp only [epochView, EpochView.mk.injEq] at started
  obtain ⟨-, -, -, -, corrections⟩ := started
  exact corrections

theorem fe_marks_startEpoch (f : Fe) (second kind : Nat) : (f.startEpoch second kind).marks = f.marks := by
  have clock := clock_startEpoch f second kind
  simp only [clockOf, Prod.mk.injEq] at clock
  exact clock.2.2

theorem fe_get_currentSecond_startEpoch (f : Fe) (second kind : Nat) :
    (f.startEpoch second kind).get O.currentSecond = second % 2 ^ 32 := by
  rw [epochView_value (epochView_startEpoch O.currentSecond f second kind)]
  generalize f.noteLength.scalerMark.takeCorrections.swapTables = g
  exact (fe_get_put_other _ _ (by decide)).trans (fe_get_put ..)

theorem fe_get_epochState_startEpoch (f : Fe) (second kind : Nat) : (f.startEpoch second kind).get O.epochState = kind := by
  rw [epochView_value (epochView_startEpoch O.epochState f second kind)]
  generalize f.noteLength.scalerMark.takeCorrections.swapTables = g
  exact fe_get_put ..

/-! ## The two commands that start an epoch -/

theorem fe_executeMark_due {f : Fe} {due second : Nat} {rest : List (Nat × Nat)} (waits : f.marks = (due, second) :: rest)
    (h : due ≤ f.now) : f.executeMark = ({ f with marks := rest }).startEpoch second 1 := by
  simp only [Fe.executeMark, waits, if_pos h]

theorem fe_executeMark_early {f : Fe} {due second : Nat} {rest : List (Nat × Nat)} (waits : f.marks = (due, second) :: rest)
    (h : f.now < due) : f.executeMark = f := by
  simp only [Fe.executeMark, waits, if_neg (Nat.not_le.2 h)]

theorem fe_flywheel_due {f : Fe} (began : f.kind ≠ 0) (h : flywheelTicks f.kind ≤ f.inEpoch) (alone : ∀ m ∈ f.marks, f.now < m.1) :
    f.flywheel = (f.startEpoch (f.epoch.second + 1) 2).count O.flywheelEpochs :=
  if_pos ⟨began, h, List.all_eq_true.2 fun m hm => decide_eq_true (alone m hm)⟩

/-- R44: no flywheel in the NONE period, before its beat, or where a mark executes. -/
theorem fe_flywheel_not {f : Fe} (h : f.kind = 0 ∨ f.inEpoch < flywheelTicks f.kind ∨ ∃ m ∈ f.marks, m.1 ≤ f.now) :
    f.flywheel = f := by
  refine if_neg fun ⟨began, beat, alone⟩ => ?_
  rcases h with period | early | ⟨m, hm, marked⟩
  · exact began period
  · exact Nat.not_le.2 early beat
  · exact Nat.not_le.2 (of_decide_eq_true (List.all_eq_true.1 alone m hm)) marked

theorem exec_secondMarkExecute {s : State} (up : s.fe.up = true) :
    exec .secondMarkExecute s = .next { s with fe := s.fe.executeMark } :=
  (run_wf (i := .secondMarkExecute) s (fun s => s.onFe Fe.executeMark) rfl).trans (congrArg _ (onFe_up _ up))

theorem exec_flywheelEpochStart {s : State} (up : s.fe.up = true) :
    exec .flywheelEpochStart s = .next { s with fe := s.fe.flywheel } :=
  (run_wf (i := .flywheelEpochStart) s (fun s => s.onFe Fe.flywheel) rfl).trans (congrArg _ (onFe_up _ up))

end Sys2Proof.Proofs
end

section
/-! The corrections of an epoch are those pending at its start (R60). -/

namespace Sys2Proof.Proofs

open Sys2Proof.Machine Sys2Proof.Laws

/-- A pending correction is a plain object of the dictionary: one value, without reserved fields, that a read returns as it is. -/
theorem correction_plain {o : Obj} (h : o = O.timeOffset ∨ o = O.walkTable ∨ o = O.walkEnable) :
    lookupObj feObjs o.index o.sub = .ok (o, 0) ∧ o.index < 2 ^ 16 ∧ o.sub < 2 ^ 8 ∧ o.mask = none ∧
      (∀ (f : Fe) (side v : Nat), f.applyObj side 0 o 0 v = .ok (f.put o v)) ∧ ∀ f : Fe, f.readVal o 0 = .ok (f.get o) := by
  rcases h with rfl | rfl | rfl <;> exact ⟨rfl, by decide, by decide, rfl, fun _ _ _ => rfl, fun _ => rfl⟩

/-- R60: an accepted write of a correction changes its pending value only. -/
theorem exec_timeCorrectionWrite {s : State} {side v : Nat} {o : Obj} (h : o = O.timeOffset ∨ o = O.walkTable ∨ o = O.walkEnable)
    (hs : side < 2) (hv : v < 2 ^ (8 * o.bytes)) (passes : s.fe.admits side o o.bytes v) :
    exec (.timeCorrectionWrite side o.index o.sub o.bytes v) s = .next { s with fe := s.fe.put o v } := by
  obtain ⟨found, hi, hsub, unmasked, effect, -⟩ := correction_plain h
  have wf : (Instr.timeCorrectionWrite side o.index o.sub o.bytes v).wf = true := by
    simp only [Instr.wf, hs, hi, hsub, decide_true, Bool.and_self]
  have whole : o.taken o.bytes v = v := by
    rw [Obj.taken, Nat.mod_eq_of_lt hv, Obj.masked, unmasked]
  have written : s.fe.hostWrite side 0 o.index o.sub o.bytes v = s.fe.put o v := by
    rw [feHostWrite_admits found passes, whole, effect]
  exact (run_wf s _ wf).trans (congrArg _ ((onFe_up _ (fe_up_of_admits passes)).trans (by rw [written])))

/-- Settles O22: the write is a plain one, which the corrections in force do not see; every start of an epoch takes up the pending
ones. -/
theorem correctionsWaitForTheMark : Obligations.CorrectionsWaitForTheMark := by
  refine ⟨fun s side v o ho hs hv passes => ?_, fun s due second rest up waits h => ?_, fun s up began h alone => ?_⟩
  · obtain ⟨-, -, -, -, -, reads⟩ := correction_plain ho
    refine ⟨exec_timeCorrectionWrite ho hs hv passes, ?_, rfl, rfl, rfl, fun w => ?_⟩
    · rw [reads, fe_get_put]
    · rw [reads, fe_get_put]
  · refine ⟨_, exec_secondMarkExecute up, ?_⟩
    rw [fe_executeMark_due waits h]
    exact fe_corrections_startEpoch { s.fe with marks := rest } second 1
  · refine ⟨_, exec_flywheelEpochStart up, ?_⟩
    rw [fe_flywheel_due began h alone]
    have started := fe_corrections_startEpoch s.fe (s.fe.epoch.second + 1) 2
    generalize s.fe.startEpoch (s.fe.epoch.second + 1) 2 = f at started ⊢
    exact started

end Sys2Proof.Proofs
end

section
/-! Second marks and flywheels start epochs (R42, R44, R129). -/

namespace Sys2Proof.Proofs

open Sys2Proof.Machine Sys2Proof.Laws

theorem fe_marks_takeMark {f : Fe} {side : Nat} (second age pos : Nat) (leased : f.holder = side + 1) (base : f.baseRuns = true) :
    (f.takeMark side second age pos).marks = insertMark (f.now - age + 64 + pos, second % 2 ^ 32) f.marks := by
  rw [Fe.takeMark, if_pos ⟨leased, base⟩]

theorem exec_secondMark {s : State} {side age : Nat} {w : Word} (pos : Nat) (hs : side < 2) (ha : age < 64)
    (hw : opcodeIs 0x01 w = true) (up : s.fe.up = true) : exec (.secondMark side w age pos) s =
      .next { s with fe := (s.fe.take side [w]).takeMark side (bits w.toNat 31 0) age pos } :=
  (run_wf s _ (by simp [Instr.wf, hs, ha, hw])).trans (congrArg _ (onFe_up _ up))

/-- R42: the second of a mark is the low 32 bits of its word. -/
theorem bits_second (v : Nat) : bits v 31 0 % 2 ^ 32 = v % 2 ^ 32 := by
  simp only [bits, Nat.pow_zero, Nat.div_one, Nat.sub_zero, Nat.mod_mod]

/-- Settles O23: a mark waits until it is due; mark and flywheel start the next epoch at the base tick of their execution. -/
theorem marksStartEpochs : Obligations.MarksStartEpochs := by
  refine ⟨fun s side pos age w hs ha hw runs leased => ?_, fun s due second rest up waits => ⟨fun h => ?_, fun h => ?_⟩,
    fun s up => ⟨fun began h alone => ?_, fun h => ?_⟩⟩
  · obtain ⟨up, base⟩ := Bool.and_eq_true_iff.mp runs
    refine ⟨_, exec_secondMark pos hs ha hw up, rfl, ?_⟩
    have waiting := fe_marks_takeMark (bits w.toNat 31 0) age pos leased base
    rw [bits_second] at waiting
    exact waiting
  · refine ⟨_, exec_secondMarkExecute up, rfl, ?_⟩
    rw [fe_executeMark_due waits h]
    have marks := fe_marks_startEpoch { s.fe with marks := rest } second 1
    obtain ⟨epoch, kind⟩ := fe_epoch_startEpoch { s.fe with marks := rest } second 1
    have current := fe_get_currentSecond_startEpoch { s.fe with marks := rest } second 1
    have state := fe_get_epochState_startEpoch { s.fe with marks := rest } second 1
    dsimp only
    exact ⟨marks, kind, epoch, current, state⟩
  · rw [exec_secondMarkExecute up, fe_executeMark_early waits h]
  · refine ⟨_, exec_flywheelEpochStart up, rfl, ?_⟩
    rw [fe_flywheel_due began h alone]
    obtain ⟨epoch, kind⟩ := fe_epoch_startEpoch s.fe (s.fe.epoch.second + 1) 2
    have state := fe_get_epochState_startEpoch s.fe (s.fe.epoch.second + 1) 2
    have counted := fe_get_startEpoch_other (o := O.flywheelEpochs) s.fe (s.fe.epoch.second + 1) 2 (by decide)
    generalize s.fe.startEpoch (s.fe.epoch.second + 1) 2 = f at epoch kind state counted ⊢
    refine ⟨kind, epoch, (fe_get_put_other _ _ (by decide)).trans state, ?_⟩
    rw [fe_get_count, counted]; rfl
  · rw [exec_flywheelEpochStart up, fe_flywheel_not h]

end Sys2Proof.Proofs
end

section
/-! A full derandomiser discards an entry for the hit that arrives (R71, R73). -/

namespace Sys2Proof.Proofs

open Sys2Proof.Machine Sys2Proof.Laws

/-- R71: with 32 entries the write side sees the buffer full, and the oldest entry not being read is lost for the hit. -/
theorem fe_derandWrite_full {f : Fe} {c : Nat} {old : HitEntry} (h : HitEntry) {reading : Bool}
    (full : 32 ≤ (f.chan c).derand.length) (oldest : (f.chan c).derand[if reading then 1 else 0]? = some old) :
    f.derandWrite c h reading =
      (f.setChan c { f.chan c with derand := (f.chan c).derand.eraseIdx (if reading then 1 else 0) ++ [h] }).lose c .overwrite
        old.epoch old.time := by
  simp only [Fe.derandWrite, if_pos full, if_true, oldest]

/-- R9: an entry of a table of event counters saturates. -/
theorem entryGet_countEntry (f : Fe) (o : Obj) (w i : Nat) :
    entryGet w ((f.countEntry o w i).get o) i = satAdd w (entryGet w (f.get o) i) 1 := by
  have fits : satAdd w (entryGet w (f.get o) i) 1 < 2 ^ w :=
    Nat.lt_of_le_of_lt (Nat.min_le_right ..) (Nat.sub_lt (Nat.two_pow_pos w) Nat.one_pos)
  rw [Fe.countEntry, fe_get_put, entryUpd, entryGet_entrySet, Nat.mod_eq_of_lt fits]

/-- R73: every loss of a channel is counted in its entry of `LostHits`. -/
theorem entryGet_lostHits_lose (f : Fe) (c : Nat) (k : LossCause) (e t : Nat) :
    entryGet 32 ((f.lose c k e t).get O.lostHits) c = satAdd 32 (entryGet 32 (f.get O.lostHits) c) 1 := by
  rw [Fe.get, fe_od_lose]
  exact entryGet_countEntry f O.lostHits 32 c

/-- R73: where the channel has no report open, a loss opens one with its own time field and cause. -/
theorem fe_report_lose_opens {f : Fe} {c : Nat} (k : LossCause) (e t : Nat) (closed : (f.chan c).report = none) :
    ((f.lose c k e t).chan c).report = some { epoch := e, time := t, count := 1, causes := k.bit } := by
  simp only [Fe.lose, fe_chan_countEntry, closed, fe_chan_setChan]

/-- Settles O19: on a full derandomiser the write is the exchange of the discarded entry for the hit, then a loss. -/
theorem fullDerandomiserDiscardsTheOldest : Obligations.FullDerandomiserDiscardsTheOldest := by
  intro f c h old reading _ full oldest
  have exchanged := fe_derandWrite_full h (Nat.le_of_eq full.symm) oldest
  refine ⟨?_, ?_, fun closed => ?_, fun d => fe_derandWrite_other f h reading⟩
  · obtain ⟨r, lost⟩ := fe_chan_lose (f.setChan c
      { f.chan c with derand := (f.chan c).derand.eraseIdx (if reading then 1 else 0) ++ [h] }) c .overwrite old.epoch old.time
    rw [exchanged, lost, fe_chan_setChan]
  · rw [exchanged, entryGet_lostHits_lose, fe_get_setChan]
  · rw [exchanged]
    exact fe_report_lose_opens _ _ _ (by rw [fe_chan_setChan]; exact closed)

end Sys2Proof.Proofs
end

section
/-! A group sorter keeps its words in the order of time, rank and tie (R75, R77). -/

namespace Sys2Proof.Proofs

open Sys2Proof.Machine Sys2Proof.Laws

theorem insertItem_perm (x : SortItem) (l : List SortItem) : (insertItem x l).Perm (x :: l) := by
  induction l with
  | nil => exact List.Perm.refl _
  | cons y ys ih =>
    rw [insertItem]
    split
    case isTrue before => exact List.Perm.refl _
    case isFalse after => exact (ih.cons y).trans (List.Perm.swap x y ys)

theorem mem_insertItem {x z : SortItem} {l : List SortItem} : z ∈ insertItem x l ↔ z = x ∨ z ∈ l :=
  (insertItem_perm x l).mem_iff.trans List.mem_cons

/-- R77: words that stand in order do so with a further word among them. -/
theorem insertItem_ordered (x : SortItem) {l : List SortItem} (h : l.Pairwise fun a b => a.order ≤ b.order) :
    (insertItem x l).Pairwise fun a b => a.order ≤ b.order := by
  induction l with
  | nil => exact List.pairwise_singleton ..
  | cons y ys ih =>
    obtain ⟨first, rest⟩ := List.pairwise_cons.1 h
    rw [insertItem]
    split
    case isTrue before =>
      have next : x.order ≤ y.order := Nat.le_of_lt before
      exact List.pairwise_cons.2 ⟨List.forall_mem_cons.2 ⟨next, fun z hz => Nat.le_trans next (first z hz)⟩, h⟩
    case isFalse after =>
      refine List.pairwise_cons.2 ⟨fun z hz => ?_, ih rest⟩
      rcases mem_insertItem.1 hz with rfl | old
      · exact Nat.le_of_not_lt after
      · exact first z old

/-- R75: a sorter that has room and none waiting takes the word in its place. -/
theorem group_push_room {r : Group} (x : SortItem) (empty : r.wait = []) (room : r.sorter.length < 512) :
    r.push x = { r with sorter := insertItem x r.sorter, peak := max r.peak (r.sorter.length + 1) } :=
  if_pos ⟨empty, room⟩

/-- R67: at a full sorter, or behind others that wait, the word waits at the entry. -/
theorem group_push_waits {r : Group} (x : SortItem) (h : r.wait ≠ [] ∨ 512 ≤ r.sorter.length) :
    r.push x = { r with wait := r.wait ++ [x] } :=
  if_neg fun ⟨empty, room⟩ => h.elim (fun waits => waits empty) (Nat.not_le_of_lt room)

/-- A word that enters a group either has its place in the sorter or leaves it as it is. -/
theorem group_push_ordered {r : Group} (x : SortItem) (h : r.sorter.Pairwise fun a b => a.order ≤ b.order) :
    (r.push x).sorter.Pairwise fun a b => a.order ≤ b.order := by
  by_cases room : r.wait = [] ∧ r.sorter.length < 512
  · obtain ⟨empty, room⟩ := room
    rw [group_push_room x empty room]
    exact insertItem_ordered x h
  · have waits : r.wait ≠ [] ∨ 512 ≤ r.sorter.length := by
      rwa [Decidable.not_and_iff_not_or_not, Nat.not_lt] at room
    rw [group_push_waits x waits]
    exact h

theorem fe_group_pushSorter (f : Fe) (g : Nat) (x : SortItem) : (f.pushSorter g x).group g = (f.group g).push x :=
  fe_group_setGroup ..

/-- Settles O20: the word enters one group, where it is inserted in its place or waits. -/
theorem sorterKeepsTheOrder : Obligations.SorterKeepsTheOrder := by
  intro f g x ordered
  rw [fe_group_pushSorter]
  refine ⟨group_push_ordered x ordered, fun empty room => ?_, group_push_waits x, fun j other => fe_group_setGroup_other _ _ other⟩
  rw [group_push_room x empty room]
  exact ⟨insertItem_perm x _, empty, rfl⟩

end Sys2Proof.Proofs
end

section
/-! The fields of a hit word (R87). -/

namespace Sys2Proof.Proofs

open Sys2Proof.Machine

theorem b1_lt_two (b : Bool) : b1 b < 2 := by cases b <;> decide

theorem bitAt_eq_iff {v n : Nat} {b : Bool} : bitAt v n = b ↔ v / 2 ^ n % 2 = b1 b := by
  have digit := Nat.mod_lt (v / 2 ^ n) Nat.two_pos
  cases b
  · rw [bitAt, decide_eq_false_iff_not, show b1 false = 0 from rfl]; omega
  · exact decide_eq_true_iff

/-- The fields of a hit word do not reach past its 64 bits. -/
theorem toNat_hitWord {c tot t : Nat} (prescaled pileup quality : Bool) (hc : c < 256) (htot : tot < 1024) (ht : t < 2 ^ 40) :
    (hitWord c prescaled pileup quality tot t).toNat =
      c * 2 ^ 53 + b1 prescaled * 2 ^ 52 + b1 pileup * 2 ^ 51 + b1 quality * 2 ^ 50 + tot * 2 ^ 40 + t := by
  have := b1_lt_two prescaled
  have := b1_lt_two pileup
  have := b1_lt_two quality
  rw [hitWord, BitVec.toNat_ofNat, Nat.mod_eq_of_lt htot, Nat.mod_eq_of_lt ht, Nat.mod_eq_of_lt (by omega)]

/-- Settles O18: each field is below the weight of the next one, so the division by its weight finds it. -/
theorem hitWordFields : Obligations.HitWordFields := by
  intro c tot t prescaled pileup quality hc htot ht
  have hp := b1_lt_two prescaled
  have hu := b1_lt_two pileup
  have hq := b1_lt_two quality
  rw [toNat_hitWord prescaled pileup quality hc htot ht]
  simp only [bitAt_eq_iff, bits]
  refine ⟨?_, ?_, ?_, ?_, ?_, ?_, ?_⟩ <;> omega

end Sys2Proof.Proofs
end

section
/-! The bits of a number, most significant first, and the words of a row of bits (R97). -/

namespace Sys2Proof.Proofs

open Sys2Proof.Machine

@[simp] theorem length_bitsOf (n v : Nat) : (bitsOf n v).length = n := by
  induction n with
  | zero => rfl
  | succ n ih => rw [bitsOf, List.length_cons, ih]

/-- The bits read so far weigh two to the number of bits that follow. -/
theorem foldl_bits (v : Nat) (bs : List Bool) :
    bs.foldl (fun v b => v * 2 + b1 b) v = v * 2 ^ bs.length + natOf bs := by
  induction bs generalizing v with
  | nil => exact (Nat.mul_one v).symm
  | cons b bs ih =>
    rw [natOf, List.foldl_cons, List.foldl_cons, ih, ih (0 * 2 + b1 b), List.length_cons, Nat.zero_mul, Nat.zero_add,
      Nat.add_mul, Nat.mul_assoc, ← Nat.pow_succ', Nat.add_assoc]

theorem natOf_append (as bs : List Bool) : natOf (as ++ bs) = natOf as * 2 ^ bs.length + natOf bs := by
  rw [natOf, List.foldl_append, foldl_bits]; rfl

theorem natOf_cons (b : Bool) (bs : List Bool) : natOf (b :: bs) = b1 b * 2 ^ bs.length + natOf bs := by
  have digit : natOf [b] = b1 b := Nat.zero_add (b1 b)
  rw [← List.singleton_append, natOf_append, digit]

theorem natOf_lt (bs : List Bool) : natOf bs < 2 ^ bs.length := by
  induction bs with
  | nil => exact Nat.one_pos
  | cons b bs ih =>
    have digit := Nat.mul_le_mul_right (2 ^ bs.length) (Nat.le_of_lt_succ (b1_lt_two b))
    rw [natOf_cons, List.length_cons, Nat.pow_succ]
    omega

/-- The bits before the last ones are what is left of the number without those. -/
theorem natOf_append_div (as bs : List Bool) : natOf (as ++ bs) / 2 ^ bs.length = natOf as := by
  rw [natOf_append, Nat.add_comm, Nat.add_mul_div_right _ _ (Nat.two_pow_pos _), Nat.div_eq_of_lt (natOf_lt bs), Nat.zero_add]

/-- What stands above the `n` low bits does not reach them. -/
theorem bitsOf_add_mul (n v c : Nat) : bitsOf n (v + c * 2 ^ n) = bitsOf n v := by
  induction n generalizing c with
  | zero => rfl
  | succ n ih =>
    have above : v + c * 2 ^ (n + 1) = v + c * 2 * 2 ^ n := by rw [Nat.pow_succ', Nat.mul_assoc]
    rw [bitsOf, bitsOf, above, ih, Nat.add_mul_div_right _ _ (Nat.two_pow_pos n), Nat.add_mul_mod_self_right]

theorem bitsOf_natOf (bs : List Bool) : bitsOf bs.length (natOf bs) = bs := by
  induction bs with
  | nil => rfl
  | cons b bs ih =>
    have top : decide (natOf (b :: bs) / 2 ^ bs.length % 2 = 1) = b := by
      rw [← List.singleton_append, natOf_append_div]
      cases b <;> rfl
    rw [List.length_cons, bitsOf, top, natOf_cons, Nat.add_comm, bitsOf_add_mul, ih]

theorem natOf_bitsOf_eq_mod (n v : Nat) : natOf (bitsOf n v) = v % 2 ^ n := by
  induction n with
  | zero => exact (Nat.mod_one v).symm
  | succ n ih =>
    have top : b1 (decide (v / 2 ^ n % 2 = 1)) = v / 2 ^ n % 2 := (bitAt_eq_iff.1 rfl).symm
    rw [bitsOf, natOf_cons, length_bitsOf, ih, top, Nat.pow_succ, Nat.mod_mul, Nat.add_comm, Nat.mul_comm]

theorem natOf_bitsOf {n v : Nat} (h : v < 2 ^ n) : natOf (bitsOf n v) = v := by
  rw [natOf_bitsOf_eq_mod, Nat.mod_eq_of_lt h]

/-- The words whose bits stand in a row, whatever bits follow them. -/
theorem wordsOf_flatMap_bitsOf (ws : List Word) (rest : List Bool) :
    wordsOf ws.length ((ws.flatMap fun w => bitsOf 64 w.toNat) ++ rest) = ws := by
  induction ws with
  | nil => rfl
  | cons w ws ih =>
    rw [List.flatMap_cons, List.append_assoc, List.length_cons, wordsOf, List.take_left' (length_bitsOf ..),
      List.drop_left' (length_bitsOf ..), ih, natOf_bitsOf w.isLt, BitVec.ofNat_toNat, BitVec.setWidth_eq]

end Sys2Proof.Proofs
end

section
/-! Scrambling and stuffing of a body (R98, R99). -/

namespace Sys2Proof.Proofs

open Sys2Proof.Machine

/-- The two taps that the scrambler adds to a bit cancel those that the descrambler adds. -/
theorem taps_cancel : ∀ d x y : Bool, ((((d != x) != y) != x) != y) = d := by decide

/-- R98: a descrambler in step with the scrambler takes off what it put on and stays in step. -/
theorem descramble_scramble (st : Nat) (bs : List Bool) :
    descramble st (scramble st bs).1 = (bs, (scramble st bs).2) := by
  induction bs generalizing st with
  | nil => rfl
  | cons d ds ih => simp only [scramble, descramble, taps_cancel, ih]

@[simp] theorem length_scramble (st : Nat) (bs : List Bool) : (scramble st bs).1.length = bs.length := by
  induction bs generalizing st with
  | nil => rfl
  | cons d ds ih => simp only [scramble, List.length_cons, ih]

/-- R99: the length of the run that a bit ends, where the run before it is `run` bits of `prev`. -/
def runAfter (prev : Bool) (run : Nat) (b : Bool) : Nat := if run ≠ 0 ∧ b = prev then run + 1 else 1

theorem runAfter_same {run : Nat} (b : Bool) (h : run ≠ 0) : runAfter b run b = run + 1 := if_pos ⟨h, rfl⟩

/-- A stuff bit starts a run. -/
theorem runAfter_not (b : Bool) (run : Nat) : runAfter b run (!b) = 1 := if_neg fun ⟨_, same⟩ => (Bool.not_eq_self b).1 same

theorem runAfter_pos (prev : Bool) (run : Nat) (b : Bool) : 0 < runAfter prev run b := by
  unfold runAfter; split <;> omega

theorem runAfter_le (prev : Bool) (run : Nat) (b : Bool) : runAfter prev run b ≤ run + 1 := by
  unfold runAfter; split <;> omega

theorem stuff_full {prev b : Bool} {run : Nat} (bs : List Bool) (h : runAfter prev run b = 32) :
    stuff prev run (b :: bs) = b :: (!b) :: stuff (!b) 1 bs := if_pos h

theorem stuff_short {prev b : Bool} {run : Nat} (bs : List Bool) (h : runAfter prev run b ≠ 32) :
    stuff prev run (b :: bs) = b :: stuff b (runAfter prev run b) bs := if_neg h

theorem destuff_body {prev : Bool} {run : Nat} (n : Nat) (b : Bool) (bs : List Bool) (h : run ≠ 32) :
    destuff (n + 1) prev run (b :: bs) =
      (b :: (destuff n b (runAfter prev run b) bs).1, (destuff n b (runAfter prev run b) bs).2) := if_neg h

/-- The bit after 32 equal ones is taken out, and found good when it is their complement. -/
theorem destuff_stuffBit (n : Nat) (b : Bool) (bs : List Bool) :
    destuff n b 32 ((!b) :: bs) = destuff n (!b) 1 bs := by
  simp only [destuff, if_true, Bool.not_bne_self, Bool.and_true]

/-- A receiver that has all body bits and no stuff bit to wait for is done. -/
theorem destuff_done {prev : Bool} {run : Nat} (rest : List Bool) (h : run < 32) : destuff 0 prev run rest = ([], true) := by
  cases rest with
  | nil => rw [destuff, decide_eq_true ⟨rfl, h⟩]
  | cons b bs => exact if_neg (Nat.ne_of_lt h)

/-- R99: a receiver whose run count is that of the transmitter takes out what the transmitter put in, whatever follows. -/
theorem destuff_stuff (bs rest : List Bool) {prev : Bool} {run : Nat} (h : run < 32) :
    destuff bs.length prev run (stuff prev run bs ++ rest) = (bs, true) := by
  induction bs generalizing prev run with
  | nil => exact destuff_done rest h
  | cons b bs ih =>
    by_cases full : runAfter prev run b = 32
    · rw [stuff_full bs full, List.cons_append, List.cons_append, List.length_cons, destuff_body _ _ _ (Nat.ne_of_lt h), full,
        destuff_stuffBit, ih (by decide)]
    · have short : runAfter prev run b < 32 := Nat.lt_of_le_of_ne (Nat.le_trans (runAfter_le prev run b) h) full
      rw [stuff_short bs full, List.cons_append, List.length_cons, destuff_body _ _ _ (Nat.ne_of_lt h), ih short]

/-! ## The runs of a stuffed body -/

/-- No run of the bits is longer than 32, where the run before them is `run` bits of `prev`. -/
def RunsFit : Bool → Nat → List Bool → Prop
  | _, _, [] => True
  | prev, run, b :: bs => runAfter prev run b ≤ 32 ∧ RunsFit b (runAfter prev run b) bs

theorem stuff_runsFit (bs : List Bool) {prev : Bool} {run : Nat} (h : run < 32) : RunsFit prev run (stuff prev run bs) := by
  induction bs generalizing prev run with
  | nil => trivial
  | cons b bs ih =>
    have fits : runAfter prev run b ≤ 32 := Nat.le_trans (runAfter_le prev run b) h
    by_cases full : runAfter prev run b = 32
    · have stuffBit : runAfter b (runAfter prev run b) (!b) = 1 := runAfter_not b _
      rw [stuff_full bs full, RunsFit, RunsFit, stuffBit]
      exact ⟨fits, by decide, ih (by decide)⟩
    · rw [stuff_short bs full]
      exact ⟨fits, ih (Nat.lt_of_le_of_ne fits full)⟩

/-- What follows some of the bits has no longer runs than they have. -/
theorem runsFit_drop {as bs : List Bool} {prev : Bool} {run : Nat} (h : RunsFit prev run (as ++ bs)) :
    ∃ prev' run', RunsFit prev' run' bs := by
  induction as generalizing prev run with
  | nil => exact ⟨prev, run, h⟩
  | cons a as ih => exact ih h.2

theorem runsFit_replicate {v : Bool} {n run : Nat} {rest : List Bool} (started : run ≠ 0) (fits : run ≤ 32)
    (h : RunsFit v run (List.replicate n v ++ rest)) : run + n ≤ 32 := by
  induction n generalizing run with
  | zero => exact fits
  | succ n ih =>
    rw [List.replicate_succ, List.cons_append, RunsFit, runAfter_same v started] at h
    obtain ⟨next, later⟩ := h
    have := ih (Nat.succ_ne_zero run) next later
    omega

theorem stuff_run_le {bs a b : List Bool} {n : Nat} {v : Bool} (h : stuff false 0 bs = a ++ List.replicate n v ++ b) : n ≤ 32 := by
  have fits : RunsFit false 0 (stuff false 0 bs) := stuff_runsFit bs (by decide)
  rw [h, List.append_assoc] at fits
  obtain ⟨prev, run, fits⟩ := runsFit_drop fits
  cases n with
  | zero => exact Nat.zero_le _
  | succ n =>
    rw [List.replicate_succ, List.cons_append, RunsFit] at fits
    obtain ⟨first, later⟩ := fits
    have := runsFit_replicate (Nat.ne_of_gt (runAfter_pos prev run v)) first later
    have := runAfter_pos prev run v
    omega

/-! ## The length of a stuffed body -/

/-- A stuff bit is paid for by 31 body bits, or by the run before them. -/
theorem length_stuff_le (bs : List Bool) (prev : Bool) {run : Nat} (h : 0 < run) :
    31 * (stuff prev run bs).length + 1 ≤ 32 * bs.length + run := by
  induction bs generalizing prev run with
  | nil => simp only [stuff, List.length_nil]; omega
  | cons b bs ih =>
    have next := runAfter_le prev run b
    by_cases full : runAfter prev run b = 32
    · have tail := ih (!b) Nat.one_pos
      rw [stuff_full bs full]
      simp only [List.length_cons]
      omega
    · have tail := ih b (runAfter_pos prev run b)
      rw [stuff_short bs full]
      simp only [List.length_cons]
      omega

theorem length_stuff_body_le (bs : List Bool) : (stuff false 0 bs).length ≤ bs.length + (bs.length - 1) / 31 := by
  cases bs with
  | nil => exact Nat.le_refl 0
  | cons b bs =>
    have tail := length_stuff_le bs b Nat.one_pos
    have first : stuff false 0 (b :: bs) = b :: stuff b 1 bs := by cases b <;> rfl
    rw [first]
    simp only [List.length_cons]
    omega

/-- R100: the slot of every lane kind is sized for the worst case. -/
theorem marker_and_stuff_fit (k : LaneKind) {bs : List Bool} (h : bs.length = k.bodyBits) :
    16 + (stuff false 0 bs).length ≤ k.slotBits := by
  have worst : 16 + (k.bodyBits + (k.bodyBits - 1) / 31) ≤ k.slotBits := by cases k <;> decide
  have := length_stuff_body_le bs
  rw [h] at this
  omega

/-- Settles O13: the run count of the transmitter bounds every run, and each stuff bit costs 31 body bits. -/
theorem stuffedBodyFitsItsSlot : Obligations.StuffedBodyFitsItsSlot :=
  ⟨fun _ _ _ _ _ => stuff_run_le, length_stuff_body_le, fun k _ => marker_and_stuff_fit k⟩

end Sys2Proof.Proofs
end

section
/-! A receiver reads from a slot what the transmitter encoded (R97-R100, R122). -/

namespace Sys2Proof.Proofs

open Sys2Proof.Machine

/-! ## The CRC is a number of 32 bits (R122) -/

theorem crcBit_lt {c : Nat} (h : c < 2 ^ 32) : crcBit c < 2 ^ 32 := by
  have half : c / 2 < 2 ^ 32 := Nat.lt_of_le_of_lt (Nat.div_le_self c 2) h
  unfold crcBit
  split
  · exact Nat.xor_lt_two_pow half (by decide)
  · exact half

theorem crcByte_lt {c b : Nat} (hc : c < 2 ^ 32) (hb : b < 2 ^ 32) : crcByte c b < 2 ^ 32 := by
  have start := Nat.xor_lt_two_pow hc hb
  unfold crcByte
  iterate 8 apply crcBit_lt
  exact start

theorem crc32c_lt {bs : List Nat} (h : ∀ b ∈ bs, b < 256) : crc32c bs < 2 ^ 32 := by
  refine Nat.xor_lt_two_pow ?_ (by decide)
  refine List.foldlRecOn bs crcByte (motive := (· < 2 ^ 32)) (by decide) fun c hc b hb => crcByte_lt hc ?_
  exact Nat.lt_trans (h b hb) (by decide)

theorem toBytes_lt {n v b : Nat} (h : b ∈ toBytes n v) : b < 256 := by
  induction n generalizing v with
  | zero => cases h
  | succ n ih =>
    rcases List.mem_cons.1 h with rfl | later
    · exact Nat.mod_lt v (by decide)
    · exact ih later

theorem cellCrc_lt (hdr : Nat) (payload : List Word) : cellCrc hdr payload < 2 ^ 32 := by
  refine crc32c_lt fun b hb => ?_
  rcases List.mem_append.1 hb with header | words
  · exact toBytes_lt header
  · obtain ⟨w, -, word⟩ := List.mem_flatMap.1 words
    exact toBytes_lt word

/-! ## The body and the line of a slot -/

/-- R97: header, payload and CRC, as they enter the scrambler. -/
def slotBody (hdr : Nat) (payload : List Word) : List Bool :=
  bitsOf 32 hdr ++ (payload.flatMap fun w => bitsOf 64 w.toNat) ++ bitsOf 32 (cellCrc hdr payload)

/-- R99: the scrambled body with its stuff bits. -/
def slotStuffed (scr hdr : Nat) (payload : List Word) : List Bool := stuff false 0 (scramble scr (slotBody hdr payload)).1

/-- R100: what follows the marker, to the end of the slot. -/
def slotRest (k : LaneKind) (scr hdr : Nat) (payload : List Word) : List Bool :=
  slotStuffed scr hdr payload ++
    pad (k.slotBits - (bitsOf 16 marker ++ slotStuffed scr hdr payload).length) ((slotStuffed scr hdr payload).getLastD false)

theorem encodeSlot_eq (k : LaneKind) (scr hdr : Nat) (payload : List Word) :
    encodeSlot k scr hdr payload =
      (natOf (bitsOf 16 marker ++ slotRest k scr hdr payload), (scramble scr (slotBody hdr payload)).2) := by
  rw [slotRest, ← List.append_assoc]; rfl

theorem length_flatMap_bitsOf (ws : List Word) : (ws.flatMap fun w => bitsOf 64 w.toNat).length = 64 * ws.length := by
  induction ws with
  | nil => rfl
  | cons w ws ih => rw [List.flatMap_cons, List.length_append, length_bitsOf, ih, List.length_cons, Nat.mul_succ, Nat.add_comm]

theorem length_slotBody (k : LaneKind) (hdr : Nat) {payload : List Word} (h : payload.length = k.words) :
    (slotBody hdr payload).length = k.bodyBits := by
  rw [slotBody, List.length_append, List.length_append, length_flatMap_bitsOf, length_bitsOf, length_bitsOf, h, LaneKind.bodyBits]
  omega

@[simp] theorem length_pad (n : Nat) (prev : Bool) : (pad n prev).length = n := by
  induction n generalizing prev with
  | zero => rfl
  | succ n ih => rw [pad, List.length_cons, ih]

/-- R100: marker, stuffed body and pad bits are the slot, because the stuffed body fits. -/
theorem length_slotRest (k : LaneKind) (scr hdr : Nat) {payload : List Word} (h : payload.length = k.words) :
    16 + (slotRest k scr hdr payload).length = k.slotBits := by
  have fits : 16 + (slotStuffed scr hdr payload).length ≤ k.slotBits :=
    marker_and_stuff_fit k ((length_scramble ..).trans (length_slotBody k hdr h))
  rw [slotRest, List.length_append, length_pad, List.length_append, length_bitsOf]
  omega

/-- The receiver finds on the line the bits that the transmitter sent after the marker. -/
theorem line_after_marker (k : LaneKind) (scr hdr : Nat) {payload : List Word} (h : payload.length = k.words) :
    (bitsOf k.slotBits (encodeSlot k scr hdr payload).1).drop 16 = slotRest k scr hdr payload := by
  have whole : (bitsOf 16 marker ++ slotRest k scr hdr payload).length = k.slotBits := by
    rw [List.length_append, length_bitsOf, length_slotRest k scr hdr h]
  rw [encodeSlot_eq, ← whole, bitsOf_natOf, List.drop_left' (length_bitsOf ..)]

/-- R99, R98: the body comes out of the line, and the descrambler is left in step. -/
theorem body_of_line (k : LaneKind) (scr hdr : Nat) {payload : List Word} (h : payload.length = k.words) :
    destuff k.bodyBits false 0 (slotRest k scr hdr payload) = ((scramble scr (slotBody hdr payload)).1, true) := by
  have count : k.bodyBits = (scramble scr (slotBody hdr payload)).1.length := by
    rw [length_scramble, length_slotBody k hdr h]
  rw [count]
  exact destuff_stuff _ _ (by decide)

/-! ## The fields of a body -/

theorem slotBody_header {hdr : Nat} (payload : List Word) (h : hdr < 2 ^ 32) : natOf ((slotBody hdr payload).take 32) = hdr := by
  rw [slotBody, List.append_assoc, List.take_left' (length_bitsOf ..), natOf_bitsOf h]

theorem slotBody_payload (hdr : Nat) (payload : List Word) :
    wordsOf payload.length ((slotBody hdr payload).drop 32) = payload := by
  rw [slotBody, List.append_assoc, List.drop_left' (length_bitsOf ..), wordsOf_flatMap_bitsOf]

theorem slotBody_crc (hdr : Nat) (payload : List Word) :
    natOf (((slotBody hdr payload).drop (32 + 64 * payload.length)).take 32) = cellCrc hdr payload := by
  have before : (bitsOf 32 hdr ++ payload.flatMap fun w => bitsOf 64 w.toNat).length = 32 + 64 * payload.length := by
    rw [List.length_append, length_bitsOf, length_flatMap_bitsOf]
  rw [slotBody, List.drop_left' before, List.take_of_length_le (Nat.le_of_eq (length_bitsOf ..)), natOf_bitsOf (cellCrc_lt ..)]

/-! ## The round trip -/

theorem decodeSlot_encodeSlot (k : LaneKind) (scr : Nat) {hdr : Nat} {payload : List Word} (hh : hdr < 2 ^ 32)
    (hp : payload.length = k.words) :
    decodeSlot k scr (encodeSlot k scr hdr payload).1 = (some (hdr, payload), (encodeSlot k scr hdr payload).2) := by
  have words := slotBody_payload hdr payload
  have crc := slotBody_crc hdr payload
  rw [hp] at words crc
  simp only [decodeSlot, line_after_marker k scr hdr hp, body_of_line k scr hdr hp, descramble_scramble,
    slotBody_header payload hh, words, crc, decide_true, Bool.and_self, if_true]
  rw [encodeSlot_eq]

/-- R104: the slot begins with the marker. -/
theorem goodMarker_encodeSlot (k : LaneKind) (scr hdr : Nat) {payload : List Word} (h : payload.length = k.words) :
    goodMarker k (encodeSlot k scr hdr payload).1 = true := by
  have rest : k.slotBits - 16 = (slotRest k scr hdr payload).length := by
    rw [← length_slotRest k scr hdr h, Nat.add_sub_cancel_left]
  have top : natOf (bitsOf 16 marker ++ slotRest k scr hdr payload) / 2 ^ (k.slotBits - 16) = marker := by
    rw [rest, natOf_append_div, natOf_bitsOf (by decide)]
  rw [goodMarker, encodeSlot_eq, top]
  decide

/-- Settles O9: the line is cut back into marker and body, the body destuffed, descrambled and read field by field. -/
theorem slotRoundTrip : Obligations.SlotRoundTrip := fun k scr hdr _ hh hp =>
  ⟨decodeSlot_encodeSlot k scr hh hp, goodMarker_encodeSlot k scr hdr hp⟩

end Sys2Proof.Proofs
end

section
/-! The fields of a header, of a return word and of a message header, and the check value of the CRC (R120, R122, R134, R140). -/

namespace Sys2Proof.Proofs

open Sys2Proof.Machine

/-! ## Headers and return words (R120, R140) -/

/-- The return fields hold values that fit their bits. -/
structure ReturnsFit (r : Returns) : Prop where
  ack : r.ack < 256
  ccls : r.ccls < 4
  credits : r.credits < 32

/-- The return fields at their places in a header, which a return word keeps. -/
def returnBits (r : Returns) : Nat := r.ack * 2 ^ 12 + b1 r.nak * 2 ^ 11 + r.ccls * 2 ^ 9 + r.credits * 2 ^ 4

/-- The return fields end at bit 19 and begin at bit 4. -/
theorem returnBits_place {r : Returns} (h : ReturnsFit r) : returnBits r < 2 ^ 20 ∧ returnBits r % 2 ^ 4 = 0 := by
  have := b1_lt_two r.nak
  obtain ⟨hack, hccls, hcredits⟩ := h
  rw [returnBits]; omega

theorem toNat_returnWord {r : Returns} (h : ReturnsFit r) : (returnWord r).toNat = returnBits r := by
  have fits := (returnBits_place h).1
  obtain ⟨hack, hccls, hcredits⟩ := h
  rw [returnWord, BitVec.toNat_ofNat, Nat.mod_eq_of_lt hack, Nat.mod_eq_of_lt hccls, Nat.mod_eq_of_lt hcredits]
  exact Nat.mod_eq_of_lt (Nat.lt_trans fits (by decide))

/-- The other fields of a header stand above its return fields and below them. -/
theorem headerOf_eq {c : Cell} {r : Returns} (hcls : c.cls < 4) (hkind : c.kind < 4) (hseq : c.seq < 256) (h : ReturnsFit r) :
    headerOf c r =
      (c.cls * 2 ^ 10 + c.kind * 2 ^ 8 + c.seq) * 2 ^ 20 + returnBits r + (b1 c.poison * 8 + b1 c.comp * 4) := by
  obtain ⟨hack, hccls, hcredits⟩ := h
  rw [headerOf, returnBits, Nat.mod_eq_of_lt hcls, Nat.mod_eq_of_lt hkind, Nat.mod_eq_of_lt hseq, Nat.mod_eq_of_lt hack,
    Nat.mod_eq_of_lt hccls, Nat.mod_eq_of_lt hcredits]
  omega

/-- The return fields are read whatever stands above and below them. -/
theorem returnsOf_between {r : Returns} (h : ReturnsFit r) (above : Nat) {below : Nat} (low : below < 2 ^ 4) :
    returnsOf (above * 2 ^ 20 + returnBits r + below) = r := by
  have hn := b1_lt_two r.nak
  obtain ⟨hack, hccls, hcredits⟩ := h
  obtain ⟨ack, nak, ccls, credits⟩ := r
  simp only [returnsOf, returnBits, Returns.mk.injEq, bitAt_eq_iff, bits] at *
  refine ⟨?_, ?_, ?_, ?_⟩ <;> omega

theorem returnsOf_returnWord {r : Returns} (h : ReturnsFit r) : returnsOf (returnWord r).toNat = r := by
  have alone := returnsOf_between h 0 (Nat.two_pow_pos 4)
  rwa [Nat.zero_mul, Nat.zero_add, Nat.add_zero, ← toNat_returnWord h] at alone

/-- The fields of a cell are read whatever return fields ride with it. -/
theorem cellOf_around {c : Cell} {m : Nat} (hcls : c.cls < 4) (hkind : c.kind < 4) (hseq : c.seq < 256)
    (place : m < 2 ^ 20 ∧ m % 2 ^ 4 = 0) :
    cellOf ((c.cls * 2 ^ 10 + c.kind * 2 ^ 8 + c.seq) * 2 ^ 20 + m + (b1 c.poison * 8 + b1 c.comp * 4)) c.payload = c := by
  have hp := b1_lt_two c.poison
  have hc := b1_lt_two c.comp
  obtain ⟨cls, kind, seq, poison, comp, payload⟩ := c
  simp only [cellOf, Cell.mk.injEq, bitAt_eq_iff, bits] at *
  refine ⟨?_, ?_, ?_, ?_, ?_, trivial⟩ <;> omega

/-- Settles O10: the return fields stand apart from the fields above and below them. -/
theorem headerFieldsSurvive : Obligations.HeaderFieldsSurvive := by
  intro c r hcls hkind hseq hack hccls hcredits
  have fit : ReturnsFit r := ⟨hack, hccls, hcredits⟩
  have place := returnBits_place fit
  have hp := b1_lt_two c.poison
  have hc := b1_lt_two c.comp
  rw [headerOf_eq hcls hkind hseq fit]
  refine ⟨by omega, cellOf_around hcls hkind hseq place, returnsOf_between fit _ (by omega), by omega,
    returnsOf_returnWord fit, ?_⟩
  rw [toNat_returnWord fit, bits]
  omega

/-! ## Message headers (R134) -/

/-- The fields of a message header fill its 64 bits. -/
theorem toNat_msgHeader {tid op index sub len : Nat} (htid : tid < 2 ^ 16) (hop : op < 2 ^ 8) (hindex : index < 2 ^ 16)
    (hsub : sub < 2 ^ 8) (hlen : len < 2 ^ 16) :
    (msgHeader tid op index sub len).toNat = tid * 2 ^ 48 + op * 2 ^ 40 + index * 2 ^ 24 + sub * 2 ^ 16 + len := by
  rw [msgHeader, BitVec.toNat_ofNat]
  omega

/-- R122: the check value of the CRC. -/
theorem crc32c_checkValue : crc32c [0x31, 0x32, 0x33, 0x34, 0x35, 0x36, 0x37, 0x38, 0x39] = 0xE3069283 := by
  simp [crc32c, crcByte, crcBit]

/-- Settles O16: each field is below the weight of the next one, so the division by its weight finds it. -/
theorem messageHeaderFieldsSurvive : Obligations.MessageHeaderFieldsSurvive := by
  refine ⟨fun tid op index sub len htid hop hindex hsub hlen => ?_, crc32c_checkValue⟩
  simp only [msgId, msgOp, msgIndex, msgSub, msgLen, bits, toNat_msgHeader htid hop hindex hsub hlen]
  refine ⟨?_, ?_, ?_, ?_, ?_⟩ <;> omega

end Sys2Proof.Proofs
end

section
/-! What a transmitter keeps and drops when return fields arrive (R136, R139). -/

namespace Sys2Proof.Proofs

open Sys2Proof.Machine Sys2Proof.Laws

/-- R136: the cells that an acknowledgement releases, the oldest first; one that names no cell held releases none. -/
def ackedCount (x : Tx) (r : Returns) : Nat :=
  let n := (r.ack + 1 + 256 - x.una % 256) % 256
  if n ≤ x.buf.length then n else 0

/-- The transmitter without the cells that an acknowledgement releases. -/
def dropAcked (x : Tx) (r : Returns) (now : Nat) : Tx :=
  let n := ackedCount x r
  if n = 0 then x else
    { x with una := (x.una + n) % 256, buf := x.buf.drop n, timer := now, progress := now,
             replay := if x.buf.length ≤ n then none else x.replay.map fun i => i - n }

/-- R139: the count of a class grows by the distance from it to the value reported, modulo 32. -/
def creditedCounts (x : Tx) (r : Returns) : Bank Nat := Bank.upd 0 x.got r.ccls fun g => g + (r.credits + 32 - g % 32) % 32

theorem dropAcked_none {x : Tx} {r : Returns} (now : Nat) (h : ackedCount x r = 0) : dropAcked x r now = x := if_pos h

theorem dropAcked_some {x : Tx} {r : Returns} (now : Nat) (h : ackedCount x r ≠ 0) : dropAcked x r now =
    { x with una := (x.una + ackedCount x r) % 256, buf := x.buf.drop (ackedCount x r), timer := now, progress := now,
             replay := if x.buf.length ≤ ackedCount x r then none else x.replay.map fun i => i - ackedCount x r } := if_neg h

/-- U moves past the cells acknowledged; the next number and the counts of credit stay. -/
theorem dropAcked_frame (x : Tx) (r : Returns) (now : Nat) :
    (dropAcked x r now).una % 256 = (x.una + ackedCount x r) % 256 ∧ (dropAcked x r now).buf = x.buf.drop (ackedCount x r) ∧
      (dropAcked x r now).next = x.next ∧ (dropAcked x r now).got = x.got := by
  by_cases h : ackedCount x r = 0
  · rw [dropAcked_none now h, h]; exact ⟨rfl, rfl, rfl, rfl⟩
  · rw [dropAcked_some now h]; exact ⟨Nat.mod_mod .., rfl, rfl, rfl⟩

theorem tx_naked_ite (p : Prop) [Decidable p] (x : Tx) (since : Nat) :
    ∃ naked, (if p then { x with naked := some since } else x) = { x with naked := naked } := by
  split
  · exact ⟨_, rfl⟩
  · exact ⟨_, rfl⟩

/-- Return fields release cells, count credit, and may register a NAK. -/
theorem tx_applyReturns_eq (x : Tx) (k : LaneKind) (r : Returns) (now : Nat) :
    ∃ naked, x.applyReturns k r now = { dropAcked x r now with got := creditedCounts (dropAcked x r now) r, naked := naked } :=
  tx_naked_ite _ { dropAcked x r now with got := creditedCounts (dropAcked x r now) r } _

theorem tx_got_applyReturns (x : Tx) (k : LaneKind) (r : Returns) (now : Nat) :
    (x.applyReturns k r now).got = creditedCounts x r := by
  obtain ⟨naked, applied⟩ := tx_applyReturns_eq x k r now
  obtain ⟨-, -, -, counts⟩ := dropAcked_frame x r now
  rw [applied]
  dsimp only
  rw [creditedCounts, counts, creditedCounts]

theorem get_upd_same {α : Type} [DecidableEq α] (d : α) (b : Bank α) (k : Nat) (f : α → α) :
    Bank.get d (Bank.upd d b k f) k = f (Bank.get d b k) := get_set_same ..

theorem get_upd_other {α : Type} [DecidableEq α] {d : α} (b : Bank α) {j k : Nat} (f : α → α) (h : j ≠ k) :
    Bank.get d (Bank.upd d b k f) j = Bank.get d b j := get_set_other _ _ h

/-- Settles O14: the distance from the count held to the value reported, modulo 32, is the whole distance. -/
theorem creditReportRecoversTheCount : Obligations.CreditReportRecoversTheCount := by
  intro k x r now n least most report
  rw [tx_got_applyReturns, creditedCounts]
  refine ⟨?_, fun c other => get_upd_other _ _ other⟩
  rw [get_upd_same, report]
  omega

end Sys2Proof.Proofs
end

section
/-! A lane delivers each cell once and in order (R136-R138). -/

namespace Sys2Proof.Proofs

open Sys2Proof.Machine

/-! ## The receiver's count (R136) -/

theorem rx_onSeq_expected {x : Rx} {c : Cell} (data : c.kind = 0) (h : c.seq = x.exp) :
    x.onSeq c = (true, { x with exp := (x.exp + 1) % 256, armed := true, nak := false }) := by
  rw [Rx.onSeq, if_pos data, if_pos h]

theorem rx_onSeq_other {x : Rx} {c : Cell} (data : c.kind = 0) (h : c.seq ≠ x.exp) :
    (x.onSeq c).1 = false ∧ (x.onSeq c).2.exp = x.exp := by
  rw [Rx.onSeq, if_pos data, if_neg h]
  split
  · exact ⟨rfl, rfl⟩
  · exact ⟨rfl, rfl⟩

theorem rx_exp_onBad (x : Rx) : x.onBad.exp = x.exp := by
  unfold Rx.onBad
  split
  · rfl
  · rfl

/-- A receiver acknowledges the cell before the one that it expects. -/
theorem rx_returns_exp (x : Rx) (k : LaneKind) :
    (x.returns k).1.ack = (x.exp + 255) % 256 ∧ (x.returns k).2.exp = x.exp := ⟨rfl, rfl⟩

/-! ## Cells by their whole number

A sequence number is a whole number modulo 256: the count of the cells sent before. -/

/-- `c` is cell number `a` of those sent. -/
structure IsCell (sent : List (List Word)) (a : Nat) (c : Cell) : Prop where
  data : c.kind = 0
  seq : c.seq = a % 256
  payload : sent[a]? = some c.payload

theorem IsCell.lt {sent : List (List Word)} {a : Nat} {c : Cell} (h : IsCell sent a c) : a < sent.length :=
  (List.getElem?_eq_some_iff.1 h.payload).1

theorem IsCell.append {sent : List (List Word)} {a : Nat} {c : Cell} (h : IsCell sent a c) (more : List (List Word)) :
    IsCell (sent ++ more) a c :=
  ⟨h.data, h.seq, (List.getElem?_append_left h.lt).trans h.payload⟩

/-- The cell whose number is the count of the accepted ones carries the next payload sent. -/
theorem IsCell.accepted {sent got : List (List Word)} {a : Nat} {c : Cell} (h : IsCell sent a c) (number : a = got.length)
    (before : got <+: sent) : got ++ [c.payload] <+: sent := by
  obtain ⟨rest, rfl⟩ := before
  have next := h.payload
  rw [number, List.getElem?_append_right (Nat.le_refl _), Nat.sub_self] at next
  cases rest with
  | nil => cases next
  | cons p rest =>
    obtain rfl : p = c.payload := Option.some.inj next
    exact ⟨rest, List.append_assoc ..⟩

/-- R138: the cells that a replay buffer holds. -/
def replayWindow (k : LaneKind) : Nat := k.depth.1 + k.depth.2

/-- R136: a window is smaller than the count of sequence numbers. -/
theorem replayWindow_lt (k : LaneKind) : replayWindow k < 256 := by cases k <;> decide

/-! ## The cells on the fibre -/

/-- The cells on the fibre, where no cell from number `top` on has been accepted before the first of them arrives: a cell was sent
when the replay buffer reached no further than a window above it, and so did all that arrives before it. -/
def OnFibre (w : Nat) (sent : List (List Word)) : Nat → List Cell → Prop
  | _, [] => True
  | top, c :: cs => ∃ a, IsCell sent a c ∧ top ≤ a + w ∧ OnFibre w sent (max top (a + 1)) cs

theorem OnFibre.le {w : Nat} {sent : List (List Word)} {cs : List Cell} {top low : Nat} (h : OnFibre w sent top cs)
    (le : low ≤ top) : OnFibre w sent low cs := by
  induction cs generalizing top low with
  | nil => trivial
  | cons c cs ih =>
    obtain ⟨a, cell, near, rest⟩ := h
    exact ⟨a, cell, Nat.le_trans le near, ih rest (by omega)⟩

theorem OnFibre.more {w : Nat} {sent : List (List Word)} {cs : List Cell} {top : Nat} (h : OnFibre w sent top cs)
    (more : List (List Word)) : OnFibre w (sent ++ more) top cs := by
  induction cs generalizing top with
  | nil => trivial
  | cons c cs ih =>
    obtain ⟨a, cell, near, rest⟩ := h
    exact ⟨a, cell.append more, near, ih rest⟩

/-- A cell of the replay buffer may enter the fibre. -/
theorem OnFibre.enter {w : Nat} {sent : List (List Word)} {cs : List Cell} {top a : Nat} {c : Cell} (h : OnFibre w sent top cs)
    (cell : IsCell sent a c) (near : sent.length ≤ a + w) (le : top ≤ sent.length) : OnFibre w sent top (cs ++ [c]) := by
  induction cs generalizing top with
  | nil => exact ⟨a, cell, Nat.le_trans le near, trivial⟩
  | cons d cs ih =>
    obtain ⟨b, before, close, rest⟩ := h
    exact ⟨b, before, close, ih rest (Nat.max_le.2 ⟨le, before.lt⟩)⟩

/-! ## The reports on their way back -/

/-- The reports name, one after the other, counts of accepted cells that rise from `low` to `high`. -/
def OnReturn : Nat → Nat → List Returns → Prop
  | low, high, [] => low ≤ high
  | low, high, r :: rs => ∃ e, low ≤ e ∧ (r.ack + 1) % 256 = e % 256 ∧ OnReturn e high rs

theorem OnReturn.bounds {low high : Nat} {rs : List Returns} (h : OnReturn low high rs) : low ≤ high := by
  induction rs generalizing low with
  | nil => exact h
  | cons r rs ih =>
    obtain ⟨e, above, -, rest⟩ := h
    exact Nat.le_trans above (ih rest)

theorem OnReturn.weaken {low high high' : Nat} {rs : List Returns} (h : OnReturn low high rs) (le : high ≤ high') :
    OnReturn low high' rs := by
  induction rs generalizing low with
  | nil => exact Nat.le_trans h le
  | cons r rs ih =>
    obtain ⟨e, above, ack, rest⟩ := h
    exact ⟨e, above, ack, ih rest⟩

theorem OnReturn.enter {low high : Nat} {rs : List Returns} {r : Returns} (h : OnReturn low high rs)
    (ack : (r.ack + 1) % 256 = high % 256) : OnReturn low high (rs ++ [r]) := by
  induction rs generalizing low with
  | nil => exact ⟨high, h, ack, Nat.le_refl high⟩
  | cons s rs ih =>
    obtain ⟨e, above, named, rest⟩ := h
    exact ⟨e, above, named, ih rest⟩

/-- A report may be lost: a later one says as much. -/
theorem OnReturn.lose {low high : Nat} {rs : List Returns} (h : OnReturn low high rs) : OnReturn low high (rs.drop 1) := by
  cases rs with
  | nil => exact h
  | cons r rs =>
    obtain ⟨e, above, -, rest⟩ := h
    cases rs with
    | nil => exact Nat.le_trans above rest
    | cons s rs =>
      obtain ⟨f, later, named, rest⟩ := rest
      exact ⟨f, Nat.le_trans above later, named, rest⟩

/-! ## The transmitter -/

theorem getElem?_concat_some {α : Type} {l : List α} {a b : α} {i : Nat} (h : (l ++ [a])[i]? = some b) :
    l[i]? = some b ∨ i = l.length ∧ a = b := by
  rcases Nat.lt_or_ge i l.length with old | new
  · exact .inl ((List.getElem?_append_left old).symm.trans h)
  · rw [List.getElem?_append_right new, List.getElem?_singleton] at h
    obtain ⟨past, same⟩ := Option.ite_none_right_eq_some.1 h
    exact .inr ⟨by omega, Option.some.inj same⟩

/-- The transmitter holds the cells sent from number `m` on, no more than a window of them. -/
structure TxHolds (w m : Nat) (sent : List (List Word)) (x : Tx) : Prop where
  una : x.una % 256 = m % 256
  next : x.next = sent.length % 256
  count : m + x.buf.length = sent.length
  room : x.buf.length ≤ w
  cells : ∀ i c, x.buf[i]? = some c → IsCell sent (m + i) c

/-- What the replay buffer holds is what was sent from `m` on. -/
theorem TxHolds.payloads {w m : Nat} {sent : List (List Word)} {x : Tx} (h : TxHolds w m sent x) :
    x.buf.map Cell.payload = sent.drop m := by
  refine List.ext_getElem? fun i => ?_
  rw [List.getElem?_map, List.getElem?_drop]
  cases at_i : x.buf[i]? with
  | none =>
    have past := List.getElem?_eq_none_iff.1 at_i
    have count := h.count
    exact (List.getElem?_eq_none (by omega)).symm
  | some c => exact (h.cells i c at_i).payload.symm

/-- A new cell enters a replay buffer that has room for it. -/
theorem TxHolds.send {w m : Nat} {sent : List (List Word)} {x : Tx} (h : TxHolds w m sent x) (room : x.buf.length < w) (cls : Nat)
    (payload : List Word) (poison comp : Bool) (now : Nat) :
    IsCell (sent ++ [payload]) sent.length (x.sendNew cls payload poison comp now).1 ∧
      TxHolds w m (sent ++ [payload]) (x.sendNew cls payload poison comp now).2 := by
  have fresh : IsCell (sent ++ [payload]) sent.length (x.sendNew cls payload poison comp now).1 :=
    ⟨rfl, h.next, List.getElem?_concat_length⟩
  refine ⟨fresh, h.una, ?_, ?_, ?_, fun i c at_i => ?_⟩
  · simp only [Tx.sendNew, h.next, List.length_append, List.length_singleton]; omega
  · simp only [Tx.sendNew, List.length_append, List.length_singleton, ← h.count]; omega
  · simp only [Tx.sendNew, List.length_append, List.length_singleton]; omega
  · rcases getElem?_concat_some at_i with old | ⟨newest, rfl⟩
    · exact (h.cells i c old).append [payload]
    · rw [newest, h.count]
      exact fresh

/-- A report that names a count between `m` and what was sent releases the cells below it. -/
theorem TxHolds.ackedCount {w m e : Nat} {sent : List (List Word)} {x : Tx} {r : Returns} (h : TxHolds w m sent x)
    (small : w < 256) (above : m ≤ e) (below : e ≤ sent.length) (ack : (r.ack + 1) % 256 = e % 256) :
    ackedCount x r = e - m := by
  obtain ⟨una, -, count, room, -⟩ := h
  have distance : (r.ack + 1 + 256 - x.una % 256) % 256 = e - m := by omega
  simp only [Proofs.ackedCount, distance]
  rw [if_pos (by omega)]

theorem TxHolds.returned {w m e : Nat} {sent : List (List Word)} {x : Tx} {r : Returns} (h : TxHolds w m sent x) (small : w < 256)
    (above : m ≤ e) (below : e ≤ sent.length) (ack : (r.ack + 1) % 256 = e % 256) (k : LaneKind) (now : Nat) :
    TxHolds w e sent (x.applyReturns k r now) := by
  obtain ⟨naked, applied⟩ := tx_applyReturns_eq x k r now
  obtain ⟨una, buf, next, -⟩ := dropAcked_frame x r now
  rw [h.ackedCount small above below ack] at una buf
  have count := h.count
  have room := h.room
  rw [applied]
  refine ⟨?_, next.trans h.next, ?_, ?_, fun i c at_i => ?_⟩
  · have := h.una
    dsimp only; omega
  · simp only [buf, List.length_drop]; omega
  · simp only [buf, List.length_drop]; omega
  · simp only [buf, List.getElem?_drop] at at_i
    have cell := h.cells _ c at_i
    rwa [← Nat.add_assoc, Nat.add_sub_cancel' above] at cell

/-! ## The lane from end to end -/

/-- The invariant of a lane: the transmitter holds what was sent from number `m` on, the receiver has accepted all below the count
that it expects, and the cells and reports on their way are in step with both. -/
structure LaneInStep (k : LaneKind) (m : Nat) (h : Hop) : Prop where
  tx : TxHolds (replayWindow k) m h.sent h.tx
  exp : h.rx.exp = h.got.length % 256
  got : h.got <+: h.sent
  flight : OnFibre (replayWindow k) h.sent h.got.length h.flight
  back : OnReturn m h.got.length h.back

theorem laneInStep_start (k : LaneKind) : LaneInStep k 0 {} where
  tx := ⟨rfl, rfl, rfl, Nat.zero_le _, fun _ _ held => by cases held⟩
  exp := rfl
  got := List.nil_prefix
  flight := trivial
  back := Nat.le_refl 0

theorem tx_hasRoom_lt {x : Tx} {k : LaneKind} {c : Nat} (h : x.hasRoom k c = true) : x.buf.length < replayWindow k := by
  unfold Tx.hasRoom at h
  split at h
  · exact of_decide_eq_true h
  · exact (of_decide_eq_true h).2

section Events

variable {k : LaneKind} {m : Nat} {h : Hop}

theorem LaneInStep.send (s : LaneInStep k m h) (now cls : Nat) (payload : List Word) (poison comp : Bool) :
    LaneInStep k m (h.next k (now, .send cls payload poison comp)) := by
  rw [Hop.next]
  dsimp only
  split
  · next may =>
    have room := tx_hasRoom_lt (Bool.and_eq_true_iff.1 may).2
    obtain ⟨fresh, tx⟩ := s.tx.send room cls payload poison comp now
    have count := s.tx.count
    have length : (h.sent ++ [payload]).length = h.sent.length + 1 := List.length_append
    have accepted := s.got.length_le
    exact ⟨tx, s.exp, s.got.trans (List.prefix_append ..), (s.flight.more [payload]).enter fresh (by omega) (by omega), s.back⟩
  · exact s

theorem LaneInStep.replay (s : LaneInStep k m h) (now : Nat) : LaneInStep k m (h.next k (now, .replay)) :=
  { s with tx := { s.tx with } }

theorem LaneInStep.resend (s : LaneInStep k m h) (now : Nat) : LaneInStep k m (h.next k (now, .resend)) := by
  rw [Hop.next]
  dsimp only
  split
  · exact s
  · next i _ =>
    split
    · next c held =>
      have count := s.tx.count
      have room := s.tx.room
      exact ⟨{ s.tx with }, s.exp, s.got, s.flight.enter (s.tx.cells i c held) (by omega) s.got.length_le, s.back⟩
    · exact { s with tx := { s.tx with } }

/-- R136: of the cells that may arrive, the receiver takes the one with the number that it expects, and no other: fewer than 256
numbers lie between them. -/
theorem LaneInStep.arrive (s : LaneInStep k m h) (now : Nat) : LaneInStep k m (h.next k (now, .arrive)) := by
  obtain ⟨tx, exp, got, flight, back⟩ := s
  rw [Hop.next]
  dsimp only
  split
  · exact ⟨tx, exp, got, flight, back⟩
  · next c cs first =>
    rw [first] at flight
    obtain ⟨a, cell, near, rest⟩ := flight
    by_cases expected : c.seq = h.rx.exp
    · have number : a = h.got.length := by
        have := cell.seq
        have := cell.lt
        have := tx.count
        have := tx.room
        have := back.bounds
        have := replayWindow_lt k
        omega
      simp only [rx_onSeq_expected cell.data expected, if_true]
      have length : (h.got ++ [c.payload]).length = h.got.length + 1 := List.length_append
      refine ⟨tx, ?_, ?_, rest.le ?_, back.weaken ?_⟩
      · simp only [exp, length, Nat.mod_add_mod]
      · exact cell.accepted number got
      · rw [length, number]; exact Nat.le_max_right ..
      · rw [length]; exact Nat.le_succ _
    · obtain ⟨refused, same⟩ := rx_onSeq_other cell.data expected
      rw [refused]
      exact ⟨tx, same.trans exp, got, rest.le (Nat.le_max_left ..), back⟩

theorem LaneInStep.spoil (s : LaneInStep k m h) (now : Nat) : LaneInStep k m (h.next k (now, .spoil)) := by
  obtain ⟨tx, exp, got, flight, back⟩ := s
  rw [Hop.next]
  dsimp only
  split
  · exact ⟨tx, exp, got, flight, back⟩
  · next c cs first =>
    rw [first] at flight
    obtain ⟨a, -, -, rest⟩ := flight
    exact ⟨tx, (rx_exp_onBad _).trans exp, got, rest.le (Nat.le_max_left ..), back⟩

theorem LaneInStep.report (s : LaneInStep k m h) (now : Nat) : LaneInStep k m (h.next k (now, .report)) := by
  obtain ⟨ack, same⟩ := rx_returns_exp h.rx k
  have exp := s.exp
  exact ⟨s.tx, same.trans exp, s.got, s.flight, s.back.enter (by rw [ack]; omega)⟩

theorem LaneInStep.returned (s : LaneInStep k m h) (now : Nat) : ∃ e, LaneInStep k e (h.next k (now, .returned)) := by
  obtain ⟨tx, exp, got, flight, back⟩ := s
  rw [Hop.next]
  dsimp only
  split
  · exact ⟨m, tx, exp, got, flight, back⟩
  · next r rs first =>
    rw [first] at back
    obtain ⟨e, above, ack, rest⟩ := back
    exact ⟨e, tx.returned (replayWindow_lt k) above (Nat.le_trans rest.bounds got.length_le) ack k now, exp, got, flight, rest⟩

theorem LaneInStep.unreturned (s : LaneInStep k m h) (now : Nat) : LaneInStep k m (h.next k (now, .unreturned)) :=
  { s with back := s.back.lose }

/-- Every event keeps a lane in step. -/
theorem LaneInStep.next (s : LaneInStep k m h) (e : Nat × HopEvent) : ∃ m, LaneInStep k m (h.next k e) := by
  obtain ⟨now, event⟩ := e
  cases event with
  | send cls payload poison comp => exact ⟨m, s.send now cls payload poison comp⟩
  | replay => exact ⟨m, s.replay now⟩
  | resend => exact ⟨m, s.resend now⟩
  | arrive => exact ⟨m, s.arrive now⟩
  | spoil => exact ⟨m, s.spoil now⟩
  | report => exact ⟨m, s.report now⟩
  | returned => exact s.returned now
  | unreturned => exact ⟨m, s.unreturned now⟩

end Events

theorem laneInStep_run (k : LaneKind) (es : List (Nat × HopEvent)) : ∃ m, LaneInStep k m (es.foldl (Hop.next k) {}) :=
  List.foldlRecOn es (Hop.next k) (motive := fun h => ∃ m, LaneInStep k m h) ⟨0, laneInStep_start k⟩
    fun _ ⟨_, s⟩ e _ => s.next e

/-- Settles O15: every event keeps the lane in step, and a lane in step has accepted the first cells sent and holds the others. -/
theorem linkDeliversEachCellOnceInOrder : Obligations.LinkDeliversEachCellOnceInOrder := by
  intro k es
  obtain ⟨m, s⟩ := laneInStep_run k es
  exact ⟨s.got, m, s.back.bounds, s.tx.payloads⟩

end Sys2Proof.Proofs
end

section
/-! The counter counts by increments and carries into the seconds (R148, R150, R151). -/

namespace Sys2Proof.Proofs

open Sys2Proof.Machine Sys2Proof.Laws

/-! ## One tick of the counter -/

/-- The base-tick period after tick `before` holds an edge of the always-on clock. -/
def aoEdge (before : Nat) : Bool := decide (aoOf before < aoOf (before + 1))

theorem aoEdge_of_lt {before : Nat} (h : aoOf before < aoOf (before + 1)) : aoEdge before = true := decide_eq_true h

theorem aoEdge_of_eq {before : Nat} (h : aoOf before = aoOf (before + 1)) : aoEdge before = false :=
  decide_eq_false (Nat.not_lt.2 (Nat.le_of_eq h.symm))

/-- R148: the counter takes the increment of the period; of the rest, a tick changes the handover that waits, the clock that the
record of the second names, and where the sum crossed 10^9 ns. -/
theorem timeBase_tick_eq {x : TimeBase} (noLoad : x.load = none) (before : Nat) :
    ∃ at_ beyond ao, x.tick before =
      { x with acc := x.acc + (x.adds (aoEdge before)).1, hand := if aoEdge before then 0 else x.hand,
               aoThisSecond := x.aoThisSecond || x.aoDriven || (x.adds (aoEdge before)).2,
               crossTick := at_, crossBeyond := beyond, crossAo := ao } := by
  simp only [TimeBase.tick, noLoad]
  split <;> exact ⟨_, _, _, rfl⟩

theorem timeBase_tick_acc {x : TimeBase} (noLoad : x.load = none) (before : Nat) :
    (x.tick before).acc = x.acc + (x.adds (aoEdge before)).1 := by
  obtain ⟨_, _, _, counted⟩ := timeBase_tick_eq noLoad before
  rw [counted]

theorem timeBase_tick_hand {x : TimeBase} (noLoad : x.load = none) (before : Nat) :
    (x.tick before).hand = if aoEdge before then 0 else x.hand := by
  obtain ⟨_, _, _, counted⟩ := timeBase_tick_eq noLoad before
  rw [counted]

theorem timeBase_tick_aoThisSecond {x : TimeBase} (noLoad : x.load = none) (before : Nat) :
    (x.tick before).aoThisSecond = (x.aoThisSecond || x.aoDriven || (x.adds (aoEdge before)).2) := by
  obtain ⟨_, _, _, counted⟩ := timeBase_tick_eq noLoad before
  rw [counted]

/-- R148: the tick in which the sum crosses 10^9 ns is kept, with the excess and the clock that crossed. -/
theorem timeBase_tick_crossing {x : TimeBase} (noLoad : x.load = none) (before : Nat) (below : x.acc < giga)
    (reached : giga ≤ (x.tick before).acc) :
    (x.tick before).crossTick = before + 1 ∧ (x.tick before).crossBeyond + giga = (x.tick before).acc ∧
      (x.tick before).crossAo = (x.adds (aoEdge before)).2 := by
  rw [timeBase_tick_acc noLoad] at reached ⊢
  have crosses : x.acc < giga ∧ giga ≤ x.acc + (x.adds (decide (aoOf before < aoOf (before + 1)))).1 := ⟨below, reached⟩
  simp only [TimeBase.tick, noLoad, if_pos crosses, true_and]
  exact ⟨Nat.sub_add_cancel reached, rfl⟩

/-! ## What a period adds (R150) -/

theorem adds_onBase {x : TimeBase} (noHand : x.hand = 0) (base : x.onAo = false) (edge : Bool) :
    x.adds edge = (x.incBase, false) := by
  simp only [TimeBase.adds, noHand, base, Bool.false_eq_true, if_false]

theorem adds_onAo {x : TimeBase} (noHand : x.hand = 0) (ao : x.onAo = true) (edge : Bool) :
    x.adds edge = if edge then (x.incAo * 256, true) else (0, false) := by
  simp only [TimeBase.adds, noHand, ao, if_true]

theorem adds_leaving {x : TimeBase} (planned : x.hand = 1) (edge : Bool) :
    x.adds edge = (if edge then 0 else x.incBase, false) := by
  simp only [TimeBase.adds, planned]

theorem adds_returning {x : TimeBase} (back : x.hand = 3) (edge : Bool) :
    x.adds edge = if edge then (x.incAo * 256, true) else (0, false) := by
  simp only [TimeBase.adds, back]

/-- Without a handover, an increment is one of the clock that the counter runs on. -/
theorem adds_clock {x : TimeBase} (noHand : x.hand = 0) {edge : Bool} (counts : 0 < (x.adds edge).1) :
    (x.adds edge).2 = x.onAo := by
  cases ao : x.onAo with
  | false => rw [adds_onBase noHand ao]
  | true =>
    rw [adds_onAo noHand ao] at counts ⊢
    cases edge with
    | true => rfl
    | false => exact absurd counts (Nat.lt_irrefl 0)

/-- Without a handover the counter is driven by the clock that it runs on. -/
theorem aoDriven_noHand {x : TimeBase} (noHand : x.hand = 0) : x.aoDriven = x.onAo := by
  simp only [TimeBase.aoDriven, noHand]

theorem toAo_hand {x : TimeBase} (noHand : x.hand = 0) (base : x.onAo = false) : (x.toAo true).hand = 1 := by
  simp only [TimeBase.toAo, noHand, base, Bool.false_eq_true, if_false, if_true, Nat.reduceEqDiff]

theorem toBase_hand {x : TimeBase} (noHand : x.hand = 0) (ao : x.onAo = true) : x.toBase.hand = 3 := by
  simp only [TimeBase.toBase, noHand, ao, Bool.not_true, Bool.false_eq_true, if_false, Nat.reduceEqDiff]

/-- R150: until the next always-on edge a planned change to that clock counts base increments, and that edge adds none. -/
theorem tick_leaving {x : TimeBase} (noLoad : x.load = none) (planned : x.hand = 1) (before : Nat) :
    (aoOf before = aoOf (before + 1) → (x.tick before).acc = x.acc + x.incBase ∧ (x.tick before).hand = 1) ∧
      (aoOf before < aoOf (before + 1) → (x.tick before).acc = x.acc ∧ (x.tick before).hand = 0) := by
  rw [timeBase_tick_acc noLoad, timeBase_tick_hand noLoad, adds_leaving planned, planned]
  exact ⟨fun h => by simp only [aoEdge_of_eq h, Bool.false_eq_true, if_false, and_self], fun h => by simp only [aoEdge_of_lt h, if_true, Nat.add_zero, and_self]⟩

/-- R150: a change back waits for the next always-on edge, which adds the always-on increment. -/
theorem tick_returning {x : TimeBase} (noLoad : x.load = none) (back : x.hand = 3) (before : Nat) :
    (aoOf before = aoOf (before + 1) → (x.tick before).acc = x.acc ∧ (x.tick before).hand = 3) ∧
      (aoOf before < aoOf (before + 1) → (x.tick before).acc = x.acc + x.incAo * 256 ∧ (x.tick before).hand = 0) := by
  rw [timeBase_tick_acc noLoad, timeBase_tick_hand noLoad, adds_returning back, back]
  exact ⟨fun h => by simp only [aoEdge_of_eq h, Bool.false_eq_true, if_false, Nat.add_zero, and_self], fun h => by simp only [aoEdge_of_lt h, if_true, and_self]⟩

/-! ## What the records and the marks of a second that starts keep -/

/-- What a rollover sets: the counter, the increments in use and the object that shows the base one. -/
structure CounterView where
  seconds : Nat
  acc : Nat
  incBase : Nat
  incAo : Nat
  inUse : Nat

def counterView (c : Conc) : CounterView :=
  { seconds := c.time.seconds, acc := c.time.acc, incBase := c.time.incBase, incAo := c.time.incAo, inUse := c.get O.incrementInUse }

theorem counterView_ite {p : Prop} [Decidable p] {a b : Conc} {v : CounterView} (ha : counterView a = v) (hb : counterView b = v) :
    counterView (if p then a else b) = v := by split <;> assumption

/-- A fold of operations that each keep the view keeps it. -/
theorem counterView_foldl {α : Type} {g : Conc → α → Conc} (keeps : ∀ c a, counterView (g c a) = counterView c) (l : List α)
    (c : Conc) : counterView (l.foldl g c) = counterView c :=
  List.foldlRecOn l g (motive := fun d => counterView d = counterView c) rfl fun d kept a _ => (keeps d a).trans kept

@[simp] theorem counterView_setPtime (c : Conc) (p : Nat) (x : PortTime) : counterView (c.setPtime p x) = counterView c := rfl

theorem counterView_put_other (c : Conc) {o : Obj} {i : Nat} (v : Nat) (apart : O.incrementInUse.key ≠ o.key i) :
    counterView (c.put o v i) = counterView c := by
  rw [counterView, conc_get_put_other c v apart]; rfl

/-- R292: a word enters the class-0 queue, or its source waits and is counted. -/
@[simp] theorem counterView_emitAt (c : Conc) (start : Nat) (w : Word) : counterView (c.emitAt start w) = counterView c :=
  counterView_ite rfl (counterView_put_other _ _ (by decide))

@[simp] theorem counterView_emitIf (c : Conc) (on : Bool) (w : Nat) : counterView (c.emitIf on w) = counterView c :=
  counterView_ite (counterView_emitAt ..) rfl

theorem counterView_originRecords (c : Conc) : counterView c.originRecords = counterView c := by
  rw [Conc.originRecords]
  refine counterView_foldl (fun d p => ?_) _ _
  dsimp only
  refine counterView_ite ?_ rfl
  rw [counterView_emitIf, counterView_setPtime]

theorem counterView_oweMarks (c : Conc) : counterView c.oweMarks = counterView c := by
  rw [Conc.oweMarks]
  refine counterView_foldl (fun d p => ?_) _ _
  dsimp only
  exact counterView_ite (counterView_setPtime ..) rfl

theorem counterView_secondRecords (c : Conc) : counterView c.secondRecords = counterView c := by
  rw [Conc.secondRecords]
  simp only [Conc.emit0, counterView_emitAt, counterView_originRecords, counterView_emitIf]

/-! ## The rollover (R148, R151) -/

/-- The base and the always-on increment that a rollover in tick `at_` takes up: those that were pending before the write, when the
last write fell in that tick or later. -/
def pendingAt (c : Conc) (at_ : Nat) : Nat × Nat :=
  match c.time.wroteAt with
  | some w => if at_ ≤ w then c.time.before else (c.get O.incrementBase, c.get O.incrementAo)
  | none => (c.get O.incrementBase, c.get O.incrementAo)

theorem pendingAt_early {c : Conc} {at_ : Nat} (h : ∀ w, c.time.wroteAt = some w → w < at_) :
    pendingAt c at_ = (c.get O.incrementBase, c.get O.incrementAo) := by
  unfold pendingAt
  split
  · next w wrote => exact if_neg (Nat.not_le.2 (h w wrote))
  · rfl

theorem pendingAt_late {c : Conc} {at_ w : Nat} (wrote : c.time.wroteAt = some w) (h : at_ ≤ w) : pendingAt c at_ = c.time.before := by
  simp only [pendingAt, wrote, if_pos h]

/-- A rollover's change of the increments, to those of `p`. -/
def takenUp (c : Conc) (p : Nat × Nat) : Conc :=
  ((if p.1 = c.time.incBase ∧ p.2 = c.time.incAo then c else c.touch).withTime fun t =>
    { t with changed := decide (p.1 ≠ t.incBase), incBase := p.1, incAo := p.2 }).put O.incrementInUse p.1

theorem takeIncrements_eq (c : Conc) (at_ : Nat) : c.takeIncrements at_ = takenUp c (pendingAt c at_) := by
  unfold Conc.takeIncrements takenUp pendingAt
  cases c.time.wroteAt with
  | none => rfl
  | some w => by_cases late : at_ ≤ w <;> simp only [late, decide_true, decide_false, if_true, if_false, Bool.false_eq_true]

/-- R151: the increments that are due come into use, and `IncrementInUse` shows the base one. -/
theorem counterView_takeIncrements (c : Conc) (at_ : Nat) :
    counterView (c.takeIncrements at_) =
      { seconds := c.time.seconds, acc := c.time.acc, incBase := (pendingAt c at_).1, incAo := (pendingAt c at_).2,
        inUse := (pendingAt c at_).1 } := by
  rw [takeIncrements_eq, takenUp, counterView, conc_get_put]
  split <;> rfl

theorem secondEnds_below {c : Conc} (below : c.time.acc < giga) : c.secondEnds = c := if_pos below

@[simp] theorem counterView_withTime_aoThisSecond (c : Conc) (f : TimeBase → Bool) :
    counterView (c.withTime fun x => { x with aoThisSecond := f x }) = counterView c := rfl

/-- R148: the counter carries 10^9 ns into the seconds; the records, the marks and the tables of a second that starts leave it. -/
theorem counterView_secondEnds {c : Conc} (reached : giga ≤ c.time.acc) :
    counterView c.secondEnds =
      { seconds := (c.time.seconds + 1) % 2 ^ 48, acc := c.time.acc - giga, incBase := (pendingAt c c.rolloverTick).1,
        incAo := (pendingAt c c.rolloverTick).2, inUse := (pendingAt c c.rolloverTick).1 } := by
  let carried := c.withTime fun x => { x with acc := x.acc - giga, seconds := (x.seconds + 1) % 2 ^ 48, windowDone := false }
  have pending : pendingAt carried c.rolloverTick = pendingAt c c.rolloverTick := rfl
  have rolled : counterView c.rollover = counterView (carried.takeIncrements c.rolloverTick) := by
    rw [Conc.rollover, if_neg (Nat.not_lt.2 reached)]
    simp only [counterView_withTime_aoThisSecond, counterView_oweMarks, counterView_secondRecords]
    rfl
  have ends : counterView c.secondEnds = counterView c.rollover := by
    rw [Conc.secondEnds, if_neg (Nat.not_lt.2 reached)]
    exact counterView_ite rfl rfl
  rw [ends, rolled, counterView_takeIncrements, pending]; rfl

theorem exec_rollover {s : State} (up : s.conc.up = true) : exec .rollover s = .next { s with conc := s.conc.secondEnds } :=
  (run_wf (i := .rollover) s _ rfl).trans (congrArg _ (onConcUp_up _ up))

/-- Settles O30: a tick adds what the clock and the handover say; the rollover carries, then takes up the increments that were
pending before its tick. -/
theorem rolloverEndsTheSecond : Obligations.RolloverEndsTheSecond := by
  refine ⟨fun x before noLoad noHand => ⟨?_, ?_, fun base => ?_, fun ao edge => ?_, fun ao noEdge => ?_, fun below reached => ?_⟩,
    fun x before noLoad => ⟨fun base noHand => ?_, fun ao noHand => ?_⟩, fun s up => ⟨fun below => ?_, fun reached => ?_⟩⟩
  · obtain ⟨_, _, _, counted⟩ := timeBase_tick_eq noLoad before
    rw [counted, noHand, ite_self, ← noHand]
  · rw [timeBase_tick_aoThisSecond noLoad, aoDriven_noHand noHand]
    cases ao : x.onAo with
    | false => rw [adds_onBase noHand ao, Bool.or_false]
    | true => rw [Bool.or_true, Bool.true_or]
  · rw [timeBase_tick_acc noLoad, adds_onBase noHand base]
  · rw [timeBase_tick_acc noLoad, adds_onAo noHand ao, aoEdge_of_lt edge]; rfl
  · rw [timeBase_tick_acc noLoad, adds_onAo noHand ao, aoEdge_of_eq noEdge]; rfl
  · obtain ⟨tick, beyond, clock⟩ := timeBase_tick_crossing noLoad before below reached
    rw [timeBase_tick_acc noLoad] at reached
    exact ⟨tick, beyond, clock.trans (adds_clock noHand (by omega))⟩
  · exact ⟨rfl, rfl, tick_leaving (x := x.toAo true) noLoad (toAo_hand noHand base) before⟩
  · exact ⟨rfl, rfl, tick_returning (x := x.toBase) noLoad (toBase_hand noHand ao) before⟩
  · rw [exec_rollover up, secondEnds_below below]
  · have ends := counterView_secondEnds reached
    obtain ⟨seconds, acc, incBase, incAo, inUse⟩ := CounterView.mk.inj ends
    refine ⟨_, exec_rollover up, rfl, rfl, ?_, seconds, inUse.trans incBase.symm, fun early => ?_, fun w wrote late => ?_⟩
    · exact (congrArg (· + giga) acc).trans (Nat.sub_add_cancel reached)
    · rw [pendingAt_early early] at incBase incAo
      exact ⟨incBase, incAo⟩
    · rw [pendingAt_late wrote late] at incBase incAo
      exact ⟨incBase, incAo⟩

end Sys2Proof.Proofs
end

section
/-! A written increment is checked and waits for the rollover (R151). -/

namespace Sys2Proof.Proofs

open Sys2Proof.Machine Sys2Proof.Laws

/-! ## The objects of the increments -/

/-- R300: an object of one unsigned entry takes the values between its bounds. -/
theorem inRange_oneEntry {o : Obj} {lo hi : Int} (notCounter : o.counter = false) (bounds : o.range = some (lo, hi))
    (unsigned : o.signed = false) (one : o.bytes / o.width = 1) (v : Nat) :
    o.inRange v = decide (lo ≤ ↑(v % 2 ^ (8 * o.width)) ∧ ↑(v % 2 ^ (8 * o.width)) ≤ hi) := by
  simp only [Obj.inRange, notCounter, bounds, one, unsigned, Bool.false_eq_true, if_false, List.range_one, List.all_cons,
    List.all_nil, Bool.and_true, entryGet, Nat.mul_zero, Nat.pow_zero, Nat.div_one]

/-- The object of the always-on increment, or of the base one. -/
def incrementObj (ao : Bool) : Obj := if ao then O.incrementAo else O.incrementBase

/-- R151: the least and the greatest increment. -/
def incrementBounds (ao : Bool) : Nat × Nat := if ao then (511488000000, 512512000000) else (45767171507, 45858797475)

theorem incrementObj_inRange (ao : Bool) {v : Nat} (small : v < 2 ^ 40) :
    (incrementObj ao).inRange v = true ↔ (incrementBounds ao).1 ≤ v ∧ v ≤ (incrementBounds ao).2 := by
  have whole : v % 2 ^ (8 * 5) = v := Nat.mod_eq_of_lt small
  have judged : (incrementObj ao).inRange v =
      decide (((incrementBounds ao).1 : Int) ≤ (v % 2 ^ (8 * 5) : Nat) ∧
        ((v % 2 ^ (8 * 5) : Nat) : Int) ≤ (incrementBounds ao).2) := by
    cases ao <;> exact inRange_oneEntry rfl rfl rfl (by decide) v
  rw [judged, whole, decide_eq_true_iff, Int.ofNat_le, Int.ofNat_le]

/-- An increment has no reserved bits. -/
theorem incrementObj_taken (ao : Bool) {v : Nat} (small : v < 2 ^ 40) : (incrementObj ao).taken 5 v = v := by
  have whole : v % 2 ^ (8 * 5) = v := Nat.mod_eq_of_lt small
  cases ao <;> exact whole

/-- R300: any source that is served may write five bytes to an increment; the bounds alone judge them. -/
theorem incrementObj_checkWrite (ao session : Bool) {v : Nat} (small : v < 2 ^ 40) :
    (incrementObj ao).checkWrite session 5 v = if (incrementObj ao).inRange v then .ok v else .error Abort.range := by
  have judged : (incrementObj ao).checkWrite session 5 v =
      let w := (incrementObj ao).taken 5 v
      if (incrementObj ao).inRange w then .ok w else .error Abort.range := by
    cases ao <;> rfl
  rw [judged, incrementObj_taken ao small]

/-- The objects of the increments stand in the dictionary, in no block that a gate stops, and their write has no transfer of its own. -/
theorem incrementObj_plain (ao : Bool) :
    lookupObj concObjs (incrementObj ao).index (incrementObj ao).sub = .ok (incrementObj ao, 0) ∧
      (incrementObj ao).bytes = 5 ∧ (∀ c : Conc, c.clocked (incrementObj ao).index (incrementObj ao).sub) ∧
      (∀ (c : Conc) (a : Abort), c.refusal (incrementObj ao).index (incrementObj ao).sub a = a) ∧
      ∀ (c : Conc) (src lane v : Nat), c.applyWrite src lane 0 (incrementObj ao) 0 5 v =
        (.ok ((c.writeIncrement (incrementObj ao) v).noteChange (incrementObj ao)),
          (c.writeIncrement (incrementObj ao) v).noteChange (incrementObj ao)) := by
  cases ao <;> exact ⟨rfl, rfl, fun _ _ => nofun, fun _ _ => rfl, fun _ _ _ _ => applyWrite_plain (by decide) rfl⟩

/-! ## The write -/

theorem exec_incrementWrite {s : State} {src : Nat} (ao : Bool) (v : Nat) (hs : src ≤ 2) (up : s.conc.up = true) :
    exec (.incrementWrite src ao v) s = .next { s with conc := s.conc.hw src (incrementObj ao) v } :=
  (run_wf (i := .incrementWrite src ao v) s _ (decide_eq_true hs)).trans (congrArg _ (onConcUp_up _ up))

/-- The concentrator once an increment is accepted from a source. -/
def incrementWritten (c : Conc) (src : Nat) (ao : Bool) (v : Nat) : Conc :=
  ((c.asked src).writeIncrement (incrementObj ao) v).noteChange (incrementObj ao)

theorem hw_increment_accepted {c : Conc} {src v : Nat} {ao : Bool} (serves : c.serves src) (small : v < 2 ^ 40)
    (fits : (incrementBounds ao).1 ≤ v ∧ v ≤ (incrementBounds ao).2) :
    c.hw src (incrementObj ao) v = incrementWritten c src ao v := by
  obtain ⟨found, bytes, clocked, -, effect⟩ := incrementObj_plain ao
  have passes : c.admits src (incrementObj ao) 5 v := by
    refine ⟨serves, ?_, clocked _⟩
    rw [incrementObj_checkWrite ao _ small, if_pos ((incrementObj_inRange ao small).2 fits), incrementObj_taken ao small]
  have written := hostWrite_ok (lane := sourceLane src) (busy := 0) found ⟨rfl, rfl⟩ passes (effect ..)
  rw [incrementObj_taken ao small] at written
  rw [Conc.hw, bytes]
  exact written

theorem hw_increment_refused {c : Conc} {src v : Nat} {ao : Bool} (serves : c.serves src) (small : v < 2 ^ 40)
    (beyond : v < (incrementBounds ao).1 ∨ (incrementBounds ao).2 < v) :
    c.hw src (incrementObj ao) v =
      (c.asked src).recordAbort src Abort.range (incrementObj ao).index (incrementObj ao).sub 0 := by
  obtain ⟨found, bytes, clocked, refusal, -⟩ := incrementObj_plain ao
  have judged : (incrementObj ao).checkWrite ((c.asked src).mayLock src) 5 v = .error Abort.range := by
    rw [incrementObj_checkWrite ao _ small, if_neg]
    rw [incrementObj_inRange ao small]; omega
  have written := hostWrite_refused (lane := sourceLane src) (busy := 0) serves found (clocked _) judged
  rw [refusal] at written
  rw [Conc.hw, bytes]
  exact written

/-- R151: the accepted value is pending; the increments in use and the counter stay, and the tick of the write is kept. -/
theorem incrementWritten_keeps (c : Conc) (src : Nat) (ao : Bool) (v : Nat) :
    (incrementWritten c src ao v).get (incrementObj ao) = v ∧
      { (incrementWritten c src ao v).time with wroteAt := (c.asked src).time.wroteAt, before := (c.asked src).time.before } =
        (c.asked src).time ∧
      (incrementWritten c src ao v).time.wroteAt = some (c.asked src).tick ∧
      (incrementWritten c src ao v).get O.incrementInUse = (c.asked src).get O.incrementInUse := by
  have apart : O.incrementInUse.key ≠ (incrementObj ao).key := by cases ao <;> decide
  have time : (incrementWritten c src ao v).time = ((c.asked src).writeIncrement (incrementObj ao) v).time := by
    rw [incrementWritten, noteChange_eq]
  rw [time, incrementWritten, noteChange_get, noteChange_get, Conc.writeIncrement, conc_get_put, conc_get_put_other _ v apart,
    conc_put_time]
  refine ⟨rfl, ?_⟩
  split
  · next wrote => exact ⟨rfl, wrote, rfl⟩
  · exact ⟨rfl, rfl, rfl⟩

/-- A write within the bounds, by a source that is served. -/
theorem exec_incrementWrite_accepted {s : State} {src v : Nat} {ao : Bool} (hs : src ≤ 2) (serves : s.conc.serves src)
    (small : v < 2 ^ 40) (fits : (incrementBounds ao).1 ≤ v ∧ v ≤ (incrementBounds ao).2) :
    exec (.incrementWrite src ao v) s = .next { s with conc := incrementWritten s.conc src ao v } := by
  rw [exec_incrementWrite ao v hs serves.1, hw_increment_accepted serves small fits]

/-- A write beyond the bounds. -/
theorem exec_incrementWrite_refused {s : State} {src v : Nat} {ao : Bool} (hs : src ≤ 2) (serves : s.conc.serves src)
    (small : v < 2 ^ 40) (beyond : v < (incrementBounds ao).1 ∨ (incrementBounds ao).2 < v) :
    exec (.incrementWrite src ao v) s = .next { s with
      conc := (s.conc.asked src).recordAbort src Abort.range (incrementObj ao).index (incrementObj ao).sub 0 } := by
  rw [exec_incrementWrite ao v hs serves.1, hw_increment_refused serves small beyond]

/-- Settles O31: the bounds alone judge a write; an accepted one sets the pending value and the tick of the write. -/
theorem incrementsAreCheckedAndPending : Obligations.IncrementsAreCheckedAndPending := by
  intro s src v hs serves
  refine ⟨fun fits => ?_, fun beyond small => ?_, fun fits => ?_, fun beyond small => ?_⟩
  · obtain ⟨pending, counter, wrote, inUse⟩ := incrementWritten_keeps s.conc src false v
    exact ⟨_, exec_incrementWrite_accepted hs serves (by omega) fits, rfl, pending, counter, wrote, inUse⟩
  · exact exec_incrementWrite_refused (ao := false) hs serves small beyond
  · obtain ⟨pending, counter, wrote, -⟩ := incrementWritten_keeps s.conc src true v
    exact ⟨_, exec_incrementWrite_accepted hs serves (by omega) fits, rfl, pending, counter, wrote⟩
  · exact exec_incrementWrite_refused (ao := true) hs serves small beyond

end Sys2Proof.Proofs
end

section
/-! What a power-on reset leaves (R11, R148, R463). -/

namespace Sys2Proof.Proofs

open Sys2Proof.Machine Sys2Proof.Laws

/-- R463: after a power-on reset the dictionary of the concentrator is one of defaults in which the reset cause was set. -/
theorem conc_get_reset (o : Obj) (i : Nat) : State.reset.conc.get o i = (({} : Conc).put O.resetCause 1).get o i := by
  rw [Conc.get, Conc.get]; rfl

theorem fe_get_reset (o : Obj) (i : Nat) : State.reset.fe.get o i = (({} : Fe).put O.feResetCause 1).get o i := by
  rw [Fe.get, Fe.get]; rfl

/-- Settles O6: of the objects, the reset sets the two causes only, and each of the others is unlisted (R11). -/
theorem resetLeavesEveryObjectAtItsDefault : Obligations.ResetLeavesEveryObjectAtItsDefault := by
  refine ⟨rfl, rfl, rfl, rfl, rfl, ?_, ?_, fun o i apart => ?_, fun o i apart => ?_⟩
  · rw [conc_get_reset, conc_get_put]
  · rw [fe_get_reset, fe_get_put]
  · rw [conc_get_reset, conc_get_put_other _ _ apart]; rfl
  · rw [fe_get_reset, fe_get_put_other _ _ apart]; rfl

end Sys2Proof.Proofs
end

section
/-! Triggers are numbered in the order of their admission (R205, R206). -/

namespace Sys2Proof.Proofs

open Sys2Proof.Machine Sys2Proof.Laws

/-! ## What the operations of an admission make of the trigger counter -/

@[simp] theorem conc_count_caro (c : Conc) (o : Obj) (i n : Nat) : (c.count o i n).caro = c.caro := rfl

@[simp] theorem conc_countIf_caro (c : Conc) (o : Obj) (p : Prop) [Decidable p] : (if p then c.count o else c).caro = c.caro := by
  split <;> rfl

@[simp] theorem newEntry_nextTrigger (c : Conc) (e : QEntry) : (c.newEntry e).caro.nextTrigger = c.caro.nextTrigger := rfl

@[simp] theorem setEntry_nextTrigger (c : Conc) (e : QEntry) : (c.setEntry e).caro.nextTrigger = c.caro.nextTrigger := rfl

@[simp] theorem widen_nextTrigger (c : Conc) (e : QEntry) (a b n tier : Nat) (pre : Bool) :
    (c.widen e a b n tier pre).caro.nextTrigger = c.caro.nextTrigger := rfl

@[simp] theorem admitted_number (c : Conc) (tier : Nat) : (c.admitted tier).1 = c.caro.nextTrigger := rfl

@[simp] theorem admitted_nextTrigger (c : Conc) (tier : Nat) :
    (c.admitted tier).2.caro.nextTrigger = (c.caro.nextTrigger + 1) % 2 ^ 32 := rfl

/-! ## The outcomes of an admission -/

/-- R205: the outcome `r` of a trigger offered to `c`: rejected (3), it leaves the Carousel; otherwise it takes the next number. -/
def NumberedFrom (c : Conc) (r : Nat × Nat × Conc) : Prop :=
  (r.1 = 3 → r.2.2.caro = c.caro) ∧
  (r.1 ≠ 3 → r.2.1 = c.caro.nextTrigger ∧ r.2.2.caro.nextTrigger = (c.caro.nextTrigger + 1) % 2 ^ 32)

theorem numberedFrom_rejected (c : Conc) (tier : Nat) : NumberedFrom c (3, 0, c.count O.rejected tier) :=
  ⟨fun _ => rfl, fun admitted => absurd rfl admitted⟩

/-- An admission, alone (0) or by merging (1), after which the counter stands as `Conc.admitted` left it. -/
theorem numberedFrom_admitted {c d : Conc} {tier outcome : Nat} (admits : outcome ≠ 3)
    (keeps : d.caro.nextTrigger = (c.admitted tier).2.caro.nextTrigger) : NumberedFrom c (outcome, (c.admitted tier).1, d) :=
  ⟨fun rejects => absurd rejects admits, fun _ => ⟨admitted_number c tier, keeps.trans (admitted_nextTrigger c tier)⟩⟩

/-- R204: a trigger that needs an entry of its own gets it or is rejected. -/
theorem numberedFrom_alone (c : Conc) (tier : Nat) (e : QEntry) :
    NumberedFrom c (if c.entryAllowed tier then (0, (c.admitted tier).1, (c.admitted tier).2.newEntry e)
      else (3, 0, c.count O.rejected tier)) := by
  split
  · exact numberedFrom_admitted (by decide) (newEntry_nextTrigger _ e)
  · exact numberedFrom_rejected c tier

/-- The rows of the table of R206: no entry open to the trigger; the two fit in one, which has room for a number or not; they do
not fit, and the rest of the window needs an entry that is refused or allowed, or none. -/
theorem admitTrigger_numberedFrom (c : Conc) (tier a b : Nat) (pre : Bool) : NumberedFrom c (c.admitTrigger tier a b pre) := by
  unfold Conc.admitTrigger
  dsimp only
  split
  case h_1 _noneOpen => exact numberedFrom_alone ..
  case h_2 e _isOpen =>
    split
    next _fits =>
      split
      next _room => exact numberedFrom_admitted (by decide) (by simp)
      next _full => exact numberedFrom_alone ..
    next _tooLong =>
      split
      next _refused => exact numberedFrom_rejected c tier
      next _taken =>
        split
        next _needsEntry => exact numberedFrom_admitted (by decide) (by simp)
        next _covered => exact numberedFrom_admitted (by decide) (by simp)

/-! ## The start -/

/-- R205: a start of a stopped Carousel. -/
theorem carouselStart_of_stopped {c : Conc} (stopped : c.caro.running = false) :
    c.carouselStart.caro.running = true ∧ c.carouselStart.caro.nextTrigger = 0 := by
  rw [Conc.carouselStart, if_neg (by simp [stopped])]
  exact ⟨rfl, rfl⟩

/-- Settles O47: each outcome of an admission is a rejection or follows `Conc.admitted`; a start sets the counter to 0. -/
theorem triggersAreNumberedInOrder : Obligations.TriggersAreNumberedInOrder :=
  ⟨admitTrigger_numberedFrom, fun _ => carouselStart_of_stopped⟩

end Sys2Proof.Proofs
end

section
/-! The registers of a context: x0 is hard-wired to zero, and every other register holds 64 bits (R216; log entry 3). -/

namespace Sys2Proof.Proofs

open Sys2Proof.Machine Sys2Proof.Laws

@[simp] theorem ctx_reg_zero (x : Ctx) : x.reg 0 = 0 := rfl

@[simp] theorem ctx_setReg_zero (x : Ctx) (v : Nat) : x.setReg 0 v = x := rfl

theorem ctx_reg_of_ne_zero (x : Ctx) {r : Nat} (nonzero : r ≠ 0) : x.reg r = Bank.get 0 x.regs r := if_neg nonzero

theorem ctx_regs_setReg (x : Ctx) {r : Nat} (v : Nat) (nonzero : r ≠ 0) :
    (x.setReg r v).regs = Bank.set 0 x.regs r (v % 2 ^ 64) := by
  rw [Ctx.setReg, if_neg nonzero]

theorem ctx_reg_setReg_same (x : Ctx) {r : Nat} (v : Nat) (nonzero : r ≠ 0) : (x.setReg r v).reg r = v % 2 ^ 64 := by
  rw [ctx_reg_of_ne_zero _ nonzero, ctx_regs_setReg x v nonzero, get_set_same]

/-- A write of x0 is no exception: it leaves every register as it is. -/
theorem ctx_reg_setReg_other (x : Ctx) {r j : Nat} (v : Nat) (apart : j ≠ r) : (x.setReg r v).reg j = x.reg j := by
  by_cases toZero : r = 0
  · rw [toZero, ctx_setReg_zero]
  by_cases ofZero : j = 0
  · rw [ofZero, ctx_reg_zero, ctx_reg_zero]
  · rw [ctx_reg_of_ne_zero _ ofZero, ctx_reg_of_ne_zero _ ofZero, ctx_regs_setReg x v toZero, get_set_other _ _ apart]

/-- Settles O50: a write of x0 is discarded; any other is a write of the register bank, cut to 64 bits. -/
theorem engineRegisterZeroReadsZero : Obligations.EngineRegisterZeroReadsZero := fun x _ v =>
  ⟨ctx_reg_zero x, congrArg Ctx.regs (ctx_setReg_zero x v), fun nonzero =>
    ⟨ctx_reg_setReg_same x v nonzero, fun _ => ctx_reg_setReg_other x v⟩⟩

end Sys2Proof.Proofs
end

section
/-! A write of a mover channel's tail: refused when it would post more descriptors than the ring holds, otherwise the new tail
(R253). -/

namespace Sys2Proof.Proofs

open Sys2Proof.Machine Sys2Proof.Laws

/-! ## The channels and the counters -/

@[simp] theorem conc_mover_setMover (c : Conc) (ch : Nat) (m : Mover) : (c.setMover ch m).mover ch = m := get_set_same ..

theorem conc_mover_setMover_other (c : Conc) {ch j : Nat} (m : Mover) (apart : j ≠ ch) : (c.setMover ch m).mover j = c.mover j :=
  get_set_other _ _ apart

@[simp] theorem conc_mover_count (c : Conc) (o : Obj) (i n ch : Nat) : (c.count o i n).mover ch = c.mover ch := rfl

@[simp] theorem conc_get_setMover (c : Conc) (ch : Nat) (m : Mover) (o : Obj) (i : Nat) : (c.setMover ch m).get o i = c.get o i := rfl

theorem conc_get_count (c : Conc) (o : Obj) (i n : Nat) : (c.count o i n).get o i = satAdd (8 * o.bytes) (c.get o i) n :=
  conc_get_put ..

/-! ## The two outcomes of a tail write -/

/-- R253: the channel's ring could not hold the descriptors that a tail of `v` posts. -/
def TailOverfills (m : Mover) (v : Nat) : Prop := m.entries < { m with tail := v }.posted

theorem moverTail_refused {c : Conc} {ch v : Nat} (small : v < 2 ^ 16) (overfills : TailOverfills (c.mover ch) v) :
    c.moverTail ch v = (c.setMover ch { c.mover ch with tailRefused := true }).count O.tailRefused := by
  rw [Conc.moverTail, Nat.mod_eq_of_lt (b := 65536) small]
  exact if_pos overfills

/-- An accepted write sets the tail, and with it may start the channel or let it rest. -/
theorem moverTail_accepted {c : Conc} {ch v : Nat} (small : v < 2 ^ 16) (fits : ¬ TailOverfills (c.mover ch) v) :
    ∃ st, c.moverTail ch v = c.setMover ch { c.mover ch with tail := v, state := st } := by
  rw [Conc.moverTail, Nat.mod_eq_of_lt (b := 65536) small]
  exact ⟨_, if_neg fits⟩

theorem moverTail_mover_other {c : Conc} {ch v j : Nat} (small : v < 2 ^ 16) (apart : j ≠ ch) :
    (c.moverTail ch v).mover j = c.mover j := by
  by_cases overfills : TailOverfills (c.mover ch) v
  · rw [moverTail_refused small overfills, conc_mover_count, conc_mover_setMover_other c _ apart]
  · obtain ⟨st, accepted⟩ := moverTail_accepted small overfills
    rw [accepted, conc_mover_setMover_other c _ apart]

theorem moverTail_of_overfills {c : Conc} {ch v : Nat} (small : v < 2 ^ 16) (overfills : TailOverfills (c.mover ch) v) :
    (c.moverTail ch v).mover ch = { c.mover ch with tailRefused := true } ∧
      (c.moverTail ch v).get O.tailRefused = satAdd 32 (c.get O.tailRefused) 1 := by
  rw [moverTail_refused small overfills, conc_mover_count, conc_mover_setMover, conc_get_count, conc_get_setMover]
  exact ⟨rfl, rfl⟩

/-- An accepted write leaves at most a ring of descriptors posted, and the objects as they are. -/
theorem moverTail_of_fits {c : Conc} {ch v : Nat} (small : v < 2 ^ 16) (fits : ¬ TailOverfills (c.mover ch) v) :
    ((c.moverTail ch v).mover ch).tail = v ∧ ((c.moverTail ch v).mover ch).head = (c.mover ch).head ∧
      ((c.moverTail ch v).mover ch).posted ≤ ((c.moverTail ch v).mover ch).entries ∧ (c.moverTail ch v).od = c.od := by
  obtain ⟨st, accepted⟩ := moverTail_accepted small fits
  rw [accepted, conc_mover_setMover, conc_setMover_od]
  exact ⟨rfl, rfl, Nat.le_of_not_lt fits, rfl⟩

/-! ## The command -/

theorem exec_moverTailWrite {s : State} {ch v : Nat} (channel : ch < 32) (small : v < 2 ^ 16) (up : s.conc.baseUp = true) :
    exec (.moverTailWrite ch v) s = .next { s with conc := s.conc.moverTail ch v } :=
  (run_wf (i := .moverTailWrite ch v) s _ (Bool.and_eq_true_iff.2 ⟨decide_eq_true channel, decide_eq_true small⟩)).trans (congrArg _ (onBase_baseUp _ up))

/-- Settles O43: the command is `Conc.moverTail`, whose two outcomes part at a full ring. -/
theorem tailWriteNeverOverfillsTheRing : Obligations.TailWriteNeverOverfillsTheRing := fun _ _ _ channel small up =>
  ⟨_, exec_moverTailWrite channel small up, rfl, rfl, fun _ => moverTail_mover_other small, moverTail_of_overfills small,
    fun fits => moverTail_of_fits small (Nat.not_lt_of_le fits)⟩

end Sys2Proof.Proofs
end

section
/-! Class-0 words leave in the order in which they reached the egress queue (R292). -/

namespace Sys2Proof.Proofs

open Sys2Proof.Machine Sys2Proof.Laws

/-! ## A word reaches the queue -/

/-- R292: the words for the back end in the order in which they leave, those whose source waits behind those in the queue. -/
def egressLine (e : Egress) : List (Nat × Word) := e.c0 ++ e.held

@[simp] theorem conc_count_egr (c : Conc) (o : Obj) (i n : Nat) : (c.count o i n).egr = c.egr := rfl

theorem emitAt_of_room {c : Conc} (room : c.egr.c0.length < 512) (noneWaits : c.egr.held = []) (start : Nat) (w : Word) :
    ∃ p, c.emitAt start w = { c with egr := { c.egr with c0 := c.egr.c0 ++ [(start, w)], peak := p } } :=
  ⟨_, if_pos ⟨room, noneWaits⟩⟩

theorem emitAt_of_full {c : Conc} (full : c.egr.c0.length = 512) (start : Nat) (w : Word) :
    c.emitAt start w = ({ c with egr := { c.egr with held := c.egr.held ++ [(start, w)] } } : Conc).count O.class0QueueFull :=
  if_neg fun roomy => absurd full (Nat.ne_of_lt roomy.1)

/-- Either the word finds room at the end of the queue, and no word waits before it, or the queue is full. -/
theorem emitAt_joins_line {c : Conc} (bound : c.egr.c0.length ≤ 512) (waits : c.egr.held ≠ [] → c.egr.c0.length = 512)
    (start : Nat) (w : Word) :
    egressLine (c.emitAt start w).egr = egressLine c.egr ++ [(start, w)] ∧ (c.emitAt start w).egr.c0.length ≤ 512 ∧
      (c.emitAt start w).get O.class0QueueFull =
        (if c.egr.c0.length < 512 then c.get O.class0QueueFull else satAdd 32 (c.get O.class0QueueFull) 1) := by
  rcases Nat.lt_or_eq_of_le bound with room | full
  · have noneWaits : c.egr.held = [] := Decidable.not_not.1 fun held => Nat.ne_of_lt room (waits held)
    obtain ⟨p, joined⟩ := emitAt_of_room room noneWaits start w
    rw [joined, if_pos room]
    exact ⟨by simp [egressLine, noneWaits], by simpa using room, rfl⟩
  · rw [emitAt_of_full full, conc_count_egr, conc_get_count, if_neg (Nat.not_lt.2 full.ge)]
    exact ⟨(List.append_assoc ..).symm, bound, rfl⟩

/-! ## The words that wait move up -/

theorem refill_keeps_line (e : Egress) : egressLine e.refill = egressLine e := by
  simp only [egressLine, Egress.refill, List.append_assoc, List.take_append_drop]

theorem refill_length_le {e : Egress} (bound : e.c0.length ≤ 512) : e.refill.c0.length ≤ 512 := by
  simp only [Egress.refill, List.length_append, List.length_take]
  omega

/-! ## The cell joins the queues of its lanes -/

@[simp] theorem conc_lane_updLane (c : Conc) (i : Nat) (g : Lane → Lane) : (c.updLane i g).lane i = g (c.lane i) := get_set_same ..

@[simp] theorem queueBuilt_egr (c : Conc) (lanes : List Nat) (ws : List Word) : (c.queueBuilt lanes ws).egr = c.egr := by
  induction lanes generalizing c with
  | nil => rfl
  | cons l lanes ih => exact ih _

/-- The last lane to take the cell queues nothing behind it. -/
theorem queueBuilt_queues_cell (c : Conc) {lanes : List Nat} (carried : lanes ≠ []) (ws : List Word) :
    ∃ l ∈ lanes, ((c.queueBuilt lanes ws).lane l).tx.q0.getLast? = some ws := by
  obtain ⟨before, l, rfl⟩ := (List.eq_nil_or_concat' lanes).resolve_left carried
  refine ⟨l, List.mem_append_right _ (List.mem_singleton_self l), ?_⟩
  rw [Conc.queueBuilt, List.foldl_concat, conc_lane_updLane]
  exact List.getLast?_concat

/-! ## The command -/

theorem buildClass0_idle {c : Conc} (idle : c.egr.c0 = [] ∨ c.class0Lanes = [] ∨ c.mute = true) : c.buildClass0 = c := if_pos idle

/-- The cell takes the first 63 words of the queue behind its header, and the words that wait move up. -/
theorem buildClass0_ready {c : Conc} (words : c.egr.c0 ≠ []) (carried : c.class0Lanes ≠ []) (speaks : c.mute = false) :
    ∃ h starts links, c.buildClass0 =
      ({ c with egr := Egress.refill { c.egr with c0 := c.egr.c0.drop 63, starts := starts }, links := links } : Conc).queueBuilt
        c.class0Lanes (h :: (c.egr.c0.take 63).map Prod.snd) :=
  ⟨_, _, _, if_neg (by simp [words, carried, speaks])⟩

theorem buildClass0_sends_head {c : Conc} (words : c.egr.c0 ≠ []) (carried : c.class0Lanes ≠ []) (speaks : c.mute = false)
    (bound : c.egr.c0.length ≤ 512) :
    c.buildClass0.egr.c0.length ≤ 512 ∧ c.egr.c0.take 63 ++ egressLine c.buildClass0.egr = egressLine c.egr ∧
      ∃ l ∈ c.class0Lanes, ∃ h, (c.buildClass0.lane l).tx.q0.getLast? = some (h :: (c.egr.c0.take 63).map Prod.snd) := by
  obtain ⟨h, starts, links, built⟩ := buildClass0_ready words carried speaks
  have shorter : (c.egr.c0.drop 63).length ≤ 512 := (List.drop_sublist ..).length_le.trans bound
  have line : c.egr.c0.take 63 ++ (c.egr.c0.drop 63 ++ c.egr.held) = c.egr.c0 ++ c.egr.held := by
    rw [← List.append_assoc, List.take_append_drop]
  rw [built, queueBuilt_egr, refill_keeps_line]
  obtain ⟨l, carries, queued⟩ := queueBuilt_queues_cell _ carried _
  exact ⟨refill_length_le shorter, line, l, carries, h, queued⟩

theorem exec_class0CellBuild {s : State} (up : s.conc.baseUp = true) :
    exec .class0CellBuild s = .next { s with conc := s.conc.buildClass0 } :=
  (run_wf (i := .class0CellBuild) s _ rfl).trans (congrArg _ (onBase_baseUp _ up))

/-- Settles O39: a word joins the end of the line, and a cell is the head of the queue. -/
theorem classZeroQueueKeepsTheOrder : Obligations.ClassZeroQueueKeepsTheOrder := by
  refine ⟨fun _ start w bound waits => emitAt_joins_line bound waits start w, fun s up => ?_⟩
  rw [exec_class0CellBuild up]
  exact ⟨fun idle => by rw [buildClass0_idle idle],
    fun words carried speaks bound => ⟨_, rfl, rfl, rfl, buildClass0_sends_head words carried speaks bound⟩⟩

end Sys2Proof.Proofs
end

section
/-! What a command does, in one description: it has operands that a part has and changes its part alone, from what that part
holds; otherwise it stops (log entries 8 and 10). -/

namespace Sys2Proof.Proofs

open Sys2Proof.Machine Sys2Proof.Laws

/-! ## Effects of one part -/

/-- An effect of one part: it makes the new part from the old one alone, and leaves the other part and the queue. -/
def ActsOn : Part → (State → State) → Prop
  | .fe, g => ∃ F : Fe → Fe, ∀ s, g s = { s with fe := F s.fe }
  | .conc, g => ∃ C : Conc → Conc, ∀ s, g s = { s with conc := C s.conc }

/-- A change of the front-end, made under a condition of the front-end. -/
theorem actsOn_fe_if (b : Fe → Bool) (g : Fe → Fe) : ActsOn .fe fun s => if b s.fe then s.onFeRaw g else s :=
  ⟨fun f => if b f then g f else f, fun s => by by_cases h : b s.fe = true <;> simp [h, onFeRaw_eq]⟩

/-- A change of the concentrator, made under a condition of the concentrator. -/
theorem actsOn_conc_if (b : Conc → Bool) (g : Conc → Conc) : ActsOn .conc fun s => if b s.conc then s.onConcRaw g else s :=
  ⟨fun c => if b c then g c else c, fun s => by by_cases h : b s.conc = true <;> simp [h, onConcRaw_eq]⟩

theorem actsOn_onFeRaw (g : Fe → Fe) : ActsOn .fe fun s => s.onFeRaw g := ⟨g, fun _ => rfl⟩
theorem actsOn_onFe (g : Fe → Fe) : ActsOn .fe fun s => s.onFe g := actsOn_fe_if Fe.up g
theorem actsOn_onConcRaw (g : Conc → Conc) : ActsOn .conc fun s => s.onConcRaw g := ⟨g, fun _ => rfl⟩
theorem actsOn_onConcUp (g : Conc → Conc) : ActsOn .conc fun s => s.onConcUp g := actsOn_conc_if Conc.up g
theorem actsOn_onHardware (g : Conc → Conc) : ActsOn .conc fun s => s.onHardware g := actsOn_conc_if Conc.runs g
theorem actsOn_onConc (g : Conc → Conc) : ActsOn .conc fun s => s.onConc g := actsOn_conc_if Conc.ringUp g
theorem actsOn_onBase (g : Conc → Conc) : ActsOn .conc fun s => s.onBase g := actsOn_conc_if Conc.baseUp g
theorem actsOn_onAnalog (g : Conc → Conc) : ActsOn .conc fun s => s.onAnalog g := actsOn_conc_if Conc.analogUp g
theorem actsOn_onSafety (g : Conc → Conc) : ActsOn .conc fun s => s.onSafety g := actsOn_conc_if Conc.safetyUp g

theorem actsOn_at (p : Part) (g : Conc → Conc) (h : Fe → Fe) : ActsOn p fun s => s.at p g h := by
  cases p
  case fe => exact actsOn_onFe h
  case conc => exact actsOn_onHardware g

theorem actsOn_atUp (p : Part) (g : Conc → Conc) (h : Fe → Fe) : ActsOn p fun s => s.atUp p g h := by
  cases p
  case fe => exact actsOn_onFe h
  case conc => exact actsOn_onConcUp g

theorem actsOn_atRaw (p : Part) (g : Conc → Conc) (h : Fe → Fe) : ActsOn p fun s => s.atRaw p g h := by
  cases p
  case fe => exact actsOn_onFeRaw h
  case conc => exact actsOn_onConcRaw g

theorem actsOn_atLane (l : LaneRef) (g : Conc → Nat → Conc) (d u : Fe → Nat → Fe) :
    ActsOn l.part fun s => s.atLane l g d u := by
  cases l
  case conc => exact actsOn_onHardware _
  case feDown => exact actsOn_onFe _
  case feUp => exact actsOn_onFe _

theorem actsOn_mgmt (p : Path) (r : Req) : ActsOn p.part fun s => s.mgmt p r := by
  cases p
  case feDown => exact actsOn_onFe _
  case backEnd => exact actsOn_onConc _
  case peer => exact actsOn_onConc _

/-- Every command, where its operands are ones that a part has, has an effect on its part; otherwise it stops. -/
theorem exec_runs (i : Instr) : ∃ g, ActsOn i.target g ∧ ∀ s, exec i s = s.run i g := by
  cases i <;> exact ⟨_, by simp only [Instr.target, actsOn_onFeRaw, actsOn_onFe, actsOn_onConcUp, actsOn_onHardware, actsOn_onConc,
    actsOn_onBase, actsOn_onAnalog, actsOn_onSafety, actsOn_at, actsOn_atUp, actsOn_atRaw, actsOn_atLane, actsOn_mgmt], fun _ => rfl⟩

/-! ## What follows for every command -/

theorem ActsOn.keeps_pending {p : Part} {g : State → State} (acts : ActsOn p g) (s : State) : (g s).pending = s.pending := by
  cases p <;> (obtain ⟨x, made⟩ := acts; rw [made])

/-- The part of a state that a frame speaks of. -/
def SamePart (p : Part) (s u : State) : Prop :=
  (p = .fe → s.fe = u.fe) ∧ (p = .conc → s.conc = u.conc)

/-- An effect of a part leaves the other part. -/
theorem ActsOn.keeps_other {p q : Part} {g : State → State} (acts : ActsOn p g) (other : p ≠ q) (s : State) :
    SamePart q (g s) s := by
  cases p <;> obtain ⟨x, made⟩ := acts <;> rw [made] <;> refine ⟨?_, ?_⟩ <;> rintro rfl
  case fe.refine_1 => exact absurd rfl other
  case fe.refine_2 => rfl
  case conc.refine_1 => rfl
  case conc.refine_2 => exact absurd rfl other

/-- An effect of a part makes the same of it in any two states that agree on that part. -/
theorem ActsOn.same {p q : Part} {g : State → State} (acts : ActsOn p g) {s u : State} (agree : SamePart q s u) (own : p = q) :
    SamePart q (g s) (g u) := by
  subst own
  obtain ⟨fe, conc⟩ := agree
  cases p <;> obtain ⟨x, made⟩ := acts <;> rw [made, made]
  case fe => exact ⟨fun _ => congrArg x (fe rfl), nofun⟩
  case conc => exact ⟨nofun, fun _ => congrArg x (conc rfl)⟩

/-- Settles O3: every command checks its operands before it has any effect. -/
theorem illFormedCommandStops : Obligations.IllFormedCommandStops := by
  intro i s bad
  obtain ⟨g, -, runs⟩ := exec_runs i
  rw [runs, run_ill s g bad]

/-- Settles O4: a well-formed command has its effect, which leaves the queue. -/
theorem wellFormedCommandsComplete : Obligations.WellFormedCommandsComplete := by
  intro i s wf
  obtain ⟨g, acts, runs⟩ := exec_runs i
  exact ⟨g s, by rw [runs, run_wf s g wf], acts.keeps_pending s⟩

/-- Settles O7: a command that answers a next state has had its effect, which is one of its part. -/
theorem commandsActOnTheirPartOnly : Obligations.CommandsActOnTheirPartOnly := by
  intro i s t done
  obtain ⟨g, acts, runs⟩ := exec_runs i
  obtain ⟨-, rfl⟩ := run_next_iff.1 ((runs s).symm.trans done)
  refine ⟨fun onFe => ?_, fun onConc => ?_, acts.keeps_pending s⟩
  · exact (acts.keeps_other (q := .conc) (by rw [onFe]; nofun) s).2 rfl
  · exact (acts.keeps_other (q := .fe) (by rw [onConc]; nofun) s).1 rfl

end Sys2Proof.Proofs
end

section
/-! Steps and runs of the block: the queue is taken from its front, and an empty queue lets a base tick pass (log entry 2). -/

namespace Sys2Proof.Proofs

open Sys2Proof.Machine Sys2Proof.Laws

/-! ## One step -/

/-- Settles O1: the step takes the command at the front. -/
theorem stepRunsTheFrontCommand : Obligations.StepRunsTheFrontCommand :=
  step_cons

/-- Of a row of numbers in their order, what is left once those up to a bound are dropped lies above it. -/
theorem lt_of_mem_dropWhile_le {l : List (Nat × Nat)} {n : Nat} (ordered : l.Pairwise fun a b => a.1 ≤ b.1) :
    ∀ m ∈ l.dropWhile fun m => decide (m.1 ≤ n), n < m.1 := by
  induction ordered with
  | nil => simp
  | @cons a l least _ ih =>
    by_cases due : a.1 ≤ n
    · rwa [List.dropWhile_cons_of_pos (by simpa using due)]
    · rw [List.dropWhile_cons_of_neg (by simpa using due)]
      intro m hm
      rcases List.mem_cons.1 hm with rfl | later
      · omega
      · have := least m later; omega

/-- Settles O2: the idle step is the tick, whose marks are those behind the ones due at the front of their row. -/
theorem idleStepIsOneTick : Obligations.IdleStepIsOneTick := by
  intro s idle
  obtain ⟨tick, now⟩ := tickOn_counters s.fe
  refine ⟨step_idle s idle, idle, tick, fun runs => ?_, fun stopped => ?_⟩
  · rw [if_pos runs] at now
    refine ⟨now, fun ordered => ?_⟩
    rw [state_tick_fe, tickOn_marks s.fe runs, now]
    exact lt_of_mem_dropWhile_le ordered
  · rw [state_tick_fe, Fe.tickOn, stopped]
    rfl

/-- R2: a step of a safe state takes the command at the front, or lets a tick pass, and answers a next state. -/
theorem step_safe {s : State} (safe : s.safe = true) : ∃ t, step s = .next t ∧ t.pending = s.pending.drop 1 := by
  cases queue : s.pending with
  | nil => exact ⟨s.tick, step_idle s queue, by rw [state_tick_pending, queue]; rfl⟩
  | cons i rest =>
    have wf : i.wf = true := List.all_eq_true.1 safe i (by rw [queue]; exact List.mem_cons_self)
    obtain ⟨t, done, left⟩ := wellFormedCommandsComplete i { s with pending := rest } wf
    exact ⟨t, by rw [step, queue]; exact done, left⟩

/-! ## Runs -/

theorem run_succ {s t : State} (n : Nat) (next : step s = .next t) :
    Host.Core.run Sys2Proof.core (n + 1) s = Host.Core.run Sys2Proof.core n t := by
  have taken : Sys2Proof.core.step s = .next t := next
  simp only [Host.Core.run, taken]

/-- Dropping commands from the front of a safe queue leaves a safe one. -/
theorem safe_of_pending_drop {s t : State} (safe : s.safe = true) {n : Nat} (left : t.pending = s.pending.drop n) :
    t.safe = true := by
  rw [State.safe, left]
  exact List.all_eq_true.2 fun i hi => List.all_eq_true.1 safe i (List.mem_of_mem_drop hi)

/-- Settles O5, by induction on the number of steps: each takes the front of the queue. -/
theorem safeRunsNeverStop : Obligations.SafeRunsNeverStop := by
  intro n
  induction n with
  | zero => exact fun s safe => ⟨s, rfl, safe, rfl⟩
  | succ n ih =>
    intro s safe
    obtain ⟨t, next, left⟩ := step_safe safe
    obtain ⟨u, run, safe', left'⟩ := ih t (safe_of_pending_drop safe left)
    exact ⟨u, (run_succ n next).trans run, safe', by rw [left', left, List.drop_drop, Nat.add_comm]⟩

/-- A well-formed command that acts on another part leaves this part. -/
theorem step_other {i : Instr} {p : Part} (wf : i.wf = true) (other : i.target ≠ p) (s : State) :
    ∃ t, exec i s = .next t ∧ SamePart p t s ∧ t.pending = s.pending := by
  obtain ⟨g, acts, runs⟩ := exec_runs i
  exact ⟨g s, by rw [runs, run_wf s g wf], acts.keeps_other other s, acts.keeps_pending s⟩

/-- A well-formed command that acts on this part makes the same of it in two states that agree on it. -/
theorem step_own {i : Instr} {p : Part} (wf : i.wf = true) (own : i.target = p) {s u : State} (agree : SamePart p s u) :
    ∃ t v, exec i s = .next t ∧ exec i u = .next v ∧ SamePart p t v ∧ t.pending = s.pending ∧ v.pending = u.pending := by
  obtain ⟨g, acts, runs⟩ := exec_runs i
  exact ⟨g s, g u, by rw [runs, run_wf s g wf], by rw [runs, run_wf u g wf], acts.same agree own, acts.keeps_pending s,
    acts.keeps_pending u⟩

/-- Two states that agree on a part, one with a queue and one with the commands of that queue that act on the part, still agree
on it once both queues have run. -/
theorem runs_agree (p : Part) (q : List Instr) (wf : ∀ i ∈ q, i.wf = true) :
    ∀ s u : State, SamePart p s u → s.pending = q → u.pending = q.filter (fun i => decide (i.target = p)) →
      ∃ t v, Host.Core.run Sys2Proof.core q.length s = .next t ∧
        Host.Core.run Sys2Proof.core (q.filter fun i => decide (i.target = p)).length u = .next v ∧ SamePart p t v := by
  induction q with
  | nil => exact fun s u agree _ _ => ⟨s, u, rfl, rfl, agree⟩
  | cons i q ih =>
    intro s u agree queue queue'
    have wfi := wf i List.mem_cons_self
    have ih := ih fun j hj => wf j (List.mem_cons_of_mem _ hj)
    have next : step s = exec i { s with pending := q } := by rw [step, queue]
    by_cases own : i.target = p
    · rw [List.filter_cons_of_pos (by simpa using own)] at queue' ⊢
      have next' : step u = exec i { u with pending := q.filter fun i => decide (i.target = p) } := by rw [step, queue']
      obtain ⟨t, v, done, done', agree', left, left'⟩ := step_own wfi own (s := { s with pending := q })
        (u := { u with pending := q.filter fun i => decide (i.target = p) }) agree
      rw [List.length_cons, List.length_cons, run_succ _ (next.trans done), run_succ _ (next'.trans done')]
      exact ih t v agree' left left'
    · rw [List.filter_cons_of_neg (by simpa using own)] at queue' ⊢
      obtain ⟨t, done, same, left⟩ := step_other wfi own { s with pending := q }
      rw [List.length_cons, run_succ _ (next.trans done)]
      exact ih t u ⟨fun h => (same.1 h).trans (agree.1 h), fun h => (same.2 h).trans (agree.2 h)⟩ left queue'

/-- Settles O8: the whole queue and its commands of one part, run from states that agree on that part, end agreeing on it. -/
theorem partsRunIndependently : Obligations.PartsRunIndependently := by
  intro s p safe
  obtain ⟨t, v, run, run', agree, agree'⟩ := runs_agree p s.pending (List.all_eq_true.1 safe) s
    { s with pending := s.pending.filter fun i => decide (i.target = p) } ⟨fun _ => rfl, fun _ => rfl⟩ rfl rfl
  exact ⟨t, v, run, run', agree, agree'⟩

end Sys2Proof.Proofs
end

section
/-! How a command completes: with operands that a part has, in the condition in which its part takes it, it answers the state of
its own effect; a write or a read of an object does so where it passes the checks of every access (R300, R303, R318, R340). -/

namespace Sys2Proof.Proofs

open Sys2Proof.Machine Sys2Proof.Laws

section Command

variable {i : Instr} {s t : State} {g : Fe → Fe} {k : Conc → Conc}

/-! ## Conditions of the parts -/

theorem exec_onFe (runs : exec i s = s.run i fun s => s.onFe g) (up : s.fe.up = true)
    (wf : i.wf = true := by simp [-Nat.reducePow, Instr.wf, LaneRef.receives, LaneRef.sends, LaneRef.onFe, Path.ok, *])
    (done : { s with fe := g s.fe } = t := by rfl) : exec i s = .next t := by
  rw [runs, run_wf s _ wf, onFe_up g up, done]

theorem exec_onConcUp (runs : exec i s = s.run i fun s => s.onConcUp k) (up : s.conc.up = true)
    (wf : i.wf = true := by simp [-Nat.reducePow, Instr.wf, LaneRef.receives, LaneRef.sends, LaneRef.onFe, Path.ok, *])
    (done : { s with conc := k s.conc } = t := by rfl) : exec i s = .next t := by
  rw [runs, run_wf s _ wf, onConcUp_up k up, done]

theorem exec_onHardware (runs : exec i s = s.run i fun s => s.onHardware k) (up : s.conc.runs = true)
    (wf : i.wf = true := by simp [-Nat.reducePow, Instr.wf, LaneRef.receives, LaneRef.sends, LaneRef.onFe, Path.ok, *])
    (done : { s with conc := k s.conc } = t := by rfl) : exec i s = .next t := by
  rw [runs, run_wf s _ wf, onHardware_runs k up, done]

theorem exec_onConc (runs : exec i s = s.run i fun s => s.onConc k) (up : s.conc.ringUp = true)
    (wf : i.wf = true := by simp [-Nat.reducePow, Instr.wf, LaneRef.receives, LaneRef.sends, LaneRef.onFe, Path.ok, *])
    (done : { s with conc := k s.conc } = t := by rfl) : exec i s = .next t := by
  rw [runs, run_wf s _ wf, onConc_up k up, done]

theorem exec_onBase (runs : exec i s = s.run i fun s => s.onBase k) (up : s.conc.baseUp = true)
    (wf : i.wf = true := by simp [-Nat.reducePow, Instr.wf, LaneRef.receives, LaneRef.sends, LaneRef.onFe, Path.ok, *])
    (done : { s with conc := k s.conc } = t := by rfl) : exec i s = .next t := by
  rw [runs, run_wf s _ wf, onBase_baseUp k up, done]

theorem exec_onAnalog (runs : exec i s = s.run i fun s => s.onAnalog k) (up : s.conc.analogUp = true)
    (wf : i.wf = true := by simp [-Nat.reducePow, Instr.wf, LaneRef.receives, LaneRef.sends, LaneRef.onFe, Path.ok, *])
    (done : { s with conc := k s.conc } = t := by rfl) : exec i s = .next t := by
  rw [runs, run_wf s _ wf, onAnalog_up k up, done]

theorem exec_onSafety (runs : exec i s = s.run i fun s => s.onSafety k) (up : s.conc.safetyUp = true)
    (wf : i.wf = true := by simp [-Nat.reducePow, Instr.wf, LaneRef.receives, LaneRef.sends, LaneRef.onFe, Path.ok, *])
    (done : { s with conc := k s.conc } = t := by rfl) : exec i s = .next t := by
  rw [runs, run_wf s _ wf, onSafety_up k up, done]

/-! ## Writes and reads of the front-end's objects (R318, R340) -/

/-- A write on the leased downlink that passes, of an object that accepts it. -/
theorem feHostWrite_accepted {f d : Fe} {side busy len v n : Nat} {o : Obj} {r : Res Fe} (passes : f.admits side o len v)
    (accepted : r = .ok d) (effect : f.applyObj side busy o n (o.taken len v) = r)
    (found : lookupObj feObjs o.index (o.sub + n) = .ok (o, n)) : f.hostWrite side busy o.index (o.sub + n) len v = d := by
  rw [feHostWrite_admits found passes, effect, accepted]

theorem exec_feWrite {side busy len v : Nat} (n : Nat) {o : Obj} {r : Res Fe} {d : Fe} (passes : s.fe.admits side o len v)
    (accepted : r = .ok d) (runs : exec i s = s.run i fun s => s.onFe fun f => f.hostWrite side busy o.index (o.sub + n) len v)
    (effect : s.fe.applyObj side busy o n (o.taken len v) = r := by rfl)
    (found : lookupObj feObjs o.index (o.sub + n) = .ok (o, n) := by rfl)
    (wf : i.wf = true := by simp [-Nat.reducePow, Instr.wf, *]) : exec i s = .next { s with fe := d } :=
  exec_onFe runs (fe_up_of_admits passes) wf (by rw [feHostWrite_accepted passes accepted effect found])

theorem exec_feAccepts {side busy len v : Nat} (n : Nat) {o : Obj} {r : Res Fe} (passes : s.fe.admits side o len v)
    (accepts : ∃ d, r = .ok d)
    (runs : exec i s = s.run i fun s => s.onFe fun f => f.hostWrite side busy o.index (o.sub + n) len v)
    (effect : s.fe.applyObj side busy o n (o.taken len v) = r := by rfl)
    (found : lookupObj feObjs o.index (o.sub + n) = .ok (o, n) := by rfl)
    (wf : i.wf = true := by simp [-Nat.reducePow, Instr.wf, *]) : ∃ d, r = .ok d ∧ exec i s = .next { s with fe := d } := by
  obtain ⟨d, accepted⟩ := accepts
  exact ⟨d, accepted, exec_feWrite n passes accepted runs effect found wf⟩

/-- A read on the leased downlink, of an object in no block that a gate stops. -/
theorem exec_feRead {side : Nat} (n : Nat) {o : Obj} (runs : s.fe.runs = true) (leased : s.fe.holder = side + 1)
    (command : exec i s = s.run i fun s => s.onFe fun f => f.hostRead side o.index (o.sub + n))
    (found : lookupObj feObjs o.index (o.sub + n) = .ok (o, n)) (readable : o.readable = .ok ()) (free : feBlockOf o.index = none)
    {x : Nat} (value : s.fe.readVal o n = .ok x)
    (wf : i.wf = true := by simp [-Nat.reducePow, Instr.wf, *]) (done : { s with fe := s.fe.readEffect o n } = t := by rfl) :
    exec i s = .next t := by
  obtain ⟨up, base⟩ := Bool.and_eq_true_iff.1 runs
  refine exec_onFe command up wf ?_
  simp only [Fe.hostRead, base, leased, Fe.readObj, found, readable, free, value, Except.map, if_true, Bool.true_eq_false,
    if_false, done]

/-! ## Writes and reads of the concentrator's objects (R303, R340) -/

/-- The objects whose write has a transfer of its own. -/
def ownTransfer (o : Obj) : Bool :=
  (o.index == 0x2604 && o.sub == 1) || o.index == 0x3003 || (o.index == 0x3007 && o.sub == 2) || o.index == 0x2F02
    || (o.index == 0x2F20 && o.sub == 1)

/-- A write that passes, of an object that accepts it. -/
theorem hostWrite_accepted {c d : Conc} {src lane busy len v n : Nat} {o : Obj} {r : Res Conc} (passes : c.admits src o len v n)
    (accepted : r = .ok d) (effect : (c.asked src).applyObj src busy o n len (o.taken len v) = r)
    (found : lookupObj concObjs o.index (o.sub + n) = .ok (o, n)) (plain : ownTransfer o = false) :
    c.hostWrite src lane busy o.index (o.sub + n) len v = d.noteChange o := by
  refine hostWrite_ok found ⟨rfl, rfl⟩ passes (applyWrite_plain ?_ (effect.trans accepted))
  simpa [ownTransfer, and_assoc] using plain

theorem up_of_admits {c : Conc} {src len v n : Nat} {o : Obj} (passes : c.admits src o len v n) : c.up = true := by
  obtain ⟨⟨up, -⟩, -⟩ := passes
  exact up

/-- A write of an object that the partner keeps a copy of is noted for it (R385). -/
theorem exec_concWrite {src lane busy len v : Nat} (n : Nat) {o : Obj} {r : Res Conc} {d : Conc}
    (passes : s.conc.admits src o len v n) (accepted : r = .ok d)
    (runs : exec i s = s.run i fun s => s.onConcUp fun c => c.hostWrite src lane busy o.index (o.sub + n) len v)
    (effect : (s.conc.asked src).applyObj src busy o n len (o.taken len v) = r := by rfl)
    (found : lookupObj concObjs o.index (o.sub + n) = .ok (o, n) := by rfl) (plain : ownTransfer o = false := by rfl)
    (wf : i.wf = true := by simp [-Nat.reducePow, Instr.wf, *]) : exec i s = .next { s with conc := d.noteChange o } :=
  exec_onConcUp runs (up_of_admits passes) wf (by rw [hostWrite_accepted passes accepted effect found plain])

theorem noteChange_volatile {o : Obj} (volatile : o.persist = false) (c : Conc) : c.noteChange o = c := by
  rw [Conc.noteChange, if_neg (by rw [volatile]; exact Bool.noConfusion)]

/-- A write of any other object. -/
theorem exec_concWrite_volatile {src lane busy len v : Nat} (n : Nat) {o : Obj} {r : Res Conc} {d : Conc}
    (passes : s.conc.admits src o len v n) (accepted : r = .ok d)
    (runs : exec i s = s.run i fun s => s.onConcUp fun c => c.hostWrite src lane busy o.index (o.sub + n) len v)
    (effect : (s.conc.asked src).applyObj src busy o n len (o.taken len v) = r := by rfl)
    (found : lookupObj concObjs o.index (o.sub + n) = .ok (o, n) := by rfl) (plain : ownTransfer o = false := by rfl)
    (volatile : o.persist = false := by rfl)
    (wf : i.wf = true := by simp [-Nat.reducePow, Instr.wf, *]) : exec i s = .next { s with conc := d } :=
  (exec_concWrite n passes accepted runs effect found plain wf).trans (by rw [noteChange_volatile volatile])

/-- A write that the object accepts, of the concentrator as the access finds it. -/
theorem exec_concAccepts {src lane busy len v : Nat} (n : Nat) {o : Obj} {r : Res Conc} {c : Conc}
    (passes : s.conc.admits src o len v n) (asked : s.conc.asked src = c) (accepts : ∃ d, r = .ok d)
    (runs : exec i s = s.run i fun s => s.onConcUp fun c => c.hostWrite src lane busy o.index (o.sub + n) len v)
    (effect : c.applyObj src busy o n len (o.taken len v) = r := by rfl)
    (found : lookupObj concObjs o.index (o.sub + n) = .ok (o, n) := by rfl) (plain : ownTransfer o = false := by rfl)
    (volatile : o.persist = false := by rfl)
    (wf : i.wf = true := by simp [-Nat.reducePow, Instr.wf, *]) : ∃ d, r = .ok d ∧ exec i s = .next { s with conc := d } := by
  subst asked
  obtain ⟨d, accepted⟩ := accepts
  exact ⟨d, accepted, exec_concWrite_volatile n passes accepted runs effect found plain volatile wf⟩

/-- The same of an object that the partner keeps a copy of. -/
theorem exec_concAccepts_noted {src lane busy len v : Nat} (n : Nat) {o : Obj} {r : Res Conc} {c : Conc}
    (passes : s.conc.admits src o len v n) (asked : s.conc.asked src = c) (accepts : ∃ d, r = .ok d)
    (runs : exec i s = s.run i fun s => s.onConcUp fun c => c.hostWrite src lane busy o.index (o.sub + n) len v)
    (effect : c.applyObj src busy o n len (o.taken len v) = r := by rfl)
    (found : lookupObj concObjs o.index (o.sub + n) = .ok (o, n) := by rfl) (plain : ownTransfer o = false := by rfl)
    (wf : i.wf = true := by simp [-Nat.reducePow, Instr.wf, *]) :
    ∃ d, r = .ok d ∧ exec i s = .next { s with conc := d.noteChange o } := by
  subst asked
  obtain ⟨d, accepted⟩ := accepts
  exact ⟨d, accepted, exec_concWrite n passes accepted runs effect found plain wf⟩

/-- A write that passes, of an object whose write is a transfer of its own. -/
theorem exec_concTransfer {src lane busy len v n : Nat} {o : Obj} {d : Conc} (passes : s.conc.admits src o len v n)
    (accepted : (s.conc.asked src).applyWrite src lane busy o n len (o.taken len v) = (.ok d, d))
    (runs : exec i s = s.run i fun s => s.onConcUp fun c => c.hostWrite src lane busy o.index (o.sub + n) len v)
    (found : lookupObj concObjs o.index (o.sub + n) = .ok (o, n) := by rfl)
    (wf : i.wf = true := by simp [-Nat.reducePow, Instr.wf, *]) : exec i s = .next { s with conc := d } :=
  exec_onConcUp runs (up_of_admits passes) wf (by rw [hostWrite_ok found ⟨rfl, rfl⟩ passes accepted])

/-- A read that passes, of an object that may be read. -/
theorem exec_concRead {src : Nat} {o : Obj} (shows : s.conc.shows src o)
    (runs : exec i s = s.run i fun s => s.onConcUp fun c => c.hr src o)
    (done : { s with conc := (s.conc.asked src).readEffect o } = t := by rfl)
    (found : lookupObj concObjs o.index o.sub = .ok (o, 0) := by rfl) (readable : o.readable = .ok () := by rfl)
    (wf : i.wf = true := by simp [-Nat.reducePow, Instr.wf, *]) : exec i s = .next t := by
  have read := hostRead_shows found readable shows
  obtain ⟨⟨up, -⟩, -⟩ := shows
  exact exec_onConcUp runs up wf (by rw [read, done])

end Command

/-! ## The inputs and the hit path -/

theorem channelTableWrite_wf {side index sub len v : Nat} (hs : side < 2) (small : index < 2 ^ 16 ∧ sub < 2 ^ 8) :
    (Instr.channelTableWrite side index sub len v).wf = true := by
  simpa [Instr.wf, hs] using small

theorem writeChannelMode_ok (f : Fe) {v : Nat} (known : ∀ c, c < 256 → entryGet 8 v c % 4 ≠ 3) :
    ∃ d, f.writeChannelMode v = .ok d := by
  refine ⟨_, if_neg ?_⟩
  simpa using known

theorem lookup_sorterStatus {g : Nat} (hg : g < 16) :
    lookupObj feObjs O.sorterStatus.index (O.sorterStatus.sub + g) = .ok (O.sorterStatus, g) := by
  have found : ∀ i < 16, lookupObj feObjs O.sorterStatus.index (O.sorterStatus.sub + i) = .ok (O.sorterStatus, i) := by decide
  exact found g hg

/-- Settles O51: each command runs on the front-end; the writes are of objects that accept them. -/
theorem inputCommandsComplete : Obligations.InputCommandsComplete := by
  intro s
  refine ⟨fun _ _ _ _ _ _ _ _ up => exec_onFe rfl up, fun _ _ _ _ _ _ up => exec_onFe rfl up,
    fun _ _ _ _ _ _ up => exec_onFe rfl up, fun _ _ up => exec_onFe rfl up, fun _ _ _ up => exec_onFe rfl up,
    fun _ _ hs passes => exec_feWrite 0 passes rfl rfl (wf := channelTableWrite_wf hs (by decide)),
    fun _ _ hs passes => exec_feWrite 0 passes rfl rfl (wf := channelTableWrite_wf hs (by decide)),
    fun _ _ hs passes => exec_feWrite 0 passes rfl rfl (wf := channelTableWrite_wf hs (by decide)),
    fun _ _ hs passes known => exec_feAccepts 0 passes (writeChannelMode_ok s.fe known) rfl
      (wf := channelTableWrite_wf hs (by decide)),
    fun _ _ hs passes => exec_feWrite 0 passes rfl rfl (wf := channelTableWrite_wf hs (by decide)),
    fun _ _ up => exec_onFe rfl up, fun side g v _ hg _ passes named free => ?_,
    fun _ _ up => exec_onFe rfl up, fun _ _ runs leased => exec_feRead 0 runs leased rfl rfl rfl rfl rfl, exec_onFe rfl,
    fun _ _ _ up => exec_onFe rfl up, fun _ _ _ up => exec_onFe rfl up, exec_onFe rfl, fun _ _ up => exec_onFe rfl up,
    exec_onFe rfl, fun _ g _ hg runs leased => exec_feRead g runs leased rfl (lookup_sorterStatus hg) rfl rfl rfl⟩
  obtain ⟨x, accepted⟩ := fe_writeSpareAssign_ok named free
  exact exec_feAccepts g passes ⟨_, accepted⟩ rfl (found := lookup_spareAssign hg)

/-! ## The timing of the front-end -/

theorem timeCorrectionWrite_wf {side index sub len v : Nat} (hs : side < 2) (small : index < 2 ^ 16 ∧ sub < 2 ^ 8) :
    (Instr.timeCorrectionWrite side index sub len v).wf = true := by
  simpa [Instr.wf, hs] using small

theorem loadTable_ok {f : Fe} {v : Nat} (live : f.live (f.get O.culletTableSelect) = true) (ordered : monotone v = true) :
    ∃ d, f.loadTable v = .ok d :=
  ⟨_, by rw [Fe.loadTable, if_neg (by rw [live]; exact Bool.noConfusion), if_neg (by rw [ordered]; exact Bool.noConfusion)]⟩

/-- R61: a request that wakes groups only, or puts groups to sleep only, names no group for both. -/
theorem writeGroupRequest_ok (f : Fe) {v : Nat} (one : v % 2 ^ 16 = 0 ∨ v / 2 ^ 16 = 0) :
    ∃ d, f.writeGroupRequest v = .ok d := by
  refine ⟨_, if_neg (not_not.2 ?_)⟩
  rcases one with h | h <;> rw [h]
  · exact Nat.zero_and _
  · exact Nat.and_zero _

theorem groupRequest_taken {v : Nat} (small : v < 2 ^ 32) : O.groupRequest.taken O.groupRequest.bytes v = v :=
  Nat.mod_eq_of_lt small

theorem lookup_groupPowerMode {g : Nat} (hg : g < 16) :
    lookupObj feObjs O.groupPowerMode.index (O.groupPowerMode.sub + g) = .ok (O.groupPowerMode, g) := by
  have found : ∀ i < 16, lookupObj feObjs O.groupPowerMode.index (O.groupPowerMode.sub + i) = .ok (O.groupPowerMode, i) := by
    decide
  exact found g hg

/-- Settles O52: each command runs on the front-end; a fast command is obeyed from the holder's downlink. -/
theorem timingCommandsComplete : Obligations.TimingCommandsComplete := by
  intro s
  refine ⟨fun _ _ _ _ _ _ _ up => exec_onFe rfl up, exec_onFe rfl, exec_onFe rfl, fun _ _ _ _ up => exec_onFe rfl up,
    fun _ _ _ _ up => exec_onFe rfl up, fun _ _ _ _ _ _ up => exec_onFe rfl up,
    fun _ _ _ _ passes live ordered => exec_feAccepts 0 passes (loadTable_ok live ordered) rfl,
    fun _ _ _ _ passes => exec_feWrite 0 passes rfl rfl, fun _ _ _ _ passes => exec_feWrite 0 passes rfl rfl,
    fun _ _ hs passes => exec_feWrite 0 passes rfl rfl (wf := timeCorrectionWrite_wf hs (by decide)),
    fun _ _ hs passes => exec_feWrite 0 passes rfl rfl (wf := timeCorrectionWrite_wf hs (by decide)),
    fun _ _ hs passes => exec_feWrite 0 passes rfl rfl (wf := timeCorrectionWrite_wf hs (by decide)),
    fun _ mask _ small passes => ?_, fun _ mask _ small passes => ?_,
    fun _ _ _ _ up held => exec_onFe rfl up (done := by rw [Fe.fast, if_pos held]),
    fun _ _ _ _ up held => exec_onFe rfl up (done := by rw [Fe.fast, if_pos held]),
    fun _ g _ _ hg _ passes => exec_feWrite g passes rfl rfl (found := lookup_groupPowerMode hg),
    fun _ _ up => exec_onFe rfl up, fun _ _ up => exec_onFe rfl up, fun _ _ up => exec_onFe rfl up,
    fun _ _ up => exec_onFe rfl up, fun _ _ up => exec_onFe rfl up, fun _ _ up => exec_onFe rfl up⟩
  · exact exec_feAccepts 0 passes (writeGroupRequest_ok s.fe (.inr (by rw [groupRequest_taken (by omega)]; omega))) rfl
  · obtain ⟨d, accepted⟩ := writeGroupRequest_ok s.fe (v := O.groupRequest.taken O.groupRequest.bytes (mask * 2 ^ 16))
      (.inl (by rw [groupRequest_taken (by omega)]; omega))
    have written : s.fe.hw _ O.groupRequest (mask * 2 ^ 16) 0 = d := feHostWrite_accepted passes accepted rfl rfl
    exact ⟨d, accepted, exec_onFe rfl (fe_up_of_admits passes) (done := by rw [written])⟩

/-! ## The lanes -/

theorem writeLaneControl_ok (c : Conc) {v : Nat} (blind : ∀ i, i < 144 → bitAt (entryGet 8 v i) 4 = false) :
    ∃ d, c.writeLaneControl v = .ok d := by
  refine ⟨_, if_neg ?_⟩
  simpa using blind

/-- A write of `LaneControl` that changes one lane's entry (R117). -/
theorem laneBits_accepted {c d : Conc} {src x : Nat} {g : Nat → Nat} {v : Nat} (value : entryUpd 8 (c.get O.laneControl) x g = v)
    (passes : c.admits src O.laneControl O.laneControl.bytes v)
    (accepted : (c.asked src).writeLaneControl (O.laneControl.taken O.laneControl.bytes v) = .ok d) :
    c.laneBits src x g = d.noteChange O.laneControl := by
  subst value
  exact hostWrite_accepted passes accepted rfl rfl rfl

theorem exec_laneBits {src x : Nat} {g : Nat → Nat} {i : Instr} {s : State}
    (passes : s.conc.admits src O.laneControl O.laneControl.bytes (entryUpd 8 (s.conc.get O.laneControl) x g))
    (blind : ∀ j, j < 144 → bitAt (entryGet 8 (O.laneControl.taken O.laneControl.bytes
      (entryUpd 8 (s.conc.get O.laneControl) x g)) j) 4 = false)
    (runs : exec i s = s.run i fun s => s.onConcUp fun c => c.laneBits src x g)
    (wf : i.wf = true := by simp [-Nat.reducePow, Instr.wf, *]) :
    ∃ d, (s.conc.asked src).writeLaneControl (O.laneControl.taken O.laneControl.bytes
      (entryUpd 8 (s.conc.get O.laneControl) x g)) = .ok d ∧
      exec i s = .next { s with conc := d.noteChange O.laneControl } := by
  obtain ⟨d, accepted⟩ := writeLaneControl_ok (s.conc.asked src) blind
  exact ⟨d, accepted, exec_onConcUp runs (up_of_admits passes) wf (by rw [laneBits_accepted rfl passes accepted])⟩

theorem writeDownPrbs_ok (f : Fe) {side v : Nat} (known : ∀ n, n < 2 → entryGet 4 v n ≤ 3) (own : entryGet 4 v side = 0) :
    ∃ d, f.writeDownPrbs side v = .ok d := by
  refine ⟨_, (if_neg ?_).trans (if_neg (not_not.2 own))⟩
  simpa using known

theorem writeUpPrbs_ok (f : Fe) {v : Nat} (known : ∀ n, n < 4 → entryGet 4 v n ≤ 3) : ∃ d, f.writeUpPrbs v = .ok d := by
  refine ⟨_, if_neg ?_⟩
  simpa using known

/-- A test mode of an uplink or a downlink, by a write of one lane's code (R103). -/
theorem exec_prbsWrite {i : Instr} {s : State} {side code v : Nat} {l : LaneRef} {o : Obj} {r : Res Fe} {d : Fe}
    (passes : s.fe.admits side o o.bytes v) (accepted : r = .ok d)
    (runs : exec i s = s.run i fun s => s.onFe fun f => f.prbsWrite side l code)
    (writes : s.fe.prbsWrite side l code = s.fe.hw side o v 0 := by rfl)
    (effect : s.fe.applyObj side 0 o 0 (o.taken o.bytes v) = r := by rfl)
    (found : lookupObj feObjs o.index (o.sub + 0) = .ok (o, 0) := by rfl)
    (wf : i.wf = true := by simp [-Nat.reducePow, Instr.wf, LaneRef.onFe, *]) : exec i s = .next { s with fe := d } := by
  have written : s.fe.hw side o v 0 = d := feHostWrite_accepted passes accepted effect found
  exact exec_onFe runs (fe_up_of_admits passes) wf (by rw [writes, written])

/-- Settles O53: each command runs on the part that holds the lane end; the writes are of objects that accept them. -/
theorem laneCommandsComplete : Obligations.LaneCommandsComplete := by
  intro s
  refine ⟨fun _ _ up => exec_onHardware rfl up, fun _ _ up => exec_onFe rfl up,
    fun _ _ up => exec_onHardware rfl up, fun _ _ up => exec_onFe rfl up,
    fun _ _ up => exec_onHardware rfl up, fun _ _ up => exec_onFe rfl up,
    fun _ _ up => exec_onHardware rfl up, fun _ _ up => exec_onFe rfl up,
    fun _ _ _ up => exec_onHardware rfl up, fun _ _ _ up => exec_onFe rfl up,
    fun _ _ up => exec_onHardware rfl up, fun _ _ up => exec_onHardware rfl up,
    fun _ _ _ up => exec_onHardware rfl up, fun _ _ up => exec_onHardware rfl up, fun _ _ up => exec_onHardware rfl up,
    fun _ _ up => exec_onHardware rfl up, fun _ _ _ _ _ passes asked blind => ?_, fun _ _ up => exec_onHardware rfl up,
    fun _ _ _ _ _ passes asked blind => ?_, fun _ _ up => exec_onHardware rfl up, fun _ _ up => exec_onFe rfl up,
    fun _ _ _ _ _ _ _ passes asked blind => ?_, fun _ _ _ _ _ _ passes known own => ?_, fun _ _ _ _ _ _ passes known => ?_,
    fun _ _ _ _ passes known own => ?_, fun _ _ _ _ passes known => ?_,
    fun _ _ up => exec_onFe rfl up, fun _ _ up => exec_onFe rfl up,
    fun _ _ up => exec_onHardware rfl up, fun _ _ up => exec_onFe rfl up,
    fun _ _ up => exec_onHardware rfl up, fun _ _ up => exec_onFe rfl up,
    fun _ _ up => exec_onHardware rfl up, fun _ _ up => exec_onFe rfl up,
    fun _ _ _ up => exec_onHardware rfl up, fun _ _ _ up => exec_onFe rfl up,
    fun _ _ _ _ _ passes asked blind => ?_, fun _ _ _ _ _ _ passes asked blind => ?_⟩
  · exact asked ▸ exec_laneBits passes blind rfl
  · exact asked ▸ exec_laneBits passes blind rfl
  · exact asked ▸ exec_laneBits passes blind rfl
  · obtain ⟨d, accepted⟩ := writeDownPrbs_ok s.fe known own
    exact ⟨d, accepted, exec_prbsWrite passes accepted rfl⟩
  · obtain ⟨d, accepted⟩ := writeUpPrbs_ok s.fe known
    exact ⟨d, accepted, exec_prbsWrite passes accepted rfl⟩
  · obtain ⟨d, accepted⟩ := writeDownPrbs_ok s.fe known own
    exact ⟨d, accepted, exec_prbsWrite passes accepted rfl⟩
  · obtain ⟨d, accepted⟩ := writeUpPrbs_ok s.fe known
    exact ⟨d, accepted, exec_prbsWrite passes accepted rfl⟩
  · exact asked ▸ exec_laneBits passes blind rfl
  · exact asked ▸ exec_laneBits passes blind rfl

/-! ## The link protocol -/

/-- A READ of index 0 from the peer. -/
def peerRead : Req := { tid := 0, op := 1, index := 0, sub := 0 }

/-- The firmware runs and the Ringmaster sleeps, and a READ from the peer stands in the inbox. -/
def asleepWithRead : State :=
  { conc := {
      boot := { inReset := false, supplyOk := true, overTemp := false, recovery := false, step := 11 }
      pwr := { ringStopped := true }
      links := { inbox := [{ lane := lanePeer 0, tick := 0, words := peerRead.words, mgmt := true }] } } }

theorem onConc_asleep {s : State} (g : Conc → Conc) (asleep : s.conc.ringUp = false) : s.onConc g = s := by
  rw [State.onConc, asleep, if_neg Bool.false_ne_true]

/-- Refutes O54: of a peer lane the statement asks only that the firmware runs. While the Ringmaster's clock does not run, the
command leaves the state as it is, and a request would take the message from the inbox. -/
theorem not_linkCommandsComplete : ¬ Obligations.LinkCommandsComplete := by
  intro complete
  obtain ⟨-, -, -, -, -, -, -, -, -, peer, -⟩ := complete asleepWithRead
  have requested := peer 0 1 0 0 0 false (by decide) (.inl rfl) (by decide) (by decide) (by decide) rfl
  have ignored : exec (.mgmtRead (.peer 0 1) 0 0 0 false) asleepWithRead = .next asleepWithRead :=
    (run_wf (i := .mgmtRead (.peer 0 1) 0 0 0 false) asleepWithRead _ rfl).trans
      (congrArg _ (onConc_asleep (fun c => c.request (lanePeer 0) 1 peerRead) rfl))
  have taken : (asleepWithRead.conc.request (lanePeer 0) 1 peerRead).links.inbox = [] := rfl
  have same := congrArg (fun t => t.conc.links.inbox) (Host.Outcome.next.inj (ignored.symm.trans requested))
  exact absurd (same.trans taken) (List.cons_ne_nil _ _)

end Sys2Proof.Proofs
end

section
/-! The commands of the time base and of the event path complete (chapters 07 to 09 and 13). -/

namespace Sys2Proof.Proofs

open Sys2Proof.Machine Sys2Proof.Laws

theorem alignArm_taken {v : Nat} (small : v < 2 ^ 8) : O.alignArm.taken O.alignArm.bytes v = v := Nat.mod_eq_of_lt small

theorem writeAlignArm_ok (c : Conc) {v : Nat} (known : v ≤ 1) : ∃ d, c.writeAlignArm v = .ok d :=
  ⟨_, if_neg (Nat.not_lt.2 known)⟩

/-- A write of `TiuRun` is not refused while the Ringmaster does not own the unit (R167). -/
theorem applyObj_tiuRun {c : Conc} (src busy len v : Nat) (unowned : c.get O.autoLatency ≠ 1) :
    c.applyObj src busy O.tiuRun 0 len v = c.writeTiuRun v := by
  have free : c.tiuWriteOk 5 = .ok () := (if_neg unowned).trans (if_neg (by simp))
  have judged : c.applyObj src busy O.tiuRun 0 len v =
      match c.tiuWriteOk 5 with | .error a => .error a | .ok _ => c.writeTiuRun v := rfl
  rw [judged, free]

theorem writeTiuRun_start {c : Conc} (port : c.get O.tiuMode ≠ 1 ∨ (c.lane (laneDown (c.get O.tiuPort))).st = .aligned) :
    ∃ d, c.writeTiuRun 1 = .ok d := by
  have aligned : ¬(c.get O.tiuMode = 1 ∧ (c.lane (laneDown (c.get O.tiuPort))).st ≠ .aligned) := by
    rintro ⟨echo, lost⟩
    exact port.elim (fun other => other echo) lost
  by_cases off : c.get O.tiuMode = 0
  · exact ⟨c, by simp [Conc.writeTiuRun, off]⟩
  · exact ⟨_, by simp only [Conc.writeTiuRun, off, aligned, if_false]; rfl⟩

/-- Settles O55: each command runs on the concentrator, a gated block's while its gate is open; the writes are of objects that
accept them. -/
theorem timeAndEventPathCommandsComplete : Obligations.TimeAndEventPathCommandsComplete := by
  intro s
  refine ⟨exec_onConcUp rfl, exec_onHardware rfl, fun _ _ up => exec_onHardware rfl up,
    fun _ _ _ _ small passes asked known =>
      exec_concAccepts 0 passes asked (writeAlignArm_ok _ ((alignArm_taken small).le.trans known)) rfl,
    fun _ _ _ passes => exec_concWrite 0 passes rfl rfl,
    fun _ _ _ passes => exec_concWrite 0 passes rfl rfl, exec_onConcUp rfl, exec_onConcUp rfl,
    fun _ _ up => exec_onBase rfl up,
    fun _ _ _ passes asked unowned port =>
      exec_concAccepts 0 passes asked (writeTiuRun_start port) rfl (effect := applyObj_tiuRun _ _ _ _ unowned),
    fun _ _ _ passes asked unowned =>
      exec_concAccepts 0 passes asked ⟨_, rfl⟩ rfl (effect := applyObj_tiuRun _ _ _ _ unowned),
    fun opened up => exec_onBase rfl up (done := by rw [ungated_open _ opened]),
    fun _ _ _ opened up => exec_onBase rfl up (done := by rw [ungated_open _ opened]),
    fun _ _ _ opened up => exec_onBase rfl up (done := by rw [ungated_open _ opened]),
    fun opened up => exec_onBase rfl up (done := by rw [ungated_open _ opened]),
    fun _ _ opened up => exec_onBase rfl up (done := by rw [ungated_open _ opened]),
    fun _ _ shows => exec_concRead shows rfl, fun _ _ shows => exec_concRead shows rfl,
    fun _ _ up => exec_onBase rfl up, exec_onBase rfl, fun _ _ up => exec_onBase rfl up, exec_onBase rfl, exec_onBase rfl,
    fun _ _ _ passes => exec_concWrite 0 passes rfl rfl, fun _ _ passes => exec_concWrite 0 passes rfl rfl,
    fun _ _ passes => exec_concWrite 0 passes rfl rfl,
    fun _ _ _ _ _ _ _ _ opened up => exec_onBase rfl up (done := by rw [ungated_open _ opened]),
    exec_onBase rfl, fun _ _ _ _ _ _ up => exec_onBase rfl up, exec_onBase rfl, exec_onBase rfl,
    fun _ _ up => exec_onBase rfl up, fun _ _ up => exec_onBase rfl up, exec_onBase rfl, exec_onBase rfl,
    fun _ _ shows => exec_concRead shows rfl, exec_onBase rfl, exec_onBase rfl, fun _ _ shows => exec_concRead shows rfl⟩

end Sys2Proof.Proofs
end

section
/-! The commands of the engines and of the movers complete (chapters 10 to 12). -/

namespace Sys2Proof.Proofs

open Sys2Proof.Machine Sys2Proof.Laws

/-! ## Instance commands (R226, R228, R236, R262) -/

/-- A command on every configured context skips those that refuse it. -/
theorem instanceCommand_every {c : Conc} (cmd : Nat) (every : c.get O.instanceSelect = 0xFFFF) :
    ∃ d, c.instanceCommand cmd = .ok d := by
  simp only [Conc.instanceCommand, every, if_true]
  exact ⟨_, rfl⟩

theorem instanceCommand_one {c : Conc} {cmd : Nat} (one : c.get O.instanceSelect < 384)
    (accepts : ∃ d, c.instanceOne cmd (c.get O.instanceSelect) = .ok d) : ∃ d, c.instanceCommand cmd = .ok d := by
  have named : ¬c.get O.instanceSelect = 0xFFFF := by omega
  simpa only [Conc.instanceCommand, named, one, if_false, if_true] using accepts

theorem instanceOne_suspend {c : Conc} {x : Nat} (runs : (c.ctx x).st = 2 ∨ (c.ctx x).st = 4) :
    ∃ d, c.instanceOne 2 x = .ok d :=
  ⟨_, if_pos runs⟩

theorem instanceOne_resume {c : Conc} {x : Nat} (stopped : (c.ctx x).st = 6 ∨ (c.ctx x).st = 7) :
    ∃ d, c.instanceOne 3 x = .ok d := by
  rcases stopped with suspended | faulted
  · by_cases waited : (c.ctx x).before = 4
    · exact ⟨_, (if_neg (by omega)).trans ((if_pos suspended).trans (if_pos waited))⟩
    · exact ⟨_, (if_neg (by omega)).trans ((if_pos suspended).trans (if_neg waited))⟩
  · exact ⟨_, if_pos faulted⟩

theorem instanceOne_kill {c : Conc} {x : Nat} (lives : (c.ctx x).st ≠ 0) (drains : (c.ctx x).st ≠ 8) :
    ∃ d, c.instanceOne 4 x = .ok d :=
  ⟨_, if_neg (not_or.2 ⟨lives, drains⟩)⟩

theorem instanceOne_restart {c : Conc} {x : Nat}
    (started : (c.ctx x).st = 2 ∨ (c.ctx x).st = 4 ∨ (c.ctx x).st = 6 ∨ (c.ctx x).st = 7) :
    ∃ d, c.instanceOne 5 x = .ok d :=
  ⟨_, if_pos started⟩

/-! ## Task images (R224) -/

/-- A slot number has no reserved bits. -/
theorem slot_taken {o : Obj} (plain : ∀ v, o.taken 1 v = v % 2 ^ 8) {k : Nat} (slot : k < 64) : o.taken 1 k = k := by
  rw [plain]; omega

theorem taskLoad_ok {c : Conc} {k : Nat} {env : Envelope} (opened : c.gated 9 = false) (owned : c.sec.owner = 1)
    (idle : c.lowestInstance k = none) (good : c.judgeEnvelope 2 false true (toBytes c.eng.staged.1 c.eng.staged.2) = .ok env)
    (header : (hdrOf env.payload).ok env.payload.length = true) : ∃ d, c.taskLoad k = (.ok d, d) := by
  simp only [Conc.taskLoad, opened, owned, idle, good, header, Bool.false_eq_true, Bool.true_eq_false, not_true_eq_false, ne_eq,
    if_false]
  exact ⟨_, rfl⟩

theorem taskUnload_ok {c : Conc} {k : Nat} (idle : c.lowestInstance k = none) : ∃ d, c.taskUnload k = .ok d := by
  simp only [Conc.taskUnload, idle]
  exact ⟨_, rfl⟩

/-- A load is a transfer of its own: the installed image goes to the partner (R386). -/
theorem applyWrite_taskLoad {c d : Conc} {src lane busy len k : Nat} (slot : k < 64) (loaded : c.taskLoad k = (.ok d, d)) :
    c.applyWrite src lane busy O.taskLoadSlot 0 len k = (.ok d.pushImage, d.pushImage) := by
  have named : ¬63 < k := by omega
  simp [Conc.applyWrite, O.taskLoadSlot, named, loaded, Conc.noteChange]

/-- Settles O56: each command runs on the base clock of the concentrator; the writes are of objects that accept them. -/
theorem engineAndMoverCommandsComplete : Obligations.EngineAndMoverCommandsComplete := by
  intro s
  refine ⟨fun _ _ up => exec_onBase rfl up, fun _ _ up => exec_onBase rfl up, fun _ _ up => exec_onBase rfl up,
    fun _ _ up => exec_onBase rfl up, fun _ _ up => exec_onBase rfl up, fun _ _ up => exec_onBase rfl up,
    fun _ _ up => exec_onBase rfl up, fun _ _ up => exec_onBase rfl up, fun _ _ up => exec_onBase rfl up,
    exec_onBase rfl, fun _ _ _ _ up => exec_onBase rfl up, fun _ _ _ up => exec_onBase rfl up,
    fun _ _ up => exec_onBase rfl up, fun _ _ up => exec_onBase rfl up, fun _ _ up => exec_onBase rfl up,
    fun _ _ up => exec_onBase rfl up,
    fun _ _ _ passes asked every => exec_concAccepts 0 passes asked (instanceCommand_every _ every) rfl,
    fun _ e _ _ passes asked one started => exec_concAccepts 0 passes asked (instanceCommand_one one ⟨e, started⟩) rfl,
    fun _ _ _ passes asked every => exec_concAccepts 0 passes asked (instanceCommand_every _ every) rfl,
    fun _ _ _ passes asked one runs => exec_concAccepts 0 passes asked (instanceCommand_one one (instanceOne_suspend runs)) rfl,
    fun _ _ _ passes asked every => exec_concAccepts 0 passes asked (instanceCommand_every _ every) rfl,
    fun _ _ _ passes asked one stopped =>
      exec_concAccepts 0 passes asked (instanceCommand_one one (instanceOne_resume stopped)) rfl,
    fun _ _ _ passes asked every => exec_concAccepts 0 passes asked (instanceCommand_every _ every) rfl,
    fun _ _ _ passes asked one lives drains =>
      exec_concAccepts 0 passes asked (instanceCommand_one one (instanceOne_kill lives drains)) rfl,
    fun _ _ up => exec_onBase rfl up,
    fun _ _ _ passes asked every => exec_concAccepts 0 passes asked (instanceCommand_every _ every) rfl,
    fun _ _ _ passes asked one started =>
      exec_concAccepts 0 passes asked (instanceCommand_one one (instanceOne_restart started)) rfl,
    fun _ _ up => exec_onBase rfl up,
    fun src k env _ _ slot passes asked opened owned idle good header => ?_,
    fun src k c _ slot passes asked idle => ?_,
    fun _ _ up => exec_onBase rfl up, fun _ _ up => exec_onBase rfl up, fun _ _ up => exec_onBase rfl up,
    fun _ _ _ _ up => exec_onBase rfl up, fun _ _ up => exec_onBase rfl up, fun _ _ up => exec_onBase rfl up,
    fun _ _ _ up => exec_onBase rfl up, fun _ _ _ up => exec_onBase rfl up, fun _ _ _ up => exec_onBase rfl up,
    fun _ _ _ up => exec_onBase rfl up, fun _ _ _ up => exec_onBase rfl up, fun _ _ _ up => exec_onBase rfl up,
    fun _ _ up => exec_onBase rfl up, fun _ _ up => exec_onBase rfl up,
    fun _ _ _ _ passes => exec_concWrite_volatile 0 passes rfl rfl, fun _ _ shows => exec_concRead shows rfl⟩
  · subst asked
    obtain ⟨d, loaded⟩ := taskLoad_ok opened owned idle good header
    have taken : O.taskLoadSlot.taken O.taskLoadSlot.bytes k = k := slot_taken (fun _ => rfl) slot
    have accepted := applyWrite_taskLoad (src := src) (lane := sourceLane src) (busy := 0) (len := 1) slot loaded
    exact ⟨d, loaded, exec_concTransfer passes (by rw [taken]; exact accepted) rfl (wf := by simp [Instr.wf, *]; omega)⟩
  · have taken : O.taskUnload.taken O.taskUnload.bytes k = k := slot_taken (fun _ => rfl) slot
    exact exec_concAccepts 0 passes asked (taskUnload_ok idle) rfl
      (effect := by rw [taken]; exact if_neg (by omega)) (wf := by simp [Instr.wf, *]; omega)

end Sys2Proof.Proofs
end

section
/-! The commands of fault accounting and of the pair complete (chapters 16 and 17). -/

namespace Sys2Proof.Proofs

open Sys2Proof.Machine Sys2Proof.Laws

theorem annealRun_ok {c : Conc} (standby : c.pwr.state = 3) : ∃ d, c.annealRun 1 = .ok d :=
  ⟨_, (if_neg (by decide)).trans (if_neg (not_not.2 standby))⟩

theorem feAnnealRun_ok {f : Fe} (standby : f.sys.mode = 2) : ∃ d, f.annealRun = .ok d :=
  ⟨_, if_pos standby⟩

theorem writeImage_ok {c : Conc} {len : Nat} (v : Nat) (opened : c.gated 11 = false)
    (fits : c.flash.images.foldl (fun n p => n + p.1) 0 + len ≤ 25165824) : ∃ d, c.writeImage len v = .ok d := by
  simp only [Conc.writeImage, opened, Nat.not_lt.2 fits, Bool.false_eq_true, if_false]
  exact ⟨_, rfl⟩

/-- Settles O58: each command runs on its part; the writes are of objects that accept them. -/
theorem faultAndPairCommandsComplete : Obligations.FaultAndPairCommandsComplete := by
  intro s
  refine ⟨exec_onHardware rfl, exec_onFe rfl, fun _ _ _ _ up => exec_onHardware rfl up, fun _ _ _ _ up => exec_onFe rfl up,
    fun _ _ _ _ _ up => exec_onHardware rfl up, fun _ _ _ _ _ up => exec_onFe rfl up,
    fun _ _ _ passes asked standby => exec_concAccepts 0 passes asked (annealRun_ok standby) rfl,
    fun _ up => exec_onConc rfl up, exec_onConc rfl,
    fun _ _ passes standby => exec_feAccepts 0 passes (feAnnealRun_ok standby) rfl,
    fun _ up => exec_onFe rfl up, fun _ _ _ _ _ _ up => exec_onConc rfl up, fun _ _ _ up => exec_onConc rfl up,
    fun _ _ up => exec_onConc rfl up, fun _ _ _ up => exec_onFe rfl up,
    fun _ _ _ _ passes => exec_concWrite_volatile 0 passes rfl rfl, fun _ _ _ passes => exec_feWrite 0 passes rfl rfl,
    exec_onFe rfl, fun _ _ up => exec_onConc rfl up, fun _ _ up => exec_onConc rfl up, exec_onConc rfl, exec_onConcUp rfl,
    exec_onConcUp rfl, exec_onConc rfl, fun _ _ _ _ _ up => exec_onConc rfl up, fun _ _ _ _ up => exec_onConc rfl up,
    exec_onConc rfl, fun _ _ _ _ up => exec_onConc rfl up, fun _ _ _ _ up => exec_onConc rfl up, exec_onConc rfl,
    exec_onConc rfl, exec_onConc rfl, fun _ _ up => exec_onConc rfl up,
    fun _ _ _ passes asked opened fits => exec_concAccepts 0 passes asked (writeImage_ok _ opened fits) rfl,
    fun _ _ _ passes asked active => exec_concAccepts 0 passes asked ⟨_, if_pos active⟩ rfl,
    fun _ _ _ passes asked standby => exec_concAccepts 0 passes asked ⟨_, if_pos standby⟩ rfl,
    fun _ _ _ passes asked standby => exec_concAccepts 0 passes asked ⟨_, if_pos standby⟩ rfl,
    exec_onConc rfl, fun _ up => exec_onConc rfl up⟩

end Sys2Proof.Proofs
end

section
/-! The commands of reset, debug and security complete (chapters 18 and 22 to 24). -/

namespace Sys2Proof.Proofs

open Sys2Proof.Machine Sys2Proof.Laws

/-- The supply, the pins and the TAP act in every state of their part. -/
theorem exec_always {i : Instr} {s t : State} {g : State → State} (runs : exec i s = s.run i g) (wf : i.wf = true := by rfl)
    (done : g s = t := by rfl) : exec i s = .next t := by
  rw [runs, run_wf s _ wf, done]

/-! ## Probes (R499) -/

theorem writeProbes_ok {c : Conc} {v : Nat} (opened : c.gated 7 = false)
    (known : ∀ p, p < 8 → c.probeBad (entryGet 32 (andBits v (rep 8 4 0x3FFFF)) p) = none)
    (free : ∀ p, p < 8 → bitAt (entryGet 32 (andBits v (rep 8 4 0x3FFFF)) p) 16 = true →
      c.probeOn p = true ∨ c.ballOwner p = none) : ∃ d, c.writeProbes v = .ok d := by
  have good : (List.range 8).findSome? (fun p => c.probeBad (entryGet 32 (andBits v (rep 8 4 0x3FFFF)) p)) = none :=
    List.findSome?_eq_none_iff.2 fun p hp => known p (List.mem_range.1 hp)
  have unowned : (List.range 8).findSome? (fun p =>
      if bitAt (entryGet 32 (andBits v (rep 8 4 0x3FFFF)) p) 16 && !c.probeOn p then c.ballOwner p else none) = none := by
    refine List.findSome?_eq_none_iff.2 fun p hp => ?_
    by_cases on : bitAt (entryGet 32 (andBits v (rep 8 4 0x3FFFF)) p) 16 = true
    · rcases free p (List.mem_range.1 hp) on with held | none
      · simp [held]
      · simp [none]
    · simp [on]
  exact ⟨_, by simp only [Conc.writeProbes, opened, good, unowned, Bool.false_eq_true, if_false]; rfl⟩

theorem lookup_probeSelect : lookupObj concObjs O.probeSelect.index O.probeSelect.sub = .ok (O.probeSelect, 0) := by decide

theorem writeProbe_ok {f : Fe} {v : Nat} (n : Nat) (opened : bitAt f.sys.gated 0 = false)
    (known : feProbeBad (v % 2 ^ 18) = false) : ∃ d, f.writeProbe n v = .ok d :=
  ⟨f.put O.feProbe (v % 2 ^ 18) n, by simp only [Fe.writeProbe, opened, known, Bool.false_eq_true, if_false]⟩

theorem lookup_feProbe {n : Nat} (hn : n < O.feProbe.count) :
    lookupObj feObjs O.feProbe.index (O.feProbe.sub + n) = .ok (O.feProbe, n) := by
  have found : ∀ i < O.feProbe.count, lookupObj feObjs O.feProbe.index (O.feProbe.sub + i) = .ok (O.feProbe, i) := by decide
  exact found n hn

/-! ## Owner keys, floors, firmware, attestation and tokens (R398 to R405) -/

theorem enrolOwner_ok {c : Conc} {hash : Nat} (cut : Bool) (unsealed : c.sec.owner ≠ 1) (nonzero : hash ≠ 0)
    (ones : hash ≠ 2 ^ 512 - 1) (half : c.sec.owner ≠ 2 ∨ hash = c.sec.ownerHash) :
    c.enrolOwner hash cut = .ok (c.withSec fun s => { s with ownerHash := hash, owner := if cut then 2 else 1 }) :=
  (if_neg unsealed).trans ((if_neg (not_or.2 ⟨nonzero, ones⟩)).trans (if_neg fun other => half.elim (· other.1) other.2))

theorem exec_ownerKeyEnrol {s : State} {src hash : Nat} {cut : Bool} {d : Conc} (named : src ≤ 2)
    (passes : s.conc.admits src O.ownerKeyHash O.ownerKeyHash.bytes hash)
    (enrolled : (s.conc.asked src).enrolOwner hash cut = .ok d) :
    exec (.ownerKeyEnrol src hash cut) s = .next { s with conc := d } := by
  have written : s.conc.hwWith src O.ownerKeyHash hash (.enrol hash cut) (fun c => c.enrolOwner hash cut) = d :=
    (hwWith_ok passes enrolled).trans (noteChange_volatile rfl d)
  exact exec_onConcUp rfl (up_of_admits passes) (done := by rw [written])

theorem commitFirmwareFloor_ok {c : Conc} (runs : c.sec.running ≠ 0xFF)
    (above : c.sec.fwFloor < (if c.sec.running = 0 then c.sec.slotA.version else c.sec.slotB.version))
    (within : (if c.sec.running = 0 then c.sec.slotA.version else c.sec.slotB.version) ≤ 40) :
    ∃ d, c.commitFirmwareFloor 1 = .ok d := by
  refine ⟨_, if_neg ?_⟩
  simp only [ne_eq, not_true_eq_false, false_or, not_or, not_le, not_lt]
  exact ⟨above, within, runs⟩

theorem commitOwnerFloor_ok {c : Conc} {n : Nat} (above : c.sec.ownerFloor < n) (within : n ≤ 24) :
    c.commitOwnerFloor n = .ok (c.withSec fun s => { s with ownerFloor := n }) :=
  if_neg (by omega)

theorem ownerFloor_taken {v : Nat} (small : v < 2 ^ 8) : O.ownerFloorCommit.taken O.ownerFloorCommit.bytes v = v :=
  Nat.mod_eq_of_lt small

theorem firmwareVerify_ok {c : Conc} {bs : List Nat} {env : Envelope} (hash : c.gated 9 = false) (flash : c.gated 11 = false)
    (good : c.firmwareSegment.judgeEnvelope 1 true false bs = .ok env) : ∃ d, c.firmwareVerify bs = (.ok d, d) := by
  simp only [Conc.firmwareVerify, hash, flash, good, Bool.false_eq_true, or_self, if_false]
  exact ⟨_, rfl⟩

theorem firmwareActivate_ok {c : Conc} (verified : c.sec.update = 3) (flash : c.gated 11 = false) :
    ∃ d, c.firmwareActivate 1 = .ok d := by
  simp only [Conc.firmwareActivate, verified, flash, ne_eq, not_true_eq_false, Bool.false_eq_true, if_false]
  exact ⟨_, rfl⟩

theorem attestRun_ok {c : Conc} (opened : c.gated 9 = false) : ∃ d, c.attestRun 1 = .ok d := by
  simp only [Conc.attestRun, opened, ne_eq, not_true_eq_false, Bool.false_eq_true, if_false]
  exact ⟨_, rfl⟩

theorem debugToken_ok {c : Conc} {bs : List Nat} {env : Envelope} (opened : c.gated 9 = false)
    (good : c.judgeEnvelope 4 true true bs = .ok env) (size : env.payload.length = 16)
    (answers : ofBytes (env.payload.take 8) = c.sec.challenge) (bound : env.binding = c.sec.serial) (ends : env.notAfter ≠ 0)
    (owner : env.byOwner = false ∨ bitAt ((env.payload[8]?).getD 0) 1 = false) : ∃ d, c.debugToken bs = (.ok d, d) := by
  have scope : ¬(env.byOwner = true ∧ bitAt ((env.payload[8]?).getD 0) 1 = true) := by
    rintro ⟨own, wide⟩
    rcases owner with h | h
    · rw [h] at own; exact Bool.noConfusion own
    · rw [h] at wide; exact Bool.noConfusion wide
  simp only [Conc.debugToken, opened, good, size, answers, bound, ends, scope, ne_eq, not_true_eq_false, Bool.false_eq_true,
    or_self, if_false]
  exact ⟨_, rfl⟩

/-- A firmware image is a transfer of its own. -/
theorem applyWrite_firmwareImage {c d : Conc} {src lane busy len v : Nat} (may : c.mayLock src = true)
    (verified : c.firmwareVerify (toBytes len v) = (.ok d, d)) :
    c.applyWrite src lane busy O.firmwareImageData 0 len v = (.ok d, d) := by
  simp [Conc.applyWrite, O.firmwareImageData, may, verified, Conc.noteChange]

/-- A token is a transfer of its own. -/
theorem applyWrite_debugToken {c d : Conc} {src lane busy len v : Nat} (taken : c.debugToken (toBytes len v) = (.ok d, d)) :
    c.applyWrite src lane busy O.debugToken 0 len v = (.ok d, d) := by
  simp [Conc.applyWrite, O.debugToken, taken, Conc.noteChange]

/-- Settles O59: the supply, the pins and the TAP act in every state, the other commands while their part is up; the writes are
of objects that accept them. -/
theorem resetDebugAndSecurityCommandsComplete : Obligations.ResetDebugAndSecurityCommandsComplete := by
  intro s
  refine ⟨exec_always rfl, exec_always rfl, exec_always rfl, exec_always rfl, fun _ => exec_always rfl, fun _ => exec_always rfl,
    exec_always rfl, exec_always rfl, exec_always rfl, exec_always rfl,
    fun _ _ _ _ passes => exec_concWrite_volatile 0 passes rfl rfl, fun _ _ _ _ passes => exec_feWrite 0 passes rfl rfl,
    exec_always rfl, exec_always rfl, exec_onConc rfl, exec_onHardware rfl, exec_onConcUp rfl,
    fun _ _ _ _ _ _ up => exec_onConcUp rfl up, exec_onConcUp rfl, exec_onConcUp rfl, fun _ => exec_always rfl,
    fun _ up => exec_onConcUp rfl up, fun _ up => exec_onFe rfl up, fun _ => exec_always rfl, fun _ => exec_always rfl,
    exec_always rfl, exec_always rfl, fun _ => exec_always rfl, fun _ => exec_always rfl, exec_always rfl, exec_always rfl,
    fun src _ _ _ _ _ _ passes asked opened known free => ?_,
    fun _ n _ _ hn _ passes opened known => exec_feAccepts n passes (writeProbe_ok n opened known) rfl (found := lookup_feProbe hn)
      (wf := ?_),
    fun _ => exec_always rfl, fun _ => exec_always rfl, fun _ up => exec_onConcUp rfl up,
    fun _ _ _ _ _ _ up => exec_onConcUp rfl up,
    fun _ _ cut _ named passes asked unsealed nonzero ones half => ?_,
    fun _ _ _ _ _ passes asked one runs above within => ?_,
    fun _ _ _ _ small passes asked above within => ?_,
    fun _ _ _ _ _ _ passes may asked hash flash good => ?_,
    fun _ _ _ _ _ passes asked one verified flash => ?_,
    fun _ _ _ _ _ passes asked one opened => ?_, exec_onConc rfl,
    fun _ _ _ _ _ passes asked opened good size answers bound ends owner => ?_,
    fun _ _ _ _ passes => exec_concWrite_volatile 0 passes rfl rfl⟩
  · subst asked
    obtain ⟨d, accepted⟩ := writeProbes_ok opened known free
    have effect : ∀ v, (s.conc.asked src).applyObj src 0 O.probeSelect 0 O.probeSelect.bytes v =
        (s.conc.asked src).writeProbes v := fun _ => rfl
    have written : s.conc.hw _ O.probeSelect _ = d :=
      hostWrite_accepted passes accepted (effect _) lookup_probeSelect rfl
    exact ⟨d, accepted, exec_onConcUp rfl (up_of_admits passes) (done := by rw [written])⟩
  · have few : O.feProbe.count ≤ 8 := by decide
    simp [-Nat.reducePow, Instr.wf, *]; omega
  · subst asked
    have enrolled := enrolOwner_ok cut unsealed nonzero ones half
    exact ⟨_, enrolled, exec_ownerKeyEnrol named passes enrolled⟩
  · subst one
    exact exec_concAccepts 0 passes asked (commitFirmwareFloor_ok runs above within) rfl
  · have taken := ownerFloor_taken small
    rw [taken]
    exact exec_concAccepts 0 passes asked ⟨_, commitOwnerFloor_ok above within⟩ rfl (effect := by rw [taken]; rfl)
  · subst asked
    obtain ⟨d, verified⟩ := firmwareVerify_ok hash flash good
    exact ⟨d, verified, exec_concTransfer passes (applyWrite_firmwareImage may verified) rfl⟩
  · subst one
    exact exec_concAccepts 0 passes asked (firmwareActivate_ok verified flash) rfl
  · subst one
    exact exec_concAccepts 0 passes asked (attestRun_ok opened) rfl
  · subst asked
    obtain ⟨d, taken⟩ := debugToken_ok opened good size answers bound ends owner
    exact ⟨d, taken, exec_concTransfer passes (applyWrite_debugToken taken) rfl⟩

end Sys2Proof.Proofs
end

section
/-! The commands of the converter, the loops, the light and the Safety Net complete (chapters 19 to 21). -/

namespace Sys2Proof.Proofs

open Sys2Proof.Machine Sys2Proof.Laws

/-! ## The converter (R421) -/

theorem adcStart_ok {c : Conc} (programmed : (c.setup (c.get O.adcSelect)).kind ≠ 0)
    (unowned : c.setupOwner (c.get O.adcSelect) = none) (idle : c.adc.hostBusy = false) : ∃ d, c.adcStart 1 = .ok d := by
  simp only [Conc.adcStart, programmed, unowned, idle, ne_eq, not_true_eq_false, Bool.false_eq_true, if_false]
  exact ⟨_, rfl⟩

/-! ## Loop commands (R442, R444) -/

theorem loopCommand_taken {v : Nat} (small : v < 2 ^ 8) : O.loopCommand.taken O.loopCommand.bytes v = v := Nat.mod_eq_of_lt small

theorem loopCommand_clear (c : Conc) {l : Nat} (hl : l < 16) : c.loopCommand (16 + l) = .ok (c.loopClear l) := by
  have code : (16 + l) / 16 = 1 := by omega
  have loop : (16 + l) % 16 = l := by omega
  simp only [Conc.loopCommand, code, loop]

theorem loopCommand_tuneStart (c : Conc) {l : Nat} (hl : l < 16) : c.loopCommand (32 + l) = c.tuneStart l := by
  have code : (32 + l) / 16 = 2 := by omega
  have loop : (32 + l) % 16 = l := by omega
  simp only [Conc.loopCommand, code, loop]

theorem loopCommand_tuneAccept (c : Conc) {l : Nat} (hl : l < 16) : c.loopCommand (48 + l) = c.tuneAccept l := by
  have code : (48 + l) / 16 = 3 := by omega
  have loop : (48 + l) % 16 = l := by omega
  simp only [Conc.loopCommand, code, loop]

theorem loopCommand_tuneAbort (c : Conc) {l : Nat} (hl : l < 16) : c.loopCommand (64 + l) = c.tuneAbort l := by
  have code : (64 + l) / 16 = 4 := by omega
  have loop : (64 + l) % 16 = l := by omega
  simp only [Conc.loopCommand, code, loop]

theorem tuneStart_ok {c : Conc} {l : Nat} (thermal : 12 ≤ l) (running : (c.loop l).st = 1) (settled : (c.loop l).restart = false)
    (arrived : (c.loop l).r = (c.target l : Rat)) (high : (c.loop l).u + (bits (c.tuneCfg l) 31 0 : Nat) ≤ (c.outLimits l).2)
    (low : (c.outLimits l).1 ≤ (c.loop l).u - (bits (c.tuneCfg l) 31 0 : Nat)) (cycles : 4 ≤ bits (c.tuneCfg l) 71 64)
    (patience : 60 ≤ bits (c.tuneCfg l) 95 80) : ∃ d, c.tuneStart l = .ok d := by
  simp only [Conc.tuneStart, Nat.not_lt.2 thermal, running, settled, arrived, Int.not_lt.2 high, Int.not_lt.2 low, Nat.not_lt.2 cycles,
    Nat.not_lt.2 patience, ne_eq, not_true_eq_false, Bool.false_eq_true, or_self, if_false]
  exact ⟨_, rfl⟩

theorem tuneAccept_ok {c : Conc} {l : Nat} (thermal : 12 ≤ l) (done : (c.tune l).status = 1) : ∃ d, c.tuneAccept l = .ok d :=
  ⟨_, (if_neg (Nat.not_lt.2 thermal)).trans (if_neg (not_not.2 done))⟩

theorem tuneAbort_ok {c : Conc} {l : Nat} (thermal : 12 ≤ l) (tuning : (c.loop l).tune.isSome = true) :
    ∃ d, c.tuneAbort l = .ok d := by
  obtain ⟨t, tunes⟩ := Option.isSome_iff_exists.1 tuning
  simp only [Conc.tuneAbort, Nat.not_lt.2 thermal, tunes, if_false]
  exact ⟨_, rfl⟩

theorem writeSetpoints_ok {c : Conc} {v : Nat}
    (within : ∀ m, m < 16 → int32At v (2 * m) ≠ int32At (c.get O.loopSetpoint) (2 * m) →
      limitOf (c.get O.loopLimits) m 0 ≤ int32At v (2 * m) ∧ int32At v (2 * m) ≤ limitOf (c.get O.loopLimits) m 1) :
    ∃ d, c.writeSetpoints v = .ok d := by
  refine ⟨_, if_neg ?_⟩
  simp only [List.any_eq_true, List.mem_range, Bool.and_eq_true, Bool.or_eq_true, decide_eq_true_eq, not_exists, not_and, not_or,
    not_lt]
  exact within

/-! ## The light (R445 to R450) -/

theorem flashFire_ok {c : Conc} (single : c.get O.flashPeriod = 0) : ∃ d, c.flashFire 1 = .ok d :=
  ⟨_, if_neg fun refused => refused.elim (fun other => other rfl) fun periodic => periodic single⟩

theorem feedbackRun_start {c : Conc} (opened : c.gated 6 = false) (unowned : c.setupOwner (c.get O.feedbackSetup) = none)
    (idle : c.light.run.isSome = false) (constant : ledMode (c.get O.ledChannel) (c.get O.feedbackLed) = 1)
    (programmed : (c.setup (c.get O.feedbackSetup)).kind ≠ 0) : ∃ d, c.feedbackRun 1 = .ok d := by
  simp only [Conc.feedbackRun, opened, unowned, idle, constant, programmed, Nat.lt_irrefl, Nat.one_ne_zero, ne_eq, not_true_eq_false,
    Bool.false_eq_true, or_self, if_false]
  exact ⟨_, rfl⟩

theorem feedbackRun_abort {c : Conc} (opened : c.gated 6 = false) : ∃ d, c.feedbackRun 0 = .ok d := by
  simp only [Conc.feedbackRun, opened, Nat.not_lt_zero, Bool.false_eq_true, if_false, if_true]
  cases c.light.run with
  | none => exact ⟨_, rfl⟩
  | some r => exact ⟨_, rfl⟩

/-! ## The Safety Net (R452 to R459) -/

theorem safetyClear_ok {c : Conc} (src : Nat) (failed : c.safety.st = 3) : ∃ d, c.safetyClear src = .ok d :=
  ⟨_, if_neg (not_not.2 failed)⟩

theorem safetyRunStimulus_ok {c : Conc} (src : Nat) (rose fell : Bool) (bundled : c.safety.bundle.isSome = true) :
    ∃ d, c.safetyRunStimulus src rose fell = .ok d := by
  obtain ⟨b, holds⟩ := Option.isSome_iff_exists.1 bundled
  exact ⟨_, by simp only [Conc.safetyRunStimulus, holds]; rfl⟩

theorem safetyBundle_ok {c : Conc} {src : Nat} {bs : List Nat} {env : Envelope} (hash : c.gated 9 = false)
    (flash : c.gated 11 = false) (good : c.judgeEnvelope 3 false true bs = .ok env) (size : env.payload.length = 32)
    (sound : (SafetyBundle.mk (ofBytes env.payload) env.measurement).ok = true)
    (free : c.probeHolds (SafetyBundle.mk (ofBytes env.payload) env.measurement).led = false) :
    ∃ d, c.safetyBundle src bs = (.ok d, d) := by
  simp only [Conc.safetyBundle, hash, flash, good, size, sound, free, ne_eq, not_true_eq_false, Bool.true_eq_false,
    Bool.false_eq_true, or_self, if_false]
  exact ⟨_, rfl⟩

/-- A bundle is a transfer of its own. -/
theorem applyWrite_safetyBundle {c d : Conc} {src lane busy len v : Nat} (taken : c.safetyBundle src (toBytes len v) = (.ok d, d)) :
    c.applyWrite src lane busy O.safetyBundleData 0 len v = (.ok d, d) := by
  simp [Conc.applyWrite, O.safetyBundleData, taken, Conc.noteChange]

/-- A command of a loop, on one that takes it. -/
theorem exec_loopCommand {i : Instr} {s : State} {src v : Nat} {c : Conc} {r : Res Conc} (small : v < 2 ^ 8)
    (passes : s.conc.admits src O.loopCommand O.loopCommand.bytes v) (asked : s.conc.asked src = c) (named : c.loopCommand v = r)
    (accepts : ∃ d, r = .ok d) (runs : exec i s = s.run i fun s => s.onConcUp fun c => c.hw src O.loopCommand v)
    (wf : i.wf = true := by simp [-Nat.reducePow, Instr.wf, *]) :
    ∃ d, c.loopCommand (O.loopCommand.taken O.loopCommand.bytes v) = .ok d ∧ exec i s = .next { s with conc := d } := by
  have taken := loopCommand_taken small
  rw [taken, named]
  exact exec_concAccepts 0 passes asked accepts runs (effect := by rw [taken]; exact named) (wf := wf)

/-- Settles O60: each command runs while its part is up; the writes are of objects that accept them. -/
theorem analogAndLightCommandsComplete : Obligations.AnalogAndLightCommandsComplete := by
  intro s
  refine ⟨fun _ _ _ passes asked programmed unowned idle =>
      exec_concAccepts 0 passes asked (adcStart_ok programmed unowned idle) rfl,
    fun _ _ shows => exec_concRead shows rfl, fun _ _ _ up => exec_onAnalog rfl up, fun _ _ up => exec_onAnalog rfl up,
    exec_onAnalog rfl, fun _ _ shows => exec_concRead shows rfl, fun _ _ _ up => exec_onAnalog rfl up,
    fun _ _ up => exec_onAnalog rfl up,
    fun _ _ _ _ hl passes asked =>
      exec_loopCommand (by omega) passes asked (loopCommand_clear _ hl) ⟨_, rfl⟩ rfl,
    fun _ _ _ _ hl passes asked thermal running settled arrived high low cycles patience =>
      exec_loopCommand (by omega) passes asked (loopCommand_tuneStart _ hl)
        (tuneStart_ok thermal running settled arrived high low cycles patience) rfl,
    fun _ _ _ _ hl passes asked thermal done =>
      exec_loopCommand (by omega) passes asked (loopCommand_tuneAccept _ hl) (tuneAccept_ok thermal done) rfl,
    fun _ _ _ _ hl passes asked thermal tuning =>
      exec_loopCommand (by omega) passes asked (loopCommand_tuneAbort _ hl) (tuneAbort_ok thermal tuning) rfl,
    exec_onAnalog rfl,
    fun _ _ _ _ passes asked within => exec_concAccepts_noted 0 passes asked (writeSetpoints_ok within) rfl,
    fun _ _ _ passes => exec_concWrite 0 passes rfl rfl, fun _ _ shows => exec_concRead shows rfl,
    fun _ _ _ _ _ passes asked one single => ?_, exec_onBase rfl, exec_onBase rfl, fun _ _ up => exec_onHardware rfl up,
    fun _ _ up => exec_onHardware rfl up,
    fun _ _ _ passes asked opened unowned idle constant programmed =>
      exec_concAccepts 0 passes asked (feedbackRun_start opened unowned idle constant programmed) rfl,
    fun _ _ _ passes asked opened => exec_concAccepts 0 passes asked (feedbackRun_abort opened) rfl,
    fun _ up => exec_onBase rfl up, fun _ _ _ up => exec_onSafety rfl up, exec_onSafety rfl,
    fun _ _ _ _ passes => exec_concWrite_volatile 0 passes rfl rfl, fun _ _ _ up => exec_onSafety rfl up,
    fun _ _ up => exec_onSafety rfl up, fun _ _ up => exec_onSafety rfl up, fun _ _ up => exec_onSafety rfl up,
    fun src _ _ passes asked failed => exec_concAccepts 0 passes asked (safetyClear_ok src failed) rfl,
    fun src rose fell _ _ passes asked bundled => ?_,
    fun src _ _ _ _ passes asked hash flash good size sound free => ?_⟩
  · subst one
    exact exec_concAccepts 0 passes asked (flashFire_ok single) rfl
  · subst asked
    obtain ⟨d, accepted⟩ := safetyRunStimulus_ok src rose fell bundled
    have written : s.conc.hwWith src O.safetyCommand 2 (.stimulus rose fell) (fun c => c.safetyRunStimulus src rose fell) = d :=
      (hwWith_ok passes accepted).trans (noteChange_volatile rfl d)
    exact ⟨d, accepted, exec_onConcUp rfl (up_of_admits passes) (done := by rw [written])⟩
  · subst asked
    obtain ⟨d, taken⟩ := safetyBundle_ok (src := src) hash flash good size sound free
    exact ⟨d, taken, exec_concTransfer passes (applyWrite_safetyBundle taken) rfl⟩

end Sys2Proof.Proofs
end

section
/-! What a wake keeps: security, and that the Ringmaster's clock has stopped. A request over CAN that finds the Ringmaster asleep
wakes it and waits (R344), so a write that is served finds nothing to wake. -/

namespace Sys2Proof.Proofs

open Sys2Proof.Machine Sys2Proof.Laws

/-- What a wake, and what it lets end, leaves as it is. -/
def wakeView (c : Conc) : Sec × Bool := (c.sec, c.pwr.ringStopped)

theorem wakeView_ite {p : Prop} [Decidable p] {a b : Conc} {v : Sec × Bool} (ha : wakeView a = v) (hb : wakeView b = v) :
    wakeView (if p then a else b) = v := by split <;> assumption

/-- A fold of operations that each keep the view keeps it. -/
theorem wakeView_foldl {α : Type} {g : Conc → α → Conc} (keeps : ∀ c a, wakeView (g c a) = wakeView c) (l : List α) (c : Conc) :
    wakeView (l.foldl g c) = wakeView c :=
  List.foldlRecOn l g (motive := fun d => wakeView d = wakeView c) rfl fun d kept a _ => (keeps d a).trans kept

/-! ## Power states and loops -/

theorem wakeView_settleLoop (c : Conc) (l : Nat) : wakeView (c.settleLoop l) = wakeView c :=
  wakeView_ite rfl (wakeView_ite rfl (wakeView_ite rfl rfl))

theorem wakeView_settleLoops (c : Conc) : wakeView c.settleLoops = wakeView c := wakeView_foldl wakeView_settleLoop _ c

theorem wakeView_setPower (c : Conc) (s : Nat) : wakeView (c.setPower s) = wakeView c := wakeView_settleLoops _

/-! ## Relays -/

theorem wakeView_sendRelays (p n : Nat) (c : Conc) : wakeView (c.sendRelays p n) = wakeView c := by
  induction n generalizing c with
  | zero => rfl
  | succ n ih =>
    rw [Conc.sendRelays]
    refine wakeView_ite rfl ?_
    split
    · rfl
    · exact ih _

theorem wakeView_addRelay (c : Conc) (p src lane cls : Nat) (q : Req) : wakeView (c.addRelay p src lane cls q) = wakeView c :=
  wakeView_sendRelays p 8 _

theorem wakeView_askFrontEnds (c : Conc) (mode : Nat) : wakeView (c.askFrontEnds mode) = wakeView c :=
  wakeView_foldl (fun _ _ => wakeView_ite (wakeView_addRelay ..) rfl) _ c

theorem wakeView_sleepAt (c : Conc) (t : Option Nat) : wakeView (c.withPwr fun x => { x with sleepAt := t }) = wakeView c := rfl

theorem wakeView_afterPass (c : Conc) (before : Bool) : wakeView (c.afterPass before) = wakeView c :=
  wakeView_ite ((wakeView_sleepAt _ _).trans (wakeView_askFrontEnds c 1)) rfl

/-! ## The repairs that a pass ends with (R359, R362) -/

theorem wakeView_queueEmcy (c : Conc) (code entry cause : Nat) : wakeView (c.queueEmcy code entry cause) = wakeView c :=
  wakeView_ite rfl rfl

theorem wakeView_faults (c : Conc) (x : Faults) : wakeView { c with faults := x } = wakeView c := rfl

theorem wakeView_postEntry (c : Conc) (cls cause resource counter state owner detail : Nat) :
    wakeView (c.postEntry cls cause resource counter state owner detail) = wakeView c := by
  have counted : wakeView (if 256 ≤ c.faults.log.length then c.count O.faultLogOverwritten else c) = wakeView c :=
    wakeView_ite rfl rfl
  exact wakeView_ite ((wakeView_queueEmcy ..).trans ((wakeView_faults _ _).trans counted)) ((wakeView_faults _ _).trans counted)

theorem wakeView_post (c : Conc) (kind num cause owner detail : Nat) : wakeView (c.post kind num cause owner detail) = wakeView c :=
  wakeView_postEntry ..

theorem wakeView_setHealth (c : Conc) (kind num : Nat) (h : Health) : wakeView (c.setHealth kind num h) = wakeView c :=
  wakeView_ite rfl rfl

theorem wakeView_markRetired (c : Conc) (kind num : Nat) : wakeView (c.markRetired kind num) = wakeView c :=
  wakeView_ite rfl ((wakeView_post ..).trans (wakeView_setHealth ..))

theorem wakeView_flipWord (c : Conc) (w : Nat) : wakeView (c.flipWord w).2 = wakeView c := by
  unfold Conc.flipWord
  dsimp only
  split
  · rfl
  · rfl

theorem wakeView_flipRange (c : Conc) (lo hi : Nat) : wakeView (c.flipRange lo hi) = wakeView c :=
  wakeView_ite (wakeView_ite (wakeView_flipWord ..) (wakeView_flipWord ..)) rfl

theorem wakeView_fill (c : Conc) (lo hi : Nat) : wakeView (c.fill lo hi) = wakeView c := wakeView_flipRange ..

theorem wakeView_retireRow (c : Conc) (num : Nat) : wakeView (c.retire 0x06 num) = wakeView c := wakeView_markRetired c 0x06 num

theorem wakeView_repairRow (c : Conc) (num : Nat) : wakeView (c.repairRow num) = wakeView c := by
  refine wakeView_ite ?_ (wakeView_retireRow ..)
  refine (wakeView_foldl (fun _ _ => wakeView_ite rfl (wakeView_fill ..)) _ _).trans ?_
  exact (wakeView_post ..).trans (wakeView_markRetired ..)

theorem wakeView_repairsDone (c : Conc) : wakeView c.repairsDone = wakeView c := by
  refine wakeView_ite rfl ?_
  refine List.foldlRecOn _ _ (motive := fun x : Bool × Conc => wakeView x.2 = wakeView c) rfl fun x kept n _ => ?_
  dsimp only
  split
  · split
    · exact (wakeView_repairRow ..).trans kept
    · exact kept
  · exact kept

theorem wakeView_stopPass (c : Conc) : wakeView c.stopPass = wakeView c :=
  wakeView_ite rfl (wakeView_ite (wakeView_repairsDone c) rfl)

/-! ## A wake (R344, R347) -/

theorem wakeView_wake (c : Conc) (cause target : Nat) : wakeView (c.wake cause target) = wakeView c := by
  refine wakeView_ite (wakeView_setPower ..) (wakeView_ite rfl (wakeView_ite ?_ (wakeView_stopPass c)))
  exact (wakeView_afterPass ..).trans (wakeView_stopPass c)

theorem wakeView_heard (c : Conc) (src : Nat) : wakeView (c.heard src) = wakeView c := wakeView_ite (wakeView_wake ..) rfl

theorem wakeView_sessionTouch (c : Conc) (src : Nat) : wakeView (c.sessionTouch src) = wakeView c := by
  have lapsed : wakeView c.sessionLapse = wakeView c := by
    rw [Conc.sessionLapse]
    split
    · rfl
    · exact wakeView_ite rfl rfl
  exact wakeView_ite lapsed lapsed

theorem wakeView_asked (c : Conc) (src : Nat) : wakeView (c.asked src) = wakeView c :=
  (wakeView_sessionTouch ..).trans (wakeView_heard ..)

theorem heard_ringStopped (c : Conc) (src : Nat) : (c.heard src).pwr.ringStopped = c.pwr.ringStopped :=
  congrArg Prod.snd (wakeView_heard c src)

theorem asked_sec (c : Conc) (src : Nat) : (c.asked src).sec = c.sec := congrArg Prod.fst (wakeView_asked c src)

/-- A source that is served finds the Ringmaster's clock running. -/
theorem ringStopped_of_serves {c : Conc} {src : Nat} (served : c.serves src) : c.pwr.ringStopped = false := by
  obtain ⟨-, listens, -⟩ := served
  rw [← heard_ringStopped c src]
  simp only [Conc.listens, Conc.ringAsleep, Bool.and_eq_true, Bool.not_eq_true', Bool.or_eq_false_iff] at listens
  exact listens.1.1

/-- A power request that is served wakes nothing. -/
theorem powerWake_of_serves {c : Conc} {src : Nat} (index v : Nat) (served : c.serves src) : c.powerWake src index v = c := by
  refine if_neg ?_
  rintro ⟨-, -, -, stopped⟩
  rw [ringStopped_of_serves served] at stopped
  exact Bool.noConfusion stopped

end Sys2Proof.Proofs
end

section
/-! The commands of the dictionary and of clocks and power complete (chapters 14 and 15). -/

namespace Sys2Proof.Proofs

open Sys2Proof.Machine Sys2Proof.Laws

/-! ## The dictionary (R298 to R300, R316) -/

theorem awake_running {c : Conc} (g : Conc → Conc) (awake : c.ringAsleep = false) : c.awake g = g c :=
  if_neg (by rw [awake]; exact Bool.noConfusion)

theorem mem_of_lookup {os : List Obj} {index sub i : Nat} {o : Obj} (found : lookupObj os index sub = .ok (o, i)) :
    o ∈ os ∧ o.index = index := by
  unfold lookupObj at found
  split at found
  · next o' first =>
    obtain ⟨rfl, -⟩ := Prod.mk.inj (Except.ok.inj found)
    have named := List.find?_some first
    simp only [Bool.and_eq_true, decide_eq_true_eq] at named
    exact ⟨List.mem_of_find?_eq_some first, named.1.1⟩
  · split at found <;> exact nomatch found

theorem concObjs_below : ∀ o ∈ concObjs, o.index < 0x4000 := by decide +kernel

/-- No object of the concentrator lies in the windows of the ports. -/
theorem lookup_noWindow {index sub i : Nat} {o : Obj} (found : lookupObj concObjs index sub = .ok (o, i)) :
    isWindow index = false := by
  obtain ⟨mem, rfl⟩ := mem_of_lookup found
  have below := concObjs_below o mem
  simp only [isWindow, Bool.and_eq_false_iff, decide_eq_false_iff_not]
  omega

/-- A register write of the concentrator that is served is an access to the concentrator as it is. -/
theorem registerWrite_serves {c : Conc} {src index : Nat} (sub len v : Nat) (served : c.serves src) (own : isWindow index = false) :
    c.registerWrite src index sub len v = c.hostWrite src (sourceLane src) 0 index sub len v := by
  rw [Conc.registerWrite, own, if_neg Bool.false_ne_true, powerWake_of_serves _ _ served]

theorem powerWrite_serves {c : Conc} {src : Nat} (v : Nat) (served : c.serves src) :
    c.powerWrite src v = c.hw src O.powerRequest v := by
  rw [Conc.powerWrite, powerWake_of_serves _ _ served]

theorem registerWrite_wf {p : Part} {src index sub len v : Nat} (hs : src ≤ 2) (hi : index < 2 ^ 16) (hsub : sub < 2 ^ 8) :
    (Instr.registerWrite p src index sub len v).wf = true := by simp [-Nat.reducePow, Instr.wf, *]

theorem exec_registerWrite {s : State} {src index sub len v i : Nat} {o : Obj} {d e : Conc} (hs : src ≤ 2) (hi : index < 2 ^ 16)
    (hsub : sub < 2 ^ 8) (found : lookupObj concObjs index sub = .ok (o, i)) (place : index = o.index ∧ sub = o.sub + i)
    (passes : s.conc.admits src o len v i)
    (accepted : (s.conc.asked src).applyWrite src (sourceLane src) 0 o i len (o.taken len v) = (.ok d, e)) :
    exec (.registerWrite .conc src index sub len v) s = .next { s with conc := d } :=
  exec_onConcUp rfl (up_of_admits passes) (registerWrite_wf hs hi hsub)
    (done := by rw [registerWrite_serves _ _ _ passes.1 (lookup_noWindow found), hostWrite_ok found place passes accepted])

/-! ## Stores and sessions (R301, R319, R320) -/

theorem lookup_store {k : Nat} (hk : k < O.store.count) :
    lookupObj concObjs O.store.index (O.store.sub + k) = .ok (O.store, k) := by
  have found : ∀ i < O.store.count, lookupObj concObjs O.store.index (O.store.sub + i) = .ok (O.store, i) := by decide
  exact found k hk

theorem lookup_restore {k : Nat} (hk : k < O.restore.count) :
    lookupObj concObjs O.restore.index (O.restore.sub + k) = .ok (O.restore, k) := by
  have found : ∀ i < O.restore.count, lookupObj concObjs O.restore.index (O.restore.sub + i) = .ok (O.restore, i) := by decide
  exact found k hk

theorem applyObj_store {c : Conc} (src busy k len v : Nat) (opened : c.gated 11 = false) :
    c.applyObj src busy O.store k len v = .ok (c.storeSet (k + 1)) := if_neg (by rw [opened]; exact Bool.noConfusion)

theorem applyObj_restore {c : Conc} (src busy k len v : Nat) (opened : c.gated 11 = false) :
    c.applyObj src busy O.restore k len v = .ok (c.eraseStored (k + 1)) := if_neg (by rw [opened]; exact Bool.noConfusion)

theorem exec_storeAll {s : State} {src k v : Nat} (hs : src ≤ 2) (hk : k < O.store.count) (hv : v < 2 ^ 32)
    (passes : s.conc.admits src O.store O.store.bytes v k) (opened : (s.conc.asked src).gated 11 = false) :
    exec (.storeAll src k v) s = .next { s with conc := (s.conc.asked src).storeSet (k + 1) } := by
  have few : O.store.count ≤ 4 := by decide
  exact exec_concWrite_volatile k passes (applyObj_store src 0 k _ _ opened) rfl (found := lookup_store hk)
    (wf := by simp [-Nat.reducePow, Instr.wf, *]; omega)

theorem exec_restoreDefaults {s : State} {src k v : Nat} (hs : src ≤ 2) (hk : k < O.restore.count) (hv : v < 2 ^ 32)
    (passes : s.conc.admits src O.restore O.restore.bytes v k) (opened : (s.conc.asked src).gated 11 = false) :
    exec (.restoreDefaults src k v) s = .next { s with conc := (s.conc.asked src).eraseStored (k + 1) } := by
  have few : O.restore.count ≤ 4 := by decide
  exact exec_concWrite_volatile k passes (applyObj_restore src 0 k _ _ opened) rfl (found := lookup_restore hk)
    (wf := by simp [-Nat.reducePow, Instr.wf, *]; omega)

/-- The session of a source that opens it with the right password. -/
def sessionOpened (c : Conc) (src lane : Nat) : Conc :=
  { c with dict := { c.dict with session := some src, sessionLane := lane, sessionLast := c.tick, wrong := 0,
                                 lockedUntil := none } }

/-- A wrong password is counted, and the third in a row locks the object for 60 s. -/
def passwordFailed (c : Conc) : Conc :=
  let d := c.count O.passwordFailures
  if 3 ≤ c.dict.wrong + 1 then { d with dict := { d.dict with wrong := 0, lockedUntil := some (d.tick + 60 * secTicks) } }
  else { d with dict := { d.dict with wrong := c.dict.wrong + 1 } }

theorem sessionOpen_locked {c : Conc} {src lane pw : Nat} (locked : c.unlocked = false) :
    c.sessionOpen src lane pw = (.error Abort.control, c) := by
  unfold Conc.unlocked at locked
  split at locked
  · next t until_ =>
    have early : c.tick < t := by simpa using locked
    simp only [Conc.sessionOpen, until_, early, decide_true, if_true]
  · exact Bool.noConfusion locked

theorem lockedUntil_of_unlocked {c : Conc} (unlocked : c.unlocked = true) :
    c.dict.lockedUntil = none ∨ ∃ t, c.dict.lockedUntil = some t ∧ decide (c.tick < t) = false := by
  unfold Conc.unlocked at unlocked
  split at unlocked
  · next t until_ => exact .inr ⟨t, until_, by simpa using unlocked⟩
  · next never => exact .inl never

theorem sessionOpen_held {c : Conc} {src lane pw h : Nat} (unlocked : c.unlocked = true) (held : c.dict.session = some h)
    (other : h ≠ src) : c.sessionOpen src lane pw = (.error (Abort.owned (ownerCode 0x04 h)), c) := by
  obtain never | ⟨t, until_, late⟩ := lockedUntil_of_unlocked unlocked
  · simp only [Conc.sessionOpen, never, held, other, Bool.false_eq_true, if_false]
  · simp only [Conc.sessionOpen, until_, late, held, other, Bool.false_eq_true, if_false]

/-- R320: with no other holder the password decides. -/
theorem sessionOpen_free {c : Conc} {src lane pw : Nat} (unlocked : c.unlocked = true)
    (free : c.dict.session = none ∨ c.dict.session = some src) :
    c.sessionOpen src lane pw =
      if c.passwordOk pw then (.ok (sessionOpened c src lane), sessionOpened c src lane)
      else (.error Abort.control, passwordFailed c) := by
  obtain never | ⟨t, until_, late⟩ := lockedUntil_of_unlocked unlocked
  · rcases free with none | own
    · simp only [Conc.sessionOpen, never, none, Bool.false_eq_true, if_false]; rfl
    · simp only [Conc.sessionOpen, never, own, Bool.false_eq_true, if_false, if_true]; rfl
  · rcases free with none | own
    · simp only [Conc.sessionOpen, until_, late, none, Bool.false_eq_true, if_false]; rfl
    · simp only [Conc.sessionOpen, until_, late, own, Bool.false_eq_true, if_false, if_true]; rfl

theorem sessionOpen_ok {c : Conc} {src pw : Nat} (lane : Nat) (unlocked : c.unlocked = true)
    (free : c.dict.session = none ∨ c.dict.session = some src) (right : c.passwordOk pw = true) :
    c.sessionOpen src lane pw = (.ok (sessionOpened c src lane), sessionOpened c src lane) :=
  (sessionOpen_free unlocked free).trans (if_pos right)

/-- Opening the session is a transfer of its own. -/
theorem applyWrite_sessionOpen {c d : Conc} {src lane busy len pw : Nat} {r : Res Conc}
    (opened : c.sessionOpen src lane pw = (r, d)) (whole : ∀ e, r = .ok e → e = d) :
    c.applyWrite src lane busy O.sessionOpen 0 len pw = (r, d) := by
  cases r with
  | error a => simp [Conc.applyWrite, O.sessionOpen, opened]
  | ok e =>
    rw [whole e rfl] at opened ⊢
    simp [Conc.applyWrite, O.sessionOpen, opened, Conc.noteChange]

theorem sessionClose_ok {c : Conc} {src : Nat} (holds : c.dict.session = some src) : ∃ d, c.sessionClose src = .ok d := by
  simp only [Conc.sessionClose, holds, if_true]
  exact ⟨_, rfl⟩

theorem passwordChange_ok {c : Conc} {src : Nat} (pw : Nat) (holds : c.dict.session = some src) (opened : c.gated 11 = false) :
    ∃ d, c.passwordChange src pw = .ok d := by
  simp only [Conc.passwordChange, holds, opened, Bool.false_eq_true, if_true, if_false]
  exact ⟨_, rfl⟩

/-! ## Clocks, gates and power (R327 to R349) -/

theorem meterRun_ok (c : Conc) : ∃ d, c.meterRun 1 = .ok d := by
  by_cases running : c.pwr.meter.running = true
  · exact ⟨c, (if_neg (not_not.2 rfl)).trans (if_pos running)⟩
  · exact ⟨_, (if_neg (not_not.2 rfl)).trans (if_neg running)⟩

theorem writeGates_ok {c : Conc} (busy : Nat) {v : Nat}
    (unowned : ∀ b, b < 12 → bitAt v b = true → c.gated b = false → c.gateOwner b = none) :
    ∃ d, c.writeGates busy v = .ok d := by
  have free : (List.range 12).findSome? (fun b => if bitAt v b && !c.gated b then c.gateOwner b else none) = none := by
    refine List.findSome?_eq_none_iff.2 fun b hb => ?_
    by_cases closes : bitAt v b = true ∧ c.gated b = false
    · simp only [closes, Bool.not_false, Bool.and_self, if_true]
      exact unowned b (List.mem_range.1 hb) closes.1 closes.2
    · refine if_neg fun h => closes ?_
      simpa using h
  exact ⟨_, by simp only [Conc.writeGates, free]; rfl⟩

theorem feWriteGates_ok {f : Fe} (busy : Nat) {v : Nat}
    (unowned : bitAt v 0 = false ∨ (f.probeOn 0 = false ∧ f.probeOn 1 = false)) : ∃ d, f.writeGates busy v = .ok d := by
  have free : (List.range 2).find? (fun n => bitAt v 0 && f.probeOn n) = none := by
    rcases unowned with opens | ⟨first, second⟩
    · simp [opens]
    · simp [List.range_succ, first, second]
  exact ⟨_, by simp only [Fe.writeGates, free]; rfl⟩

theorem powerRequest_ok {c : Conc} (v : Nat) (present : c.pwr.state ≠ 2) (live : c.pwr.state ≠ 6)
    (free : c.pwr.state ≠ 5 ∨ c.pair.state ≠ 3) : ∃ d, c.powerRequest v = .ok d := by
  unfold Conc.powerRequest
  split
  · exact ⟨_, rfl⟩
  · contradiction
  · next waking => exact ⟨_, if_neg (free.resolve_left (not_not.2 waking))⟩
  · contradiction
  · dsimp only
    split
    · exact ⟨_, rfl⟩
    · split
      · exact ⟨_, rfl⟩
      · split
        · exact ⟨_, rfl⟩
        · split <;> exact ⟨_, rfl⟩

theorem powerRequestCold_ok {c : Conc} (allowed : c.pair.state = 1 ∨ c.pair.state = 2 ∨ c.pair.state = 4 ∨ c.pair.state = 7) :
    ∃ d, c.powerRequestCold = .ok d := by
  rcases allowed with h | h | h | h
  all_goals exact ⟨_, by simp only [Conc.powerRequestCold, h]; rfl⟩

theorem exec_powerWrite {i : Instr} {s : State} {src v : Nat} {c : Conc} {r : Res Conc}
    (passes : s.conc.admits src O.powerRequest O.powerRequest.bytes v) (asked : s.conc.asked src = c) (accepts : ∃ d, r = .ok d)
    (runs : exec i s = s.run i fun s => s.onConcUp fun c => c.powerWrite src v)
    (effect : c.applyObj src 0 O.powerRequest 0 O.powerRequest.bytes (O.powerRequest.taken O.powerRequest.bytes v) = r := by rfl)
    (wf : i.wf = true := by simp [-Nat.reducePow, Instr.wf, *]) : ∃ d, r = .ok d ∧ exec i s = .next { s with conc := d } := by
  subst asked
  obtain ⟨d, accepted⟩ := accepts
  have written : s.conc.hw src O.powerRequest v = d :=
    (hostWrite_accepted passes accepted effect rfl rfl).trans (noteChange_volatile rfl d)
  exact ⟨d, accepted, exec_onConcUp runs (up_of_admits passes) wf (by rw [powerWrite_serves v passes.1, written])⟩

/-- Settles O57: each command runs on its part; the writes are of objects that accept them. -/
theorem dictionaryAndClockCommandsComplete : Obligations.DictionaryAndClockCommandsComplete := by
  intro s
  refine ⟨fun _ _ _ _ _ _ _ _ _ _ _ up => exec_onConcUp rfl up, exec_onConcUp rfl, exec_onConcUp rfl, exec_onConcUp rfl,
    fun _ _ up => exec_onConcUp rfl up, fun _ _ up => exec_onConcUp rfl up, exec_onConcUp rfl, exec_onConcUp rfl,
    fun _ _ up => exec_onConcUp rfl up, fun _ _ _ hs hk hv passes opened => exec_storeAll hs hk hv passes opened,
    fun _ _ _ hs hk hv passes opened => exec_restoreDefaults hs hk hv passes opened,
    fun src lane pw c _ passes asked unlocked free right => ?_,
    fun _ _ _ _ _ passes asked holds => exec_concAccepts 0 passes asked (sessionClose_ok holds) rfl,
    fun awake up => exec_onConcUp rfl up (done := by rw [awake_running _ awake]),
    fun _ _ _ _ passes asked holds opened => exec_concAccepts 0 passes asked (passwordChange_ok _ holds opened) rfl,
    fun awake up => exec_onConcUp rfl up (done := by rw [awake_running _ awake]),
    fun _ _ _ _ _ _ up => exec_onHardware rfl up, fun _ _ _ _ _ _ up => exec_onFe rfl up, exec_onConc rfl, exec_onConc rfl,
    fun _ _ _ _ passes => exec_concWrite_volatile 0 passes rfl rfl,
    fun _ _ _ _ _ _ _ _ _ hs hi hsub found place passes accepted => exec_registerWrite hs hi hsub found place passes accepted,
    fun side index sub len v i o d hs _ _ found passes accepted => ?_, fun src v hs passes => ?_, fun side v hs passes => ?_,
    fun src index sub len v _ _ _ window up => exec_onConcUp rfl up (done := by rw [Conc.registerWrite, if_pos window]),
    fun _ _ awake up => exec_onConcUp rfl up (done := by rw [awake_running _ awake]),
    fun _ _ up => exec_onConcUp rfl up, fun _ _ up => exec_onFe rfl up, fun _ _ up => exec_onConcUp rfl up,
    fun _ _ up => exec_onFe rfl up, fun _ _ _ up => exec_onConcUp rfl up, fun _ _ _ up => exec_onFe rfl up,
    fun _ up => exec_onConcUp rfl up, fun _ up => exec_onFe rfl up, exec_onConcUp rfl,
    fun _ _ _ _ _ passes asked one => ?_, fun _ _ up => exec_onHardware rfl up,
    fun _ busy _ _ _ _ _ passes asked unowned => exec_concAccepts_noted 0 passes asked (writeGates_ok busy unowned) rfl,
    fun side busy v hs _ _ passes unowned => ?_,
    fun _ _ up => exec_onHardware rfl up, fun _ _ up => exec_onFe rfl up,
    fun _ _ _ passes asked present live free => exec_powerWrite passes asked (powerRequest_ok 1 present live free) rfl,
    fun _ _ _ passes asked allowed => exec_powerWrite passes asked (powerRequestCold_ok allowed) rfl,
    fun _ _ _ passes asked present live free => exec_powerWrite passes asked (powerRequest_ok 3 present live free) rfl,
    fun _ _ _ passes asked present live free => exec_powerWrite passes asked (powerRequest_ok 4 present live free) rfl,
    exec_onHardware rfl, exec_onHardware rfl, fun _ _ passes => exec_feWrite 0 passes rfl rfl,
    fun _ _ passes => exec_feWrite 0 passes rfl rfl, fun _ _ passes => exec_feWrite 0 passes rfl rfl, exec_onFe rfl, exec_onFe rfl⟩
  · subst asked
    have opened := sessionOpen_ok lane unlocked free right
    exact ⟨_, opened, exec_concTransfer passes (applyWrite_sessionOpen opened fun _ same => (Except.ok.inj same).symm) rfl⟩
  · have few : side ≤ 2 := by omega
    refine exec_onFe rfl (fe_up_of_admits passes) (done := ?_)
    rw [feHostWrite_admits found passes, accepted]
  · exact exec_registerWrite hs (by decide) (by decide) rfl ⟨rfl, rfl⟩ passes (applyWrite_plain (by decide) rfl)
  · have few : side ≤ 2 := by omega
    exact exec_feWrite 0 passes rfl rfl (wf := by simp [Instr.wf, *]; decide)
  · subst one
    exact exec_concAccepts 0 passes asked (meterRun_ok _) rfl
  · have few : side ≤ 2 := by omega
    exact exec_feAccepts 0 passes (feWriteGates_ok busy unowned) rfl

end Sys2Proof.Proofs
end

section
/-! Refused accesses: the unleased downlink, the locked debug module, sessions, gated blocks, and stores (R301, R318 to R320,
R340, R502). -/

namespace Sys2Proof.Proofs

open Sys2Proof.Machine Sys2Proof.Laws

/-! ## A refused write changes nothing but the record of the abort (R322) -/

theorem recordAbort_dict (c : Conc) (src : Nat) (a : Abort) (index sub tid : Nat) :
    (c.recordAbort src a index sub tid).dict = c.dict := by rw [Conc.recordAbort, conc_put_dict]

theorem recordAbort_tick (c : Conc) (src : Nat) (a : Abort) (index sub tid : Nat) :
    (c.recordAbort src a index sub tid).tick = c.tick := by rw [Conc.recordAbort, conc_put_tick]

/-- A write that passes the checks of every access, of an object that refuses it. -/
theorem hostWrite_error {c d : Conc} {src lane busy len v n : Nat} {o : Obj} {a : Abort} (passes : c.admits src o len v n)
    (refused : (c.asked src).applyWrite src lane busy o n len (o.taken len v) = (.error a, d))
    (found : lookupObj concObjs o.index (o.sub + n) = .ok (o, n)) :
    c.hostWrite src lane busy o.index (o.sub + n) len v = d.recordAbort src a o.index (o.sub + n) 0 := by
  rw [hostWrite_admits found ⟨rfl, rfl⟩ passes, refused]

theorem applyWrite_error {c : Conc} {src lane busy n len v : Nat} {o : Obj} {a : Abort} (plain : ownTransfer o = false)
    (refused : c.applyObj src busy o n len v = .error a) : c.applyWrite src lane busy o n len v = (.error a, c) := by
  have own : ¬((o.index = 0x2604 ∧ o.sub = 1) ∨ o.index = 0x3003 ∨ (o.index = 0x3007 ∧ o.sub = 2) ∨ o.index = 0x2F02
      ∨ (o.index = 0x2F20 ∧ o.sub = 1)) := by simpa [ownTransfer, and_assoc] using plain
  unfold Conc.applyWrite
  split <;> simp_all

theorem hwWith_error {c : Conc} {src v : Nat} {o : Obj} {x : CanAccess} {g : Conc → Res Conc} {a : Abort}
    (passes : c.admits src o o.bytes v) (refused : g (c.asked src) = .error a) :
    c.hwWith src o v x g = (c.asked src).recordAbort src a o.index o.sub 0 := by
  obtain ⟨⟨-, listens, rom⟩, checked, -⟩ := passes
  unfold Conc.hwWith
  simp only [listens, Bool.true_eq_false, if_false]
  simp only [Conc.asked] at rom checked refused ⊢
  simp only [Conc.romRefuses, rom, Bool.false_and, Bool.false_eq_true, if_false, checked, refused]

/-! ## The unleased downlink and the locked debug module -/

/-- Settles O27: the access is refused before the dictionary sees it. -/
theorem unleasedDownlinkIsRefused : Obligations.UnleasedDownlinkIsRefused := by
  intro s side index sub len v hs hi hsub runs unleased
  obtain ⟨up, -⟩ := Bool.and_eq_true_iff.1 runs
  exact exec_onFe rfl up (registerWrite_wf (by omega) hi hsub)
    (done := by rw [feHostWrite_unleased 0 index sub len v runs unleased]; rfl)

/-- Settles O36: each of the conditions shuts the module before it looks at the access. -/
theorem lockedDebugModuleReadsZero : Obligations.LockedDebugModuleReadsZero := by
  intro s op addr v ho ha hv up shut
  refine exec_onConcUp rfl up (done := ?_)
  rw [Conc.dmi]
  refine congrArg (fun c => ({ s with conc := c } : State)) (if_pos ?_)
  obtain gate | locked | ⟨h, rfl, hart⟩ := shut
  · exact .inl gate
  · exact .inr (.inl locked)
  · exact .inr (.inr hart)

/-! ## The configuration session -/

theorem sessionOpen_taken {pw : Nat} (small : pw < 2 ^ 64) : O.sessionOpen.taken O.sessionOpen.bytes pw = pw :=
  Nat.mod_eq_of_lt small

theorem lookup_sessionOpen : lookupObj concObjs O.sessionOpen.index O.sessionOpen.sub = .ok (O.sessionOpen, 0) := by rfl

theorem sessionOpen_checked (may : Bool) (pw : Nat) :
    O.sessionOpen.checkWrite may O.sessionOpen.bytes pw = .ok (O.sessionOpen.taken O.sessionOpen.bytes pw) := rfl

theorem admits_sessionOpen {c : Conc} {src : Nat} (pw : Nat) (served : c.serves src) :
    c.admits src O.sessionOpen O.sessionOpen.bytes pw :=
  ⟨served, sessionOpen_checked _ pw, fun _ block => nomatch block⟩

theorem exec_sessionOpen {s : State} {src lane pw : Nat} {d : Conc} (hs : src ≤ 2) (small : pw < 2 ^ 64)
    (served : s.conc.serves src) (opened : (s.conc.asked src).sessionOpen src lane pw = (.ok d, d)) :
    exec (.sessionOpen src lane pw) s = .next { s with conc := d } := by
  have accepted := applyWrite_sessionOpen (busy := 0) (len := 8) opened fun _ same => (Except.ok.inj same).symm
  exact exec_concTransfer (admits_sessionOpen pw served) (by rw [sessionOpen_taken small]; exact accepted) rfl

theorem exec_sessionOpen_refused {s : State} {src lane pw : Nat} {d : Conc} {a : Abort} (hs : src ≤ 2) (small : pw < 2 ^ 64)
    (served : s.conc.serves src) (refused : (s.conc.asked src).sessionOpen src lane pw = (.error a, d)) :
    exec (.sessionOpen src lane pw) s = .next { s with conc := d.recordAbort src a O.sessionOpen.index O.sessionOpen.sub 0 } := by
  have judged := applyWrite_sessionOpen (busy := 0) (len := 8) refused fun _ same => nomatch same
  have written : s.conc.hostWrite src lane 0 O.sessionOpen.index O.sessionOpen.sub O.sessionOpen.bytes pw =
      d.recordAbort src a O.sessionOpen.index O.sessionOpen.sub 0 :=
    hostWrite_error (n := 0) (admits_sessionOpen pw served) (by rw [sessionOpen_taken small]; exact judged) lookup_sessionOpen
  exact exec_onConcUp rfl served.1 (done := by rw [written])

theorem secTicks_pos : 0 < secTicks := by decide

theorem passwordFailed_session (c : Conc) : (passwordFailed c).dict.session = c.dict.session := by
  unfold passwordFailed; dsimp only; split <;> rfl

theorem passwordFailed_od (c : Conc) : (passwordFailed c).od = (c.count O.passwordFailures).od := by
  unfold passwordFailed; dsimp only; split <;> rfl

theorem passwordFailed_tick (c : Conc) : (passwordFailed c).tick = c.tick := by
  unfold passwordFailed; dsimp only; split <;> rfl

theorem passwordFailed_third {c : Conc} (third : 2 ≤ c.dict.wrong) :
    (passwordFailed c).dict.lockedUntil = some (c.tick + 60 * secTicks) := by
  have reached : 3 ≤ c.dict.wrong + 1 := by omega
  unfold passwordFailed; dsimp only; rw [if_pos reached]; rfl

theorem passwordFailed_before {c : Conc} (before : c.dict.wrong < 2) : (passwordFailed c).dict.wrong = c.dict.wrong + 1 := by
  have few : ¬3 ≤ c.dict.wrong + 1 := by omega
  unfold passwordFailed; dsimp only; rw [if_neg few]

/-- Until a time that has not come, the object is locked. -/
theorem locked_of_until {c : Conc} {t : Nat} (until_ : c.dict.lockedUntil = some t) (early : c.tick < t) : c.unlocked = false := by
  simp only [Conc.unlocked, until_, Nat.not_le.2 early, decide_false]

/-- Settles O33: no other holder and the right password open the session; each refusal leaves the holder. -/
theorem sessionIsExclusive : Obligations.SessionIsExclusive := by
  intro s src lane pw hs small served
  refine ⟨fun unlocked free right => ?_, fun h unlocked held other => ?_, fun locked => ?_, fun unlocked free wrong => ?_⟩
  · exact ⟨_, exec_sessionOpen hs small served (sessionOpen_ok lane unlocked free right), rfl, rfl, rfl, rfl⟩
  · exact exec_sessionOpen_refused hs small served (sessionOpen_held unlocked held other)
  · exact exec_sessionOpen_refused hs small served (sessionOpen_locked locked)
  · have failed := (sessionOpen_free (lane := lane) unlocked free).trans (if_neg (by rw [wrong]; exact Bool.false_ne_true))
    have counted : (passwordFailed (s.conc.asked src)).get O.passwordFailures =
        satAdd 32 ((s.conc.asked src).get O.passwordFailures) 1 :=
      (congrArg (fun od => Od.val od O.passwordFailures 0) (passwordFailed_od _)).trans (conc_get_count ..)
    refine ⟨_, exec_sessionOpen_refused hs small served failed, rfl, ?_, ?_, fun third => ?_, fun before => ?_⟩
    · rw [recordAbort_dict, passwordFailed_session]
    · exact (conc_get_put_other _ _ (by decide)).trans counted
    · have until_ := passwordFailed_third third
      refine ⟨by rw [recordAbort_dict, until_], locked_of_until (by rw [recordAbort_dict, until_]) ?_⟩
      rw [recordAbort_tick, passwordFailed_tick]
      exact Nat.lt_add_of_pos_right (Nat.mul_pos (by decide) secTicks_pos)
    · rw [recordAbort_dict, passwordFailed_before before]

/-! ## Gated blocks -/

/-- No block holds the power request or a window of a port. -/
theorem block_apart {index sub b : Nat} (block : concBlockOf index sub = some b) : index ≠ O.powerRequest.index := by
  rintro rfl
  exact nomatch block

theorem writeObj_gated {c : Conc} {src lane busy index sub len v i b : Nat} {o : Obj}
    (found : lookupObj concObjs index sub = .ok (o, i)) (block : concBlockOf index sub = some b) (gated : c.gated b = true) :
    c.writeObj src lane busy index sub len v =
      if claimsGate index sub then (.error gateAbort, c) else (.ok (c.count O.gatedAccesses), c.count O.gatedAccesses) := by
  simp only [Conc.writeObj, found, block, gated, if_true]

/-- Settles O46: the gate is judged before every other check. -/
theorem gatedBlocksReadZero : Obligations.GatedBlocksReadZero := by
  refine ⟨fun c index sub i b o found readable constant block gated => ?_,
    fun s src index sub len v i b o hs hi hsub served found block gated => ⟨fun discards => ?_, fun claims => ?_⟩⟩
  · have shown : o.readable = .ok () := if_neg readable
    simp only [Conc.readObj, found, shown, block, gated, constant, ne_eq, not_false_eq_true, and_self, if_true]
  · refine exec_onConcUp rfl served.1 (registerWrite_wf hs hi hsub) (done := ?_)
    rw [registerWrite_serves _ _ _ served (lookup_noWindow found), hostWrite_serves served, writeObj_gated found block gated,
      discards, if_neg Bool.false_ne_true]
  · refine exec_onConcUp rfl served.1 (registerWrite_wf hs hi hsub) (done := ?_)
    rw [registerWrite_serves _ _ _ served (lookup_noWindow found), hostWrite_serves served, writeObj_gated found block gated,
      claims, if_pos rfl]

/-! ## Stores -/

/-- Settles O41: a store and a restore touch the flash only. -/
theorem storeKeepsThePreviousCopy : Obligations.StoreKeepsThePreviousCopy :=
  ⟨fun _ _ _ hs hv passes opened =>
      ⟨_, exec_storeAll hs (by decide) hv passes opened, rfl, rfl, rfl, _, rfl, rfl⟩,
    fun _ _ _ hs hv passes opened => ⟨_, exec_restoreDefaults hs (by decide) hv passes opened, rfl, rfl, rfl, rfl⟩⟩

end Sys2Proof.Proofs
end

section
/-! The fault log's acknowledgement, the owner's enrolment and floors, the host path of the converter (R370, R398, R399, R421). -/

namespace Sys2Proof.Proofs

open Sys2Proof.Machine Sys2Proof.Laws

/-! ## Bits -/

theorem bitAt_eq_testBit (v n : Nat) : bitAt v n = v.testBit n := by
  simp only [bitAt, Nat.testBit_eq_decide_div_mod_eq]

theorem bitAt_orBits (v w n : Nat) : bitAt (orBits v w) n = (bitAt v n || bitAt w n) := by
  simp only [bitAt_eq_testBit, orBits, Nat.testBit_or]

theorem bitAt_two_pow (m n : Nat) : bitAt (2 ^ m) n = decide (m = n) := by rw [bitAt_eq_testBit, Nat.testBit_two_pow]

/-- A number with bit `n` set to `b` differs from it in that bit only. -/
theorem bitAt_setBit (v n m : Nat) (b : Bool) : bitAt (setBit v n b) m = if m = n then b else bitAt v m := by
  have parts : setBit v n b = 2 ^ n * (b.toNat + 2 * (v / 2 ^ (n + 1))) + v % 2 ^ n := by
    cases b
    · simp [setBit, entrySet, pow_succ]; ring
    · simp [setBit, entrySet, pow_succ]; ring
  have low : v % 2 ^ n < 2 ^ n := Nat.mod_lt _ (Nat.two_pow_pos n)
  rw [bitAt_eq_testBit, bitAt_eq_testBit, parts, Nat.testBit_two_pow_mul_add _ low]
  rcases Nat.lt_trichotomy m n with below | rfl | above
  · rw [if_pos below, if_neg (Nat.ne_of_lt below), Nat.testBit_mod_two_pow, decide_eq_true below, Bool.true_and]
  · rw [if_neg (Nat.lt_irrefl m), if_pos rfl, Nat.sub_self]
    cases b <;> simp [Nat.testBit_zero]
  · obtain ⟨k, rfl⟩ : ∃ k, m = n + 1 + k := ⟨m - (n + 1), by omega⟩
    have shift : n + 1 + k - n = k + 1 := by omega
    rw [if_neg (by omega), if_neg (by omega), shift, Nat.testBit_succ]
    have half : (b.toNat + 2 * (v / 2 ^ (n + 1))) / 2 = v / 2 ^ (n + 1) := by
      simp only [Nat.add_mul_div_left _ _ Nat.two_pos, Nat.div_eq_of_lt b.toNat_lt, Nat.zero_add]
    rw [half, Nat.testBit_div_two_pow, Nat.add_comm]

/-! ## The fault log (R370) -/

theorem faultLogAck_taken {v : Nat} (small : v < 2 ^ 32) : O.faultLogAck.taken O.faultLogAck.bytes v = v := Nat.mod_eq_of_lt small

theorem exec_faultLogAck {s : State} {src v : Nat} (hs : src ≤ 2) (small : v < 2 ^ 32)
    (passes : s.conc.admits src O.faultLogAck 4 v) :
    exec (.faultLogAck src v) s = .next { s with conc := (s.conc.asked src).faultLogAck v } := by
  have taken := faultLogAck_taken small
  exact exec_concWrite_volatile (o := O.faultLogAck) (len := O.faultLogAck.bytes) 0 passes rfl rfl (effect := by rw [taken]; rfl)

/-- A number before the acknowledged point changes nothing. -/
theorem faultLogAck_behind {c : Conc} {v : Nat} (behind : v < c.faults.acked) : c.faultLogAck v = c := by
  have stays : max c.faults.acked (min (v + 1) c.faults.next) = c.faults.acked := by omega
  rw [Conc.faultLogAck, Conc.withFaults, stays]

/-- The bit of the error register that class `k` sets, set while an entry of the class is unacknowledged. -/
def errorStep (c : Conc) (v k : Nat) : Nat :=
  match errorBit k with
  | none => v
  | some b => if c.faults.acked < Bank.get 0 c.faults.lastOf k then orBits v (2 ^ b) else v

theorem bitAt_errorStep (c : Conc) (v k b : Nat) :
    bitAt (errorStep c v k) b = true ↔
      bitAt v b = true ∨ (errorBit k = some b ∧ c.faults.acked < Bank.get 0 c.faults.lastOf k) := by
  unfold errorStep
  split
  · next none => simp [none]
  · next m some =>
    by_cases beyond : c.faults.acked < Bank.get 0 c.faults.lastOf k
    · simp [beyond, some, bitAt_orBits, bitAt_two_pow]
    · simp [beyond]

theorem bitAt_foldl_errorStep (c : Conc) (b : Nat) (ks : List Nat) (v : Nat) :
    bitAt (ks.foldl (errorStep c) v) b = true ↔
      bitAt v b = true ∨ ∃ k ∈ ks, errorBit k = some b ∧ c.faults.acked < Bank.get 0 c.faults.lastOf k := by
  induction ks generalizing v with
  | nil => simp
  | cons k ks ih => rw [List.foldl_cons, ih, bitAt_errorStep, or_assoc, List.exists_mem_cons_iff]

theorem bitAt_zero (n : Nat) : bitAt 0 n = false := by rw [bitAt_eq_testBit, Nat.zero_testBit]

theorem bitAt_errorRegister (c : Conc) (b : Nat) :
    bitAt c.errorRegister b = true ↔ ∃ k, k < 8 ∧ errorBit k = some b ∧ c.faults.acked < Bank.get 0 c.faults.lastOf k := by
  have folded : c.errorRegister = (List.range 8).foldl (errorStep c) 0 := rfl
  rw [folded, bitAt_foldl_errorStep, bitAt_zero]
  simp only [Bool.false_eq_true, false_or, List.mem_range]

/-- Settles O34: the acknowledged point is the greater of the old one and the one written. -/
theorem acknowledgementOnlyAdvances : Obligations.AcknowledgementOnlyAdvances := by
  refine ⟨fun s src v hs small passes => ⟨_, exec_faultLogAck hs small passes, rfl, rfl, faultLogAck_behind,
    fun ahead known => ?_, Nat.le_max_left _ _⟩, fun c b _ => bitAt_errorRegister c b⟩
  have next : min (v + 1) (s.conc.asked src).faults.next = v + 1 := Nat.min_eq_left known
  exact (congrArg (max _) next).trans (Nat.max_eq_right (by omega))

/-! ## Enrolment and floors (R398, R399) -/

theorem enrolOwner_sealed {c : Conc} {hash : Nat} {cut : Bool} (sealed : c.sec.owner = 1) :
    c.enrolOwner hash cut = .error Abort.writeOfRo := if_pos sealed

theorem enrolOwner_constant {c : Conc} {hash : Nat} {cut : Bool} (unsealed : c.sec.owner ≠ 1)
    (constant : hash = 0 ∨ hash = 2 ^ 512 - 1) : c.enrolOwner hash cut = .error Abort.range :=
  (if_neg unsealed).trans (if_pos constant)

theorem exec_ownerKeyEnrol_refused {s : State} {src hash : Nat} {cut : Bool} {a : Abort} (named : src ≤ 2)
    (passes : s.conc.admits src O.ownerKeyHash O.ownerKeyHash.bytes hash)
    (refused : (s.conc.asked src).enrolOwner hash cut = .error a) :
    exec (.ownerKeyEnrol src hash cut) s = .next { s with
      conc := (s.conc.asked src).recordAbort src a O.ownerKeyHash.index O.ownerKeyHash.sub 0 } := by
  have written := hwWith_error (x := .enrol hash cut) (g := fun c => c.enrolOwner hash cut) passes refused
  exact exec_onConcUp rfl (up_of_admits passes) (done := by rw [written])

/-- The floors of the firmware and of the owner's images. -/
def FloorsKept (c d : Conc) : Prop := c.sec.ownerFloor ≤ d.sec.ownerFloor ∧ c.sec.fwFloor ≤ d.sec.fwFloor

theorem floorsKept_of_sec {c d : Conc} (same : d.sec = c.sec) : FloorsKept c d := by
  rw [FloorsKept, same]
  exact ⟨le_rfl, le_rfl⟩

theorem accepted_of_ite {p : Prop} [Decidable p] {a : Abort} {x d : Conc}
    (h : (if p then .error a else .ok x) = (.ok d : Res Conc)) : ¬p ∧ d = x := by
  by_cases refused : p
  · rw [if_pos refused] at h; exact nomatch h
  · rw [if_neg refused] at h; exact ⟨refused, (Except.ok.inj h).symm⟩

theorem commitOwnerFloor_floors {c d : Conc} {n : Nat} (accepted : c.commitOwnerFloor n = .ok d) : FloorsKept c d := by
  obtain ⟨above, rfl⟩ := accepted_of_ite accepted
  exact ⟨(show c.sec.ownerFloor ≤ n by omega), le_rfl⟩

theorem commitFirmwareFloor_floors {c d : Conc} {v : Nat} (accepted : c.commitFirmwareFloor v = .ok d) : FloorsKept c d := by
  obtain ⟨above, rfl⟩ := accepted_of_ite accepted
  simp only [not_or, not_le] at above
  exact ⟨le_rfl, above.2.1.le⟩

theorem keepForWake_sec (c : Conc) (src : Nat) (a : CanAccess) : (c.keepForWake src a).sec = c.sec := by
  unfold Conc.keepForWake; split <;> rfl

theorem recordAbort_sec (c : Conc) (src : Nat) (a : Abort) (index sub tid : Nat) :
    (c.recordAbort src a index sub tid).sec = c.sec := by rw [Conc.recordAbort, conc_put_sec]

theorem noteChange_sec (c : Conc) (o : Obj) : (c.noteChange o).sec = c.sec := by rw [noteChange_eq]

theorem FloorsKept.of_sec {c c' d d' : Conc} (kept : FloorsKept c d) (before : c'.sec = c.sec) (after : d'.sec = d.sec) :
    FloorsKept c' d' := by
  rw [FloorsKept, before, after]; exact kept

section Write

variable {src busy len v n : Nat} {o : Obj} (found : lookupObj concObjs o.index (o.sub + n) = .ok (o, n))
  (free : concBlockOf o.index (o.sub + n) = none) (plain : ownTransfer o = false)
  (effect : ∀ (c d : Conc) (w : Nat), c.applyObj src busy o n len w = .ok d → FloorsKept c d)

include found free plain effect

/-- An access to an object in no block, whose effect keeps the floors. -/
theorem writeObj_floors (c : Conc) (lane : Nat) :
    match c.writeObj src lane busy o.index (o.sub + n) len v with
    | (.ok d, _) => FloorsKept c d
    | (.error _, d) => FloorsKept c d := by
  simp only [Conc.writeObj, found, free, Bool.false_eq_true, if_false]
  cases o.checkWrite (c.mayLock src) len v with
  | error a => exact floorsKept_of_sec rfl
  | ok w =>
    dsimp only
    cases judged : c.applyObj src busy o n len w with
    | error a =>
      rw [applyWrite_error plain judged]
      exact floorsKept_of_sec rfl
    | ok d =>
      rw [applyWrite_plain (by simpa [ownTransfer, and_assoc] using plain) judged]
      exact (effect c d w judged).of_sec rfl (noteChange_sec d o)

/-- A write of such an object keeps the floors, whether it is served or not. -/
theorem hostWrite_floors (c : Conc) (lane : Nat) : FloorsKept c (c.hostWrite src lane busy o.index (o.sub + n) len v) := by
  have heard : (c.heard src).sec = c.sec := congrArg Prod.fst (wakeView_heard c src)
  have asked : ((c.heard src).sessionTouch src).sec = c.sec := asked_sec c src
  rw [Conc.hostWrite]
  split
  · exact floorsKept_of_sec ((keepForWake_sec ..).trans heard)
  · dsimp only
    split
    · exact floorsKept_of_sec ((recordAbort_sec ..).trans asked)
    · have kept := writeObj_floors (v := v) found free plain effect ((c.heard src).sessionTouch src) lane
      split
      · next d _ written =>
        rw [written] at kept
        exact kept.of_sec asked.symm rfl
      · next a d written =>
        rw [written] at kept
        exact kept.of_sec asked.symm (recordAbort_sec ..)

end Write

theorem lookup_ownerFloorCommit :
    lookupObj concObjs O.ownerFloorCommit.index O.ownerFloorCommit.sub = .ok (O.ownerFloorCommit, 0) := by rfl

theorem lookup_firmwareFloorCommit :
    lookupObj concObjs O.firmwareFloorCommit.index O.firmwareFloorCommit.sub = .ok (O.firmwareFloorCommit, 0) := by rfl

theorem onConcUp_floors {s : State} {g : Conc → Conc} (keeps : ∀ c, FloorsKept c (g c)) :
    FloorsKept s.conc (s.onConcUp g).conc := by
  unfold State.onConcUp
  split
  · exact keeps s.conc
  · exact floorsKept_of_sec rfl

theorem exec_ownerFloorCommit_floors {s t : State} {src v : Nat} (done : exec (.ownerFloorCommit src v) s = .next t) :
    FloorsKept s.conc t.conc := by
  obtain ⟨-, rfl⟩ := run_next_iff.1 done
  exact onConcUp_floors fun c => hostWrite_floors (n := 0) lookup_ownerFloorCommit rfl rfl
    (fun _ _ _ accepted => commitOwnerFloor_floors accepted) c _

theorem exec_firmwareFloorCommit_floors {s t : State} {src v : Nat} (done : exec (.firmwareFloorCommit src v) s = .next t) :
    FloorsKept s.conc t.conc := by
  obtain ⟨-, rfl⟩ := run_next_iff.1 done
  exact onConcUp_floors fun c => hostWrite_floors (n := 0) lookup_firmwareFloorCommit rfl rfl
    (fun _ _ _ accepted => commitFirmwareFloor_floors accepted) c _

theorem exec_ownerFloorCommit {s : State} {src v : Nat} (hs : src ≤ 2) (small : v < 2 ^ 8)
    (passes : s.conc.admits src O.ownerFloorCommit 1 v) (above : (s.conc.asked src).sec.ownerFloor < v) (within : v ≤ 24) :
    exec (.ownerFloorCommit src v) s = .next { s with conc := (s.conc.asked src).withSec fun x => { x with ownerFloor := v } } := by
  have taken := ownerFloor_taken small
  exact exec_concWrite_volatile (o := O.ownerFloorCommit) (len := O.ownerFloorCommit.bytes) 0 passes
    (commitOwnerFloor_ok above within) rfl (effect := by rw [taken]; rfl)

/-- Settles O40: the seal is judged before the hash; a commit refuses every floor that is not above the old one. -/
theorem ownerEnrolmentIsPermanent : Obligations.OwnerEnrolmentIsPermanent := by
  refine ⟨fun s src hash cut hs _ passes => ⟨fun state nonzero ones => ?_, fun sealed => ?_, fun unsealed constant => ?_⟩,
    fun s t src v done => ?_, fun s src v hs small passes above within => ?_⟩
  · have unsealed : (s.conc.asked src).sec.owner ≠ 1 := by omega
    have half : (s.conc.asked src).sec.owner ≠ 2 ∨ hash = (s.conc.asked src).sec.ownerHash := by
      rcases state with open_ | ⟨-, same⟩
      · exact .inl (by omega)
      · exact .inr same
    exact ⟨_, exec_ownerKeyEnrol hs passes (enrolOwner_ok cut unsealed nonzero ones half), rfl, rfl⟩
  · exact exec_ownerKeyEnrol_refused hs passes (enrolOwner_sealed sealed)
  · exact exec_ownerKeyEnrol_refused hs passes (enrolOwner_constant unsealed constant)
  · exact done.elim exec_ownerFloorCommit_floors exec_firmwareFloorCommit_floors
  · exact ⟨_, exec_ownerFloorCommit hs small passes above within, rfl, rfl⟩

end Sys2Proof.Proofs
end

section
/-! The host path of the converter (R421), the windows of the ports (R316, R317) and the reset of the CAN node (R311, R312). -/

namespace Sys2Proof.Proofs

open Sys2Proof.Machine Sys2Proof.Laws

/-! ## The converter (R421) -/

theorem adcDataRead_get (c : Conc) : c.adcDataRead.get O.adcData = setBit (setBit (c.get O.adcData) 22 false) 23 false := by
  have put : c.adcDataRead.od = (c.put O.adcData (setBit (setBit (c.get O.adcData) 22 false) 23 false)).od := rfl
  rw [Conc.get, put, ← Conc.get, conc_get_put]

theorem adcDataRead_adc (c : Conc) : c.adcDataRead.adc = { c.adc with readAt := some c.tick } := by
  rw [Conc.adcDataRead, conc_withAdc_adc, conc_put_adc]

theorem adcDataRead_bit (c : Conc) (b : Nat) :
    bitAt (c.adcDataRead.get O.adcData) b = if b = 23 then false else if b = 22 then false else bitAt (c.get O.adcData) b := by
  rw [adcDataRead_get, bitAt_setBit, bitAt_setBit]

theorem exec_adcDataRead {s : State} {src : Nat} (hs : src ≤ 2) (shows : s.conc.shows src O.adcData) :
    exec (.adcDataRead src) s = .next { s with conc := (s.conc.asked src).adcDataRead } := exec_concRead shows rfl

theorem adcStart_busy {c : Conc} (busy : c.adc.hostBusy = true) : c.adcStart 1 = .ok (c.count O.startsIgnored) := by
  simp only [Conc.adcStart, busy, ne_eq, not_true_eq_false, if_false, if_true]

theorem adcStart_owned {c : Conc} {l : Nat} (idle : c.adc.hostBusy = false) (programmed : (c.setup (c.get O.adcSelect)).kind ≠ 0)
    (owned : c.setupOwner (c.get O.adcSelect) = some l) : c.adcStart 1 = .error (loopAbort l) := by
  simp only [Conc.adcStart, idle, programmed, owned, ne_eq, not_true_eq_false, Bool.false_eq_true, if_false]

theorem exec_adcStart {s : State} {src : Nat} {d : Conc} (hs : src ≤ 2) (passes : s.conc.admits src O.adcStart 1 1)
    (accepted : (s.conc.asked src).adcStart 1 = .ok d) : exec (.adcStart src) s = .next { s with conc := d } :=
  exec_concWrite_volatile (o := O.adcStart) (len := O.adcStart.bytes) 0 passes accepted rfl

theorem lookup_adcStart : lookupObj concObjs O.adcStart.index O.adcStart.sub = .ok (O.adcStart, 0) := by rfl

theorem exec_adcStart_refused {s : State} {src : Nat} {a : Abort} (hs : src ≤ 2) (passes : s.conc.admits src O.adcStart 1 1)
    (refused : (s.conc.asked src).adcStart 1 = .error a) :
    exec (.adcStart src) s = .next { s with conc := (s.conc.asked src).recordAbort src a O.adcStart.index O.adcStart.sub 0 } := by
  have written : s.conc.hw src O.adcStart 1 = (s.conc.asked src).recordAbort src a O.adcStart.index O.adcStart.sub 0 :=
    hostWrite_error (n := 0) passes (applyWrite_error rfl refused) lookup_adcStart
  exact exec_onConcUp rfl (up_of_admits passes) (done := by rw [written])

/-- Settles O45: the read clears two bits; the start is judged by the converter's request first, then by the setup's owner. -/
theorem adcDataReadClearsItsFlags : Obligations.AdcDataReadClearsItsFlags := by
  refine ⟨fun s src hs shows => ⟨_, exec_adcDataRead hs shows, rfl, ?_, ?_, fun b new overrun => ?_, adcDataRead_adc _⟩,
    fun s src hs passes => ⟨fun busy => ⟨_, exec_adcStart hs passes (adcStart_busy busy), rfl, rfl, conc_get_count ..⟩,
      fun l idle programmed owned => exec_adcStart_refused hs passes (adcStart_owned idle programmed owned)⟩⟩
  · exact adcDataRead_bit _ 22
  · exact adcDataRead_bit _ 23
  · exact (adcDataRead_bit _ b).trans ((if_neg overrun).trans (if_neg new))

/-! ## The windows of the ports (R316, R317) -/

theorem window_offset (x : Nat) : x &&& 0x7F = x % 0x80 := Nat.and_two_pow_sub_one_eq_mod x 7

theorem isWindow_iff {x : Nat} : isWindow x = true ↔ 0x4000 ≤ x ∧ x ≤ 0x57FF := by simp [isWindow]

theorem windowCheck_noObject {c : Conc} {src : Nat} {r : Req} {a : Abort}
    (unknown : lookupObj feObjs (windowFe r.index) r.sub = .error a) : c.windowCheck src r = .error a := by
  simp only [Conc.windowCheck, unknown]

section Window

variable {c : Conc} {src lane cls : Nat} {r : Req} (sound : r.poisoned = false) (known : ¬(r.op = 0 ∨ 4 < r.op))
  (firmware : c.rom = false) (window : isWindow r.index = true)

include sound known firmware window

/-- A request to a window whose check fails is answered with its abort. -/
theorem perform_window_refused {a : Abort} (refused : c.windowCheck src r = .error a) :
    c.perform src lane cls r = (some (.error a), c) := by
  simp only [Conc.perform, Conc.romRefuses, sound, known, firmware, window, refused, Bool.false_and, Bool.false_eq_true, if_false,
    if_true]

/-- One whose check passes is relayed. -/
theorem perform_window_relayed (passes : c.windowCheck src r = .ok ()) :
    c.perform src lane cls r = (none, c.addRelay (windowPort r.index) src lane cls r) := by
  simp only [Conc.perform, Conc.romRefuses, sound, known, firmware, window, passes, Bool.false_and, Bool.false_eq_true, if_false,
    if_true]

end Window

theorem pushRelay_lane (c : Conc) (r : Relay) :
    (c.pushRelay r).lane (laneDown r.port) =
      let l := c.lane (laneDown r.port)
      let ws := ({ r.req with tid := r.id, index := windowFe r.req.index } : Req).words
      if 40 < r.req.bytes then { l with tx := { l.tx with c3 := l.tx.c3 ++ [ws] } }
      else { l with tx := { l.tx with c1 := l.tx.c1 ++ [ws] } } := conc_lane_updLane ..

/-- Settles O49: the windows are the 48 blocks of 128 indices from 0x4000. -/
theorem relayWindowMapsEveryFrontEndIndex : Obligations.RelayWindowMapsEveryFrontEndIndex := by
  refine ⟨fun p x hp low high => ?_, fun y window => ?_, by decide,
    fun c src lane cls r sound least most firmware window => ⟨fun unknown => ?_, fun passes => ?_⟩, fun c r short => ?_,
    fun c r long => ?_⟩
  · rw [isWindow_iff, window_offset]
    have inside : 0x4000 ≤ 0x4000 + p * 0x80 + x % 0x80 ∧ 0x4000 + p * 0x80 + x % 0x80 ≤ 0x57FF := by omega
    exact ⟨inside, rfl, by simp only [windowIndex, windowPort]; omega, by simp only [windowIndex, windowFe]; omega⟩
  · obtain ⟨low, high⟩ := isWindow_iff.1 window
    simp only [windowIndex, windowPort, windowFe]
    omega
  · exact perform_window_refused sound (by omega) firmware window (windowCheck_noObject unknown)
  · exact perform_window_relayed sound (by omega) firmware window passes
  · rw [pushRelay_lane]
    dsimp only
    rw [if_neg (Nat.not_lt.2 short)]
  · rw [pushRelay_lane]
    dsimp only
    rw [if_pos long]

/-! ## Reset communication (R311, R312) -/

/-- What the requests to the front-ends leave as it is: the objects, the CAN node and the configuration session. -/
def nodeView (c : Conc) : Od × Can × Option Nat := (c.od, c.dict.can, c.dict.session)

theorem nodeView_sendRelays (p n : Nat) (c : Conc) : nodeView (c.sendRelays p n) = nodeView c := by
  induction n generalizing c with
  | zero => rfl
  | succ n ih =>
    rw [Conc.sendRelays]
    dsimp only
    split
    · rfl
    · split
      · rfl
      · exact ih _

theorem nodeView_sendAll (ps : List Nat) (c : Conc) : nodeView (ps.foldl (fun c p => c.sendRelays p 8) c) = nodeView c :=
  List.foldlRecOn ps _ (motive := fun d => nodeView d = nodeView c) rfl fun d kept p _ => (nodeView_sendRelays p 8 d).trans kept

/-- The CAN node at once after NMT reset communication: pre-operational, without USDO sessions. -/
def resetCan (c : Conc) (pins : Nat) : Can := { c.dict.can with nodePins := pins, state := 0x7F, usdo := [], hbLast := c.tick }

/-- The node ID that the pins and the objects give (R312). -/
def nodeIdOf (c : Conc) (pins : Nat) : Nat :=
  if c.get O.canNodeIdSource = 1 ∨ pins % 128 = 0 then c.get O.canNodeId else pins % 128

theorem nodeIdNow_of_view {c e : Conc} {pins : Nat} (od : e.od = c.od) (can : e.dict.can = resetCan c pins) :
    e.nodeIdNow = nodeIdOf c pins := by
  rw [Conc.nodeIdNow, Conc.get, Conc.get, od, can]
  rfl

/-- NMT reset communication: what CAN had open is closed, then the node takes its ID and sends the boot-up message. -/
theorem resetComm_node (c : Conc) (pins : Nat) : ∃ rate data, (c.resetComm pins).dict.session ≠ some 0 ∧
    (c.resetComm pins).dict.can =
      { resetCan c pins with
        nodeId := nodeIdOf c pins, arbitration := rate, dataRate := data
        sent := (resetCan c pins).sent ++ [{ cob := 0x700 + nodeIdOf c pins, bytes := [0] }] } := by
  unfold Conc.resetComm
  dsimp only
  generalize relayed : List.foldl _ _ _ = d
  have kept : nodeView d = (c.od, resetCan c pins, c.dict.session) := relayed ▸ nodeView_sendAll _ _
  generalize closed : ite (d.dict.session = some 0) d.endSession d = e
  have view : e.od = c.od ∧ e.dict.can = resetCan c pins ∧ e.dict.session ≠ some 0 := by
    obtain ⟨od, rest⟩ := Prod.mk.inj kept
    obtain ⟨can, -⟩ := Prod.mk.inj rest
    subst closed
    split
    · exact ⟨od, can, nofun⟩
    · next other => exact ⟨od, can, other⟩
  obtain ⟨od, can, session⟩ := view
  have nodeId : e.nodeIdNow = nodeIdOf c pins := nodeIdNow_of_view od can
  refine ⟨e.get O.canArbitrationRate, e.get O.canDataRate, session, ?_⟩
  rw [nodeId, ← can]
  rfl

theorem nmt_alive {c : Conc} {a : CanAccess} {f : Conc → Conc} (alive : (c.heard 0).canAlive = true)
    (awake : (c.heard 0).ringAsleep = false) (firmware : (c.heard 0).rom = false) : c.nmt a f = f (c.heard 0) := by
  simp only [Conc.nmt, alive, awake, firmware, Bool.false_eq_true, false_and, if_false, and_self, if_true]

theorem readVal_nodeIdInUse (c : Conc) : c.readVal O.canNodeIdInUse 0 = c.dict.can.nodeId := by
  simp [Conc.readVal, Conc.readDict, O.canNodeIdInUse]

/-- Settles O32: the node ID is judged after the pins are read; a stopped node hears no USDO request. -/
theorem resetCommunicationTakesTheNodeId : Obligations.ResetCommunicationTakesTheNodeId := by
  refine ⟨fun s pins small up alive awake firmware => ?_, fun c stopped => ?_⟩
  · have reset : exec (.nmtResetCommunication pins) s = .next { s with conc := (s.conc.heard 0).resetComm pins } :=
      exec_onConcUp rfl up (by simpa [Instr.wf] using small) (by rw [Conc.nmtResetComm, nmt_alive alive awake firmware])
    obtain ⟨rate, data, session, can⟩ := resetComm_node (s.conc.heard 0) pins
    refine ⟨_, reset, rfl, rfl, congrArg Can.nodeId can, readVal_nodeIdInUse _, congrArg Can.usdo can, session,
      congrArg Can.state can, ?_⟩
    dsimp only
    rw [can]
    exact List.getLast?_concat ..
  · simp only [Conc.listens, stopped, bne_self_eq_false, Bool.and_false, if_true]

end Sys2Proof.Proofs
end

section
/-! The pair: a failure of the lockstep, and the ports that a holder gives up (R379, R382). -/

namespace Sys2Proof.Proofs

open Sys2Proof.Machine Sys2Proof.Laws

/-! ## Folds over ports and loops -/

/-- What each step of a fold brings about and the other steps leave holds after it of every element. -/
theorem foldl_each {α : Type} {g : Conc → α → Conc} {inv : Conc → Prop} {done : α → Conc → Prop}
    (keeps : ∀ c a, inv c → inv (g c a)) (brings : ∀ c a, inv c → done a (g c a))
    (leaves : ∀ c a b, inv c → done b c → done b (g c a)) (l : List α) {c : Conc} (start : inv c) :
    ∀ a ∈ l, done a (l.foldl g c) := by
  have stays : ∀ (l : List α) (c : Conc) (b : α), inv c → done b c → done b (l.foldl g c) := by
    intro l
    induction l with
    | nil => exact fun _ _ _ held => held
    | cons x l ih => exact fun c b ok held => ih (g c x) b (keeps c x ok) (leaves c x b ok held)
  induction l generalizing c with
  | nil => exact nofun
  | cons x l ih =>
    intro a mem
    rcases List.mem_cons.1 mem with rfl | rest
    · exact stays l (g c a) a (keeps c a start) (brings c a start)
    · exact ih (keeps c x start) a rest

/-! ## What the parts of a lockstep failure write -/

/-- The state that a loop settles in. -/
def loopWant (c : Conc) (l : Nat) : Nat :=
  let stopped : Bool := c.pair.state == 5 || c.pwr.state == 2 || (decide (l < 12) && (c.pwr.state == 1 || c.pwr.state == 5))
  if c.loopEnabled l = false then 0
  else if stopped then 5
  else if (c.loop l).faulted then 3
  else if l < 12 ∧ c.biasOff l then 2
  else if (c.loop l).st = 4 then 4
  else 1

/-- The loop in the state it settles in; any state but running and tuning is the stopped output. -/
def loopInState (c : Conc) (l want : Nat) : Loop :=
  if want = 1 then { c.loop l with st := 1, restart := true, fault := 0 }
  else { (c.loop l).stop want with fault := if want = 0 ∨ want = 2 then 0 else (c.loop l).fault }

theorem loopInState_st (c : Conc) (l want : Nat) : (loopInState c l want).st = want := by
  unfold loopInState
  split
  · next one => exact one.symm
  · rfl

theorem settleLoop_cases (c : Conc) (l : Nat) :
    (loopWant c l = (c.loop l).st ∧ c.settleLoop l = c) ∨
      ∃ tunes, c.settleLoop l =
        { c with ctl := { c.ctl with loops := Bank.set {} c.ctl.loops l (loopInState c l (loopWant c l)), tunes := tunes } } := by
  have settled : c.settleLoop l =
      if loopWant c l = (c.loop l).st then c
      else if loopWant c l = 1 then c.setLoop l { c.loop l with st := 1, restart := true, fault := 0 }
      else
        let d := c.setLoop l
          { (c.loop l).stop (loopWant c l) with fault := if loopWant c l = 0 ∨ loopWant c l = 2 then 0 else (c.loop l).fault }
        if (c.loop l).st == 4 then
          { d with ctl := { d.ctl with tunes := Bank.upd {} d.ctl.tunes l fun t => { t with status := 0 } } }
        else d := rfl
  rw [settled]
  generalize loopWant c l = want
  by_cases there : want = (c.loop l).st
  · exact .inl ⟨there, if_pos there⟩
  · refine .inr ?_
    rw [if_neg there, loopInState]
    by_cases runs : want = 1
    · rw [if_pos runs, if_pos runs]
      exact ⟨c.ctl.tunes, rfl⟩
    · rw [if_neg runs, if_neg runs]
      dsimp only
      split
      · exact ⟨_, rfl⟩
      · exact ⟨c.ctl.tunes, rfl⟩

theorem settleLoop_ctl (c : Conc) (l : Nat) : ∃ k, c.settleLoop l = { c with ctl := k } := by
  obtain ⟨-, same⟩ | ⟨tunes, settled⟩ := settleLoop_cases c l
  · exact ⟨c.ctl, same⟩
  · exact ⟨_, settled⟩

theorem settleLoop_st (c : Conc) (l : Nat) : ((c.settleLoop l).loop l).st = loopWant c l := by
  obtain ⟨there, same⟩ | ⟨tunes, settled⟩ := settleLoop_cases c l
  · rw [same, there]
  · rw [settled]
    exact (congrArg Loop.st (get_set_same ..)).trans (loopInState_st ..)

theorem settleLoop_other (c : Conc) {l j : Nat} (other : j ≠ l) : (c.settleLoop l).loop j = c.loop j := by
  obtain ⟨-, same⟩ | ⟨tunes, settled⟩ := settleLoop_cases c l
  · rw [same]
  · rw [settled]
    exact get_set_other _ _ other

theorem settleLoops_ctl (c : Conc) : ∃ k, c.settleLoops = { c with ctl := k } := by
  refine List.foldlRecOn (List.range 16) _ (motive := fun d => ∃ k, d = { c with ctl := k }) ⟨c.ctl, rfl⟩ ?_
  rintro _ ⟨k, rfl⟩ l _
  obtain ⟨k', settled⟩ := settleLoop_ctl { c with ctl := k } l
  exact ⟨k', settled⟩

theorem queueEmcy_writes (c : Conc) (code entry cause : Nat) :
    ∃ od dict, c.queueEmcy code entry cause = { c with od := od, dict := dict } := by
  unfold Conc.queueEmcy
  dsimp only
  split
  · exact ⟨_, _, rfl⟩
  · exact ⟨_, _, rfl⟩

/-- The fault log with an entry appended; the oldest makes room (R368). -/
def logged (f : Faults) (e : LogEntry) : Faults :=
  { f with log := (f.log ++ [e]).drop ((f.log ++ [e]).length - 256), next := (f.next + 1) % 2 ^ 32,
           lastOf := Bank.set 0 f.lastOf e.cls (f.next + 1) }

theorem logged_newest (f : Faults) (e : LogEntry) : (logged f e).log.getLast? = some e := by
  have kept : ¬(f.log ++ [e]).length ≤ (f.log ++ [e]).length - 256 := by
    rw [List.length_append, List.length_singleton]; omega
  rw [logged, List.getLast?_drop, if_neg kept, List.getLast?_concat]

/-- An entry of the fault log: counted, appended, and told over CAN where its class asks for it. -/
theorem postEntry_writes (c : Conc) (cls cause resource counter state owner detail : Nat) :
    ∃ od dict e, c.postEntry cls cause resource counter state owner detail =
      { c with od := od, dict := dict, faults := logged c.faults e } ∧ e.cls = cls ∧ e.cause = cause := by
  let e : LogEntry := { number := c.faults.next, seconds := c.seconds, cls := cls, cause := cause, resource := resource,
                        counter := counter, state := state, owner := owner, detail := detail }
  have counted : ∃ od, (if 256 ≤ c.faults.log.length then c.count O.faultLogOverwritten else c) = { c with od := od } := by
    split <;> exact ⟨_, rfl⟩
  obtain ⟨od, counted⟩ := counted
  have posted : c.postEntry cls cause resource counter state owner detail =
      let d := { c with od := od, faults := logged c.faults e }
      if bitAt (d.get O.faultNotifyMask) cls then d.queueEmcy (emcyCode cls) c.faults.next cause else d := by
    unfold Conc.postEntry
    dsimp only
    rw [counted]
    rfl
  rw [posted]
  dsimp only
  split
  · obtain ⟨od', dict, told⟩ := queueEmcy_writes { c with od := od, faults := logged c.faults e } (emcyCode cls)
      c.faults.next cause
    exact ⟨od', dict, e, told, rfl, rfl⟩
  · exact ⟨od, c.dict, e, rfl, rfl, rfl⟩

theorem dropDown_writes (c : Conc) (p : Nat) : ∃ time lanes, c.dropDown p = { c with time := time, lanes := lanes } := by
  unfold Conc.dropDown Conc.unmark
  split <;> exact ⟨_, _, rfl⟩

/-- No command and no message waits on a downlink. -/
def DownlinkEmpty (p : Nat) (c : Conc) : Prop :=
  (c.lane (laneDown p)).tx.c0 = [] ∧ (c.lane (laneDown p)).tx.c1 = [] ∧ (c.lane (laneDown p)).tx.c3 = [] ∧
    (c.lane (laneDown p)).tx.timed = []

theorem lane_dropDown (c : Conc) (p : Nat) : ∃ l : Lane, (c.dropDown p).lane (laneDown p) = { l with
    tx := { l.tx with c0 := [], c1 := [], c3 := [], p1 := [], p3 := [], timed := [] } } :=
  ⟨(c.unmark p).lane (laneDown p), conc_lane_updLane (c.unmark p) (laneDown p) _⟩

theorem downlinkEmpty_dropDown (c : Conc) (p : Nat) : DownlinkEmpty p (c.dropDown p) := by
  obtain ⟨l, emptied⟩ := lane_dropDown c p
  rw [DownlinkEmpty, emptied]
  exact ⟨rfl, rfl, rfl, rfl⟩

theorem lane_dropDown_other (c : Conc) {p i : Nat} (other : i ≠ laneDown p) : (c.dropDown p).lane i = c.lane i := by
  have unmarked : (c.unmark p).lane i = c.lane i := by unfold Conc.unmark; split <;> rfl
  exact (get_set_other _ _ other).trans unmarked

/-- The loop is stopped if it is enabled. -/
def LoopStopped (l : Nat) (c : Conc) : Prop := c.loopEnabled l = true → (c.loop l).st = 5

theorem loopEnabled_settleLoop (c : Conc) (l j : Nat) : (c.settleLoop l).loopEnabled j = c.loopEnabled j := by
  obtain ⟨k, settled⟩ := settleLoop_ctl c l
  rw [settled]; rfl

theorem pair_settleLoop (c : Conc) (l : Nat) : (c.settleLoop l).pair = c.pair := by
  obtain ⟨k, settled⟩ := settleLoop_ctl c l
  rw [settled]

theorem loopWant_failed {c : Conc} {l : Nat} (failed : c.pair.state = 5) (enabled : c.loopEnabled l = true) : loopWant c l = 5 := by
  simp only [loopWant, failed, enabled, Bool.true_eq_false, beq_self_eq_true, Bool.true_or, if_false, if_true]

theorem loopStopped_settleLoop {c : Conc} (l : Nat) (failed : c.pair.state = 5) : LoopStopped l (c.settleLoop l) := by
  intro enabled
  rw [loopEnabled_settleLoop] at enabled
  rw [settleLoop_st, loopWant_failed failed enabled]

theorem settleLoops_failed {c : Conc} (failed : c.pair.state = 5) : ∀ l ∈ List.range 16, LoopStopped l c.settleLoops := by
  rw [Conc.settleLoops]
  refine foldl_each (inv := fun d => d.pair.state = 5) (done := LoopStopped) (fun d l held => ?_)
    (fun d l held => loopStopped_settleLoop l held) (fun d l j held stopped => ?_) _ failed
  · rw [pair_settleLoop, held]
  · by_cases same : j = l
    · subst same
      exact loopStopped_settleLoop j held
    · intro enabled
      rw [loopEnabled_settleLoop] at enabled
      rw [settleLoop_other d same, stopped enabled]

/-! ## A failure of the lockstep (R382) -/

/-- The concentrator with nothing waiting on a downlink. -/
def portsDropped (c : Conc) : Conc := (List.range 48).foldl (fun c p => c.dropDown p) c

theorem portsDropped_writes (c : Conc) : ∃ time lanes, portsDropped c = { c with time := time, lanes := lanes } := by
  refine List.foldlRecOn (List.range 48) _ (motive := fun d => ∃ time lanes, d = { c with time := time, lanes := lanes })
    ⟨c.time, c.lanes, rfl⟩ ?_
  rintro _ ⟨time, lanes, rfl⟩ p _
  obtain ⟨time', lanes', dropped⟩ := dropDown_writes { c with time := time, lanes := lanes } p
  exact ⟨time', lanes', dropped⟩

theorem portsDropped_empty (c : Conc) : ∀ p ∈ List.range 48, DownlinkEmpty p (portsDropped c) := by
  rw [portsDropped]
  refine foldl_each (inv := fun _ => True) (done := DownlinkEmpty) (fun _ _ _ => trivial) (fun d p _ => downlinkEmpty_dropDown d p)
    (fun d p q _ empty => ?_) _ trivial
  by_cases same : q = p
  · subst same
    exact downlinkEmpty_dropDown d q
  · have other : laneDown q ≠ laneDown p := same
    rw [DownlinkEmpty, lane_dropDown_other d other]
    exact empty

/-- The peer lanes with nothing waiting either. -/
def peersDropped (c : Conc) : Conc :=
  [162, 163].foldl (fun (c : Conc) i => c.updLane i fun l =>
    { l with tx := { l.tx with q0 := [], q0At := [], c1 := [], c3 := [], p1 := [], p3 := [] } }) c

theorem peersDropped_writes (c : Conc) : ∃ lanes, peersDropped c = { c with lanes := lanes } := ⟨_, rfl⟩

theorem peersDropped_downlink (c : Conc) {p : Nat} (port : p < 48) : (peersDropped c).lane (laneDown p) = c.lane (laneDown p) := by
  have first : laneDown p ≠ 162 := by rw [laneDown]; omega
  have second : laneDown p ≠ 163 := by rw [laneDown]; omega
  exact (get_set_other _ _ second).trans (get_set_other _ _ first)

theorem setPair_writes {c : Conc} {n : Nat} (active : c.pair.state ≠ 5) :
    ∃ od ctl, c.setPair n = { c with pair := { c.pair with state := n }, od := od, ctl := ctl } := by
  obtain ⟨ctl, settled⟩ := settleLoops_ctl (({ c with pair := { c.pair with state := n } } : Conc).put O.pairState n)
  exact ⟨_, ctl, (if_neg active).trans settled⟩

theorem setPair_failed {c : Conc} (active : c.pair.state ≠ 5) {l : Nat} (hl : l < 16) : LoopStopped l (c.setPair 5) := by
  have failed : c.setPair 5 = (({ c with pair := { c.pair with state := 5 } } : Conc).put O.pairState 5).settleLoops := if_neg active
  rw [failed]
  exact settleLoops_failed rfl l (List.mem_range.2 hl)

/-- The concentrator just before it logs the failure. -/
def lockstepSilenced (c : Conc) : Conc :=
  let d := peersDropped (portsDropped c)
  ({ d with links := { d.links with peerQ := [] } } : Conc).withPair fun x =>
    { x with failedUntil := some (d.tick + 100 * msTicks), takeover := none }

theorem lockstepFailure_active {c : Conc} (active : c.pair.state ≠ 5) :
    c.lockstepFailure = ((lockstepSilenced c).post 0 0 0x24).setPair 5 := by
  unfold Conc.lockstepFailure lockstepSilenced peersDropped portsDropped
  rw [if_neg active]

theorem lockstepSilenced_writes (c : Conc) : ∃ time lanes links, lockstepSilenced c = { c with
    time := time, lanes := lanes, links := links
    pair := { c.pair with failedUntil := some (c.tick + 100 * msTicks), takeover := none } } := by
  obtain ⟨time, lanes, ports⟩ := portsDropped_writes c
  obtain ⟨lanes', peers⟩ := peersDropped_writes (portsDropped c)
  unfold lockstepSilenced
  dsimp only
  rw [peers, ports]
  exact ⟨_, _, _, rfl⟩

theorem lockstepSilenced_lanes (c : Conc) : (lockstepSilenced c).lanes = (peersDropped (portsDropped c)).lanes := by
  unfold lockstepSilenced
  generalize peersDropped (portsDropped c) = d
  rfl

theorem lockstepSilenced_empty (c : Conc) {p : Nat} (port : p < 48) : DownlinkEmpty p (lockstepSilenced c) := by
  have lane : (lockstepSilenced c).lane (laneDown p) = (portsDropped c).lane (laneDown p) := by
    rw [← peersDropped_downlink (portsDropped c) port, Conc.lane, lockstepSilenced_lanes, Conc.lane]
  rw [DownlinkEmpty, lane]
  exact portsDropped_empty c p (List.mem_range.2 port)

theorem post_lockstep (c : Conc) : ∃ od dict e,
    c.post 0 0 0x24 = { c with od := od, dict := dict, faults := logged c.faults e } ∧ e.cls = 7 ∧ e.cause = 0x24 := postEntry_writes c 7 0x24 0 _ _ 0 0

/-- The failure is logged, then the pair state falls. -/
theorem lockstepFailure_writes {c : Conc} (active : c.pair.state ≠ 5) : ∃ od dict ctl e, c.lockstepFailure = { lockstepSilenced c with
      od := od, dict := dict, ctl := ctl, faults := logged (lockstepSilenced c).faults e
      pair := { (lockstepSilenced c).pair with state := 5 } } ∧ e.cls = 7 ∧ e.cause = 0x24 ∧
    ∀ l, l < 16 → LoopStopped l c.lockstepFailure := by
  rw [lockstepFailure_active active]
  have still : (lockstepSilenced c).pair.state ≠ 5 := by
    obtain ⟨time, lanes, links, silenced⟩ := lockstepSilenced_writes c
    rw [silenced]
    exact active
  generalize lockstepSilenced c = d at still
  obtain ⟨od, dict, e, posted, cls, cause⟩ := post_lockstep d
  have pair : (d.post 0 0 0x24).pair.state ≠ 5 := by rw [posted]; exact still
  obtain ⟨od', ctl, fallen⟩ := setPair_writes (n := 5) pair
  refine ⟨od', dict, ctl, e, ?_, cls, cause, fun l hl => setPair_failed pair hl⟩
  rw [fallen, posted]

theorem mute_failed {c : Conc} (failed : c.pair.state = 5) : c.mute = true := by simp [Conc.mute, failed]

theorem acts_mute {c : Conc} (mute : c.mute = true) (p : Nat) : c.acts p = false := by simp [Conc.acts, mute]

/-- Settles O35: everything that waits is dropped, the entry is logged, then the pair state stops the loops. -/
theorem lockstepFailureSilencesTheRingmaster : Obligations.LockstepFailureSilencesTheRingmaster := by
  refine fun s up => ⟨fun failed => exec_onConcUp rfl up (done := by rw [Conc.lockstepFailure, if_pos failed]), fun active => ?_⟩
  obtain ⟨od, dict, ctl, e, fallen, cls, cause, loops⟩ := lockstepFailure_writes active
  obtain ⟨time, lanes, links, silenced⟩ := lockstepSilenced_writes s.conc
  have state : s.conc.lockstepFailure.pair.state = 5 := by rw [fallen]
  have mute := mute_failed state
  refine ⟨{ s with conc := s.conc.lockstepFailure }, exec_onConcUp rfl up, rfl, rfl, state, mute, acts_mute mute, fun p port => ?_,
    loops, ?_, ?_, e, ?_, cls, cause⟩
  · have same : s.conc.lockstepFailure.lane (laneDown p) = (lockstepSilenced s.conc).lane (laneDown p) := by
      rw [fallen, Conc.lane, Conc.lane]
    have empty := lockstepSilenced_empty s.conc port
    rw [DownlinkEmpty, ← same] at empty
    exact empty
  · dsimp only; rw [fallen, silenced]
  · dsimp only; rw [fallen, silenced]
  · dsimp only; rw [fallen]; exact logged_newest _ e

end Sys2Proof.Proofs
end

section
/-! A holder gives up its ports (R379): while the concentrator answers the requests that the port relayed, an answer can reach
another downlink. -/

namespace Sys2Proof.Proofs

open Sys2Proof.Machine Sys2Proof.Laws

/-- A request of the back end, relayed to port 1, whose record names the downlink of port 0 as the lane of its answer. -/
def strayRelay : Relay :=
  { id := 0, port := 1, src := 1, lane := laneDown 0, cls := 1, req := { tid := 0, op := 1, index := 0, sub := 0 },
    first := 0, last := 0 }

/-- The Ringmaster runs, and the leases of ports 0 and 1 have passed their 45 ms. -/
def strayAnswer : State :=
  { conc := {
      tick := 45 * msTicks + 1
      boot := { inReset := false, supplyOk := true, overTemp := false, recovery := false, step := 11 }
      leases := [(0, { status := 2 }), (1, { status := 2 })]
      dict := { relays := [strayRelay] } } }

theorem strayAnswer_expired : (strayAnswer.conc.lease 0).status = 2 ∧
    (strayAnswer.conc.lease 0).base + 45 * msTicks < strayAnswer.conc.tick := by decide +kernel

/-- Port 0 is given up first; the abort of port 1's request then waits on its downlink. -/
theorem strayAnswer_waits : (strayAnswer.conc.localExpiries.lane (laneDown 0)).tx.c1 ≠ [] := by decide +kernel

/-- What the statement says of one port that is given up. -/
theorem c1_of_expiry (holds : Obligations.HolderActsForFortyFiveMilliseconds) {s : State} (up : s.conc.ringUp = true) {p : Nat}
    (port : p < 48) (expired : (s.conc.lease p).status = 2 ∧ (s.conc.lease p).base + 45 * msTicks < s.conc.tick) :
    (s.conc.localExpiries.lane (laneDown p)).tx.c1 = [] := by
  obtain ⟨-, expiry⟩ := holds
  obtain ⟨t, ran, -, -, ports⟩ := expiry s up
  have gives : exec .localLeaseExpiry s = .next { s with conc := s.conc.localExpiries } := exec_onConc rfl up
  obtain rfl := Host.Outcome.next.inj (ran.symm.trans gives)
  obtain ⟨dropped, -⟩ := ports p port
  obtain ⟨-, -, -, c1, -⟩ := dropped expired
  dsimp only at c1
  exact c1

/-- Refutes O37: after `strayAnswer` a message waits on the downlink of port 0. The statement asks nothing of the state's relays; the
paths of a request (`Path`) are back-end and peer lanes, so the state is not one that requests bring about. -/
theorem not_holderActsForFortyFiveMilliseconds : ¬ Obligations.HolderActsForFortyFiveMilliseconds := fun holds =>
  strayAnswer_waits (c1_of_expiry holds (by decide) (by decide) strayAnswer_expired)

end Sys2Proof.Proofs
end

section
/-! The lease of the front-end (R377): what the lease commands make of its holder, number, timer and counts. -/

namespace Sys2Proof.Proofs

open Sys2Proof.Machine Sys2Proof.Laws

/-! ## The lease as a record of its own -/

/-- The lease of the front-end, its counts, and the tick that its timer is judged against. -/
structure LeaseView where
  tick : Nat
  holder : Nat
  number : Nat
  grants : Nat
  refusals : Nat
  ends : Option Nat

def leaseView (f : Fe) : LeaseView :=
  { tick := f.tick, holder := f.get O.leaseHolder, number := f.get O.leaseNumber, grants := f.get O.leaseGrants,
    refusals := f.get O.leaseRefusals, ends := f.sys.leaseEnd }

namespace LeaseView

def ao (v : LeaseView) : Nat := v.tick * 32 / 3000

/-- The timer is judged: past its end nobody holds the lease. -/
def lapsed (v : LeaseView) : LeaseView :=
  match v.ends with
  | some e => if e < v.ao then { v with holder := 0, ends := none } else v
  | none => v

def refused (v : LeaseView) : LeaseView := { v with refusals := satAdd 32 v.refusals 1 }

def renewed (v : LeaseView) : LeaseView := { v with ends := some (v.ao + leaseTicks) }

def granted (v : LeaseView) (side : Nat) : LeaseView :=
  { v with holder := side + 1, number := (v.number + 1) % 2 ^ 32, grants := satAdd 32 v.grants 1, ends := some (v.ao + leaseTicks) }

/-- The holder and the timer, if anybody holds the lease. -/
def now (v : LeaseView) : Option (Nat × Option Nat) := if v.lapsed.holder = 0 then none else some (v.lapsed.holder, v.lapsed.ends)

end LeaseView

/-! ## What leaves the lease as it is -/

theorem leaseView_ite {p : Prop} [Decidable p] {a b : Fe} {v : LeaseView} (ha : leaseView a = v) (hb : leaseView b = v) :
    leaseView (if p then a else b) = v := by split <;> assumption

theorem leaseView_foldl {α : Type} {g : Fe → α → Fe} (keeps : ∀ f a, leaseView (g f a) = leaseView f) (l : List α) (f : Fe) :
    leaseView (l.foldl g f) = leaseView f :=
  List.foldlRecOn l g (motive := fun d => leaseView d = leaseView f) rfl fun d kept a _ => (keeps d a).trans kept

/-- The objects of the lease that its commands write. -/
def leaseKeys : List Nat := [O.leaseHolder.key, O.leaseNumber.key, O.leaseGrants.key, O.leaseRefusals.key]

theorem leaseView_put (f : Fe) {o : Obj} {i : Nat} (v : Nat) (apart : o.key i ∉ leaseKeys) : leaseView (f.put o v i) = leaseView f := by
  simp only [leaseKeys, List.mem_cons, List.not_mem_nil, or_false, not_or] at apart
  obtain ⟨holder, number, grants, refusals⟩ := apart
  simp only [leaseView, fe_get_put_other f v (Ne.symm holder), fe_get_put_other f v (Ne.symm number),
    fe_get_put_other f v (Ne.symm grants), fe_get_put_other f v (Ne.symm refusals), fe_put_tick, fe_put_sys]

theorem leaseView_count (f : Fe) {o : Obj} {i : Nat} (n : Nat) (apart : o.key i ∉ leaseKeys) :
    leaseView (f.count o i n) = leaseView f := leaseView_put f _ apart

theorem leaseView_setSide (f : Fe) (i : Nat) (x : FeSide) : leaseView (f.setSide i x) = leaseView f := rfl
theorem leaseView_setGroup (f : Fe) (g : Nat) (x : Group) : leaseView (f.setGroup g x) = leaseView f := rfl
theorem leaseView_setChan (f : Fe) (c : Nat) (x : Chan) : leaseView (f.setChan c x) = leaseView f := rfl
theorem leaseView_pushSorter (f : Fe) (g : Nat) (x : SortItem) : leaseView (f.pushSorter g x) = leaseView f := rfl
theorem leaseView_merger (f : Fe) (m : List SortItem) : leaseView { f with merger := m } = leaseView f := rfl
theorem leaseView_free (f : Fe) (n : Nat) : leaseView { f with free := n } = leaseView f := rfl

theorem leaseView_closeReport (f : Fe) (c : Nat) (rel : Bool) : leaseView (f.closeReport c rel) = leaseView f := by
  rw [fe_closeReport_frame]; rfl

theorem leaseView_lose (f : Fe) (c : Nat) (k : LossCause) (e t : Nat) : leaseView (f.lose c k e t) = leaseView f := by
  have counted : leaseView (f.countEntry O.lostHits 32 c) = leaseView f := leaseView_put f _ (by decide)
  obtain ⟨g, r, lost, rfl | rfl⟩ := fe_lose_eq f c k e t
  · rw [lost, leaseView_setChan, counted]
  · rw [lost, leaseView_setChan, leaseView_closeReport, counted]

theorem leaseView_derandWrite (f : Fe) (c : Nat) (h : HitEntry) (reading : Bool) :
    leaseView (f.derandWrite c h reading) = leaseView f := by
  unfold Fe.derandWrite
  dsimp only
  generalize drawn : (if 32 ≤ (f.chan c).derand.length then (true, f) else if 30 ≤ (f.chan c).derand.length then f.drawBool
    else (false, f)) = d
  have same : leaseView d.2 = leaseView f := by
    subst drawn
    split
    · rfl
    · split <;> rfl
  refine leaseView_ite ?_ ((leaseView_setChan ..).trans same)
  split
  · exact (leaseView_setChan ..).trans same
  · exact (leaseView_lose ..).trans ((leaseView_setChan ..).trans same)

theorem leaseView_scale (f : Fe) (c src : Nat) : leaseView (f.scale c src) = leaseView f := leaseView_ite (leaseView_setChan ..) rfl

theorem leaseView_finishHit (f : Fe) (c tot ups : Nat) (reading : Bool) : leaseView (f.finishHit c tot ups reading) = leaseView f := by
  unfold Fe.finishHit
  split
  · rfl
  · dsimp only
    rw [leaseView_scale, leaseView_derandWrite, leaseView_setChan]

theorem leaseView_flushChan (f : Fe) (c : Nat) : leaseView (f.flushChan c) = leaseView f := by
  unfold Fe.flushChan
  dsimp only
  rw [leaseView_foldl (fun _ _ => leaseView_pushSorter ..), leaseView_setChan]
  split
  · rfl
  · exact (leaseView_finishHit ..).trans (leaseView_free ..)

theorem leaseView_flushGroup (f : Fe) (g : Nat) : leaseView (f.flushGroup g) = leaseView f :=
  leaseView_foldl (fun _ _ => leaseView_flushChan ..) _ f

theorem leaseView_sleepGroup (f : Fe) (g : Nat) : leaseView (f.sleepGroup g) = leaseView f := by
  unfold Fe.sleepGroup
  dsimp only
  rw [Fe.groupEvent, leaseView_pushSorter, leaseView_setGroup, leaseView_flushGroup]

theorem leaseView_sleepAll (f : Fe) : leaseView f.sleepAll = leaseView f := by
  refine leaseView_foldl (fun f g => ?_) _ f
  split
  · rfl
  · exact leaseView_sleepGroup ..

/-! ## The base clock follows the lease (R329) -/

theorem leaseView_mode (f : Fe) (m : Nat) : leaseView { f with sys := { f.sys with mode := m } } = leaseView f := rfl
theorem leaseView_crystal (f : Fe) (b : Bool) : leaseView { f with crystalQ := b } = leaseView f := rfl

theorem leaseView_baseLoss (f : Fe) : leaseView f.baseLoss = leaseView f := by
  unfold Fe.baseLoss
  refine leaseView_ite rfl (leaseView_ite ?_ ?_)
  · exact (leaseView_crystal ..).trans ((leaseView_count _ _ (by decide)).trans (leaseView_put _ _ (by decide)))
  · dsimp only
    rw [leaseView_put _ _ (by decide), leaseView_mode, leaseView_sleepAll, leaseView_put _ _ (by decide)]

theorem leaseView_baseReturn (f : Fe) (side : Nat) : leaseView (f.baseReturn side) = leaseView f := by
  have returned : leaseView (f.baseReturn side) =
      leaseView ((f.setSide side { f.side side with grid := f.gridFrom (f.side side) }).put O.baseSource (side + 1)) := rfl
  rw [returned, leaseView_put _ _ (by decide), leaseView_setSide]

theorem leaseView_reclock (f : Fe) : leaseView f.reclock = leaseView f := by
  unfold Fe.reclock
  refine leaseView_ite (leaseView_ite rfl (leaseView_ite ?_ (leaseView_baseReturn ..))) (leaseView_baseLoss f)
  rw [leaseView_baseReturn, leaseView_baseLoss]

theorem leaseView_dropMerger (f : Fe) : leaseView f.dropMerger = leaseView f :=
  (leaseView_merger ..).trans (leaseView_count _ _ (by decide))

theorem leaseView_leaseAck (f : Fe) (side result : Nat) : leaseView (f.leaseAck side result) = leaseView f := leaseView_setSide ..

theorem leaseView_take (f : Fe) (side : Nat) (ws : List Word) : leaseView (f.take side ws) = leaseView f := rfl

/-! ## The lease commands -/

theorem leaseView_putHolder (f : Fe) (v : Nat) : leaseView (f.put O.leaseHolder v) = { leaseView f with holder := v } := by
  have number := fe_get_put_other f (o := O.leaseHolder) (p := O.leaseNumber) (i := 0) (j := 0) v (by decide)
  have grants := fe_get_put_other f (o := O.leaseHolder) (p := O.leaseGrants) (i := 0) (j := 0) v (by decide)
  have refusals := fe_get_put_other f (o := O.leaseHolder) (p := O.leaseRefusals) (i := 0) (j := 0) v (by decide)
  simp only [leaseView, fe_get_put, number, grants, refusals, fe_put_tick, fe_put_sys]

theorem leaseView_putNumber (f : Fe) (v : Nat) : leaseView (f.put O.leaseNumber v) = { leaseView f with number := v } := by
  have holder := fe_get_put_other f (o := O.leaseNumber) (p := O.leaseHolder) (i := 0) (j := 0) v (by decide)
  have grants := fe_get_put_other f (o := O.leaseNumber) (p := O.leaseGrants) (i := 0) (j := 0) v (by decide)
  have refusals := fe_get_put_other f (o := O.leaseNumber) (p := O.leaseRefusals) (i := 0) (j := 0) v (by decide)
  simp only [leaseView, fe_get_put, holder, grants, refusals, fe_put_tick, fe_put_sys]

theorem leaseView_countGrants (f : Fe) :
    leaseView (f.count O.leaseGrants) = { leaseView f with grants := satAdd 32 (leaseView f).grants 1 } := by
  have holder := fe_get_put_other f (o := O.leaseGrants) (p := O.leaseHolder) (i := 0) (j := 0)
  have number := fe_get_put_other f (o := O.leaseGrants) (p := O.leaseNumber) (i := 0) (j := 0)
  have refusals := fe_get_put_other f (o := O.leaseGrants) (p := O.leaseRefusals) (i := 0) (j := 0)
  simp only [leaseView, Fe.count, fe_get_put, holder _ (by decide), number _ (by decide), refusals _ (by decide), fe_put_tick,
    fe_put_sys]
  rfl

theorem leaseView_countRefusals (f : Fe) : leaseView (f.count O.leaseRefusals) = (leaseView f).refused := by
  have holder := fe_get_put_other f (o := O.leaseRefusals) (p := O.leaseHolder) (i := 0) (j := 0)
  have number := fe_get_put_other f (o := O.leaseRefusals) (p := O.leaseNumber) (i := 0) (j := 0)
  have grants := fe_get_put_other f (o := O.leaseRefusals) (p := O.leaseGrants) (i := 0) (j := 0)
  simp only [leaseView, Fe.count, fe_get_put, holder _ (by decide), number _ (by decide), grants _ (by decide), fe_put_tick,
    fe_put_sys]
  rfl

theorem leaseView_timer (f : Fe) (ends : Option Nat) (discard : Bool) (await : Option Nat) :
    leaseView (f.withSys fun y => { y with leaseEnd := ends, discard := discard, awaitMark := await }) =
      { leaseView f with ends := ends } := rfl

theorem leaseView_renewal (f : Fe) (ends : Option Nat) :
    leaseView (f.withSys fun y => { y with leaseEnd := ends }) = { leaseView f with ends := ends } := rfl

theorem leaseView_refuse (f : Fe) (side result : Nat) : leaseView (f.refuse side result) = (leaseView f).refused :=
  (leaseView_leaseAck ..).trans (leaseView_countRefusals f)

theorem leaseView_expire (f : Fe) : leaseView f.expire = { leaseView f with holder := 0, ends := none } := by
  unfold Fe.expire
  dsimp only
  rw [leaseView_reclock, leaseView_dropMerger, Fe.dropPartial, leaseView_setSide, leaseView_timer, leaseView_count _ _ (by decide),
    leaseView_putHolder]

theorem leaseView_lapse (f : Fe) : leaseView f.lapse = (leaseView f).lapsed := by
  unfold Fe.lapse LeaseView.lapsed
  cases timer : f.sys.leaseEnd with
  | none =>
    have ends : (leaseView f).ends = none := timer
    rw [ends]
  | some e =>
    have ends : (leaseView f).ends = some e := timer
    rw [ends]
    dsimp only
    by_cases late : e < f.ao
    · rw [if_pos late, leaseView_expire]
      exact (if_pos late).symm
    · rw [if_neg late]
      exact (if_neg late).symm

/-- The front-end with the lease granted to a side, before its answer. -/
def leaseGrant (f : Fe) (side : Nat) : Fe :=
  let f := ((f.put O.leaseHolder (side + 1)).put O.leaseNumber ((f.get O.leaseNumber + 1) % 2 ^ 32)).count O.leaseGrants
  let f := f.withSys fun y => { y with leaseEnd := some (f.ao + leaseTicks), discard := true, awaitMark := some f.epoch.idx }
  f.dropMerger.reclock

theorem leaseView_leaseGrant (f : Fe) (side : Nat) : leaseView (leaseGrant f side) = (leaseView f).granted side := by
  unfold leaseGrant
  dsimp only
  rw [leaseView_reclock, leaseView_dropMerger, leaseView_timer, leaseView_countGrants, leaseView_putNumber, leaseView_putHolder]
  rfl

theorem leaseClaim_granted {f : Fe} {side : Nat} {both : Bool} (free : f.lapse.get O.leaseHolder = 0)
    (first : ¬(side = 1 ∧ both = true)) : f.leaseClaim side both = (leaseGrant f.lapse side).leaseAck side 1 := by
  simp only [Fe.leaseClaim, free, first, if_false]
  rfl

theorem leaseClaim_refused {f : Fe} {side : Nat} {both : Bool} (held : f.lapse.get O.leaseHolder ≠ 0 ∨ (side = 1 ∧ both = true)) :
    ∃ result, f.leaseClaim side both = f.lapse.refuse side result := by
  unfold Fe.leaseClaim
  dsimp only
  split
  · next free => exact ⟨3, if_pos (held.resolve_left (not_not.2 free))⟩
  · exact ⟨_, rfl⟩

theorem leaseRenew_renewed {f : Fe} {side number : Nat} (own : f.lapse.get O.leaseHolder = side + 1)
    (current : number = f.lapse.get O.leaseNumber) :
    f.leaseRenew side number = (f.lapse.withSys fun y => { y with leaseEnd := some (f.lapse.ao + leaseTicks) }).leaseAck side 2 := by
  simp only [Fe.leaseRenew, own, current, ne_eq, not_true_eq_false, if_false]

theorem leaseRenew_refused {f : Fe} {side number : Nat}
    (other : f.lapse.get O.leaseHolder ≠ side + 1 ∨ number ≠ f.lapse.get O.leaseNumber) :
    ∃ result, f.leaseRenew side number = f.lapse.refuse side result := by
  unfold Fe.leaseRenew
  dsimp only
  split
  · exact ⟨6, rfl⟩
  · by_cases foreign : f.lapse.get O.leaseHolder ≠ side + 1
    · exact ⟨3, if_pos foreign⟩
    · exact ⟨4, (if_neg foreign).trans (if_pos (other.resolve_left foreign))⟩

/-! ## The timer -/

namespace LeaseView

theorem lapsed_tick (v : LeaseView) : v.lapsed.tick = v.tick := by
  unfold lapsed
  split
  · split <;> rfl
  · rfl

theorem lapsed_number (v : LeaseView) : v.lapsed.number = v.number := by
  unfold lapsed
  split
  · split <;> rfl
  · rfl

theorem lapsed_grants (v : LeaseView) : v.lapsed.grants = v.grants := by
  unfold lapsed
  split
  · split <;> rfl
  · rfl

theorem lapsed_refusals (v : LeaseView) : v.lapsed.refusals = v.refusals := by
  unfold lapsed
  split
  · split <;> rfl
  · rfl

/-- A timer that still runs, or none, lapses nothing. -/
theorem lapsed_of_ahead {v : LeaseView} (ahead : ∀ e, v.ends = some e → v.ao ≤ e) : v.lapsed = v := by
  unfold lapsed
  split
  · next e timer => exact if_neg (Nat.not_lt.2 (ahead e timer))
  · rfl

theorem lapsed_ahead (v : LeaseView) (e : Nat) (timer : v.lapsed.ends = some e) : v.lapsed.ao ≤ e := by
  unfold lapsed at timer ⊢
  split at timer
  · next t ends =>
    split at timer
    · exact nomatch timer
    · next late =>
      rw [ends] at timer
      obtain rfl := Option.some.inj timer
      rw [if_neg late]
      exact Nat.not_lt.1 late
  · next ends => rw [ends] at timer; exact nomatch timer

/-- A refusal changes neither holder nor timer. -/
theorem now_refused (v : LeaseView) : v.lapsed.refused.now = v.now := by
  have stays : v.lapsed.refused.lapsed = v.lapsed.refused := lapsed_of_ahead (lapsed_ahead v)
  rw [now, stays]
  rfl

/-- A renewal sets the timer of the holder. -/
theorem now_renewed {v : LeaseView} {h : Nat} (held : v.lapsed.holder = h + 1) :
    v.lapsed.renewed.now = some (h + 1, some (v.ao + leaseTicks)) := by
  have ahead : v.lapsed.renewed.lapsed = v.lapsed.renewed := lapsed_of_ahead fun e timer => by
    obtain rfl := Option.some.inj timer
    exact Nat.le_add_right _ _
  have holder : v.lapsed.renewed.holder = h + 1 := held
  have ends : v.lapsed.renewed.ends = some (v.ao + leaseTicks) := by
    simp only [renewed, ao, lapsed_tick]
  rw [now, ahead, holder, ends, if_neg (Nat.succ_ne_zero h)]

theorem now_eq_none {v : LeaseView} : v.now = none ↔ v.lapsed.holder = 0 := by
  unfold now
  split
  · next free => exact ⟨fun _ => free, fun _ => rfl⟩
  · next held => exact ⟨nofun, fun free => absurd free held⟩

theorem now_eq_some {v : LeaseView} {h : Nat} {e : Option Nat} (held : v.now = some (h, e)) : v.lapsed.holder = h := by
  unfold now at held
  split at held
  · exact nomatch held
  · exact (Prod.mk.inj (Option.some.inj held)).1

end LeaseView

theorem leaseNow_eq (f : Fe) : f.leaseNow = (leaseView f).now := by
  rw [LeaseView.now, ← leaseView_lapse]
  rfl

/-! ## The obligation -/

theorem exec_leaseClaim {s : State} {side : Nat} {w : Word} (both : Bool) (hs : side < 2) (claim : opcodeIs 0x06 w = true)
    (up : s.fe.up = true) :
    exec (.leaseClaim side w both) s = .next { s with fe := (s.fe.take side [w]).leaseClaim side both } := exec_onFe rfl up

theorem exec_leaseRenew {s : State} {side : Nat} {w : Word} (hs : side < 2) (renewal : opcodeIs 0x05 w = true) (up : s.fe.up = true) :
    exec (.leaseRenew side w) s = .next { s with fe := (s.fe.take side [w]).leaseRenew side (bits w.toNat 31 0) } :=
  exec_onFe rfl up

theorem leaseView_claim_granted {f : Fe} {side : Nat} {both : Bool} (free : f.leaseNow = none) (first : ¬(side = 1 ∧ both = true)) :
    leaseView (f.leaseClaim side both) = (leaseView f).lapsed.granted side := by
  rw [leaseNow_eq, LeaseView.now_eq_none, ← leaseView_lapse] at free
  rw [leaseClaim_granted free first, leaseView_leaseAck, leaseView_leaseGrant, leaseView_lapse]

theorem leaseView_claim_refused {f : Fe} {side : Nat} {both : Bool} (held : f.leaseNow ≠ none ∨ (side = 1 ∧ both = true)) :
    leaseView (f.leaseClaim side both) = (leaseView f).lapsed.refused := by
  rw [leaseNow_eq, ne_eq, LeaseView.now_eq_none, ← leaseView_lapse] at held
  obtain ⟨result, refused⟩ := leaseClaim_refused held
  rw [refused, leaseView_refuse, leaseView_lapse]

theorem leaseView_renewed {f : Fe} {side number : Nat} (own : (leaseView f).lapsed.holder = side + 1)
    (current : number = f.get O.leaseNumber) : leaseView (f.leaseRenew side number) = (leaseView f).lapsed.renewed := by
  have same : f.lapse.get O.leaseNumber = f.get O.leaseNumber :=
    (congrArg LeaseView.number (leaseView_lapse f)).trans (LeaseView.lapsed_number _)
  rw [← leaseView_lapse] at own
  rw [leaseRenew_renewed own (current.trans same.symm), leaseView_leaseAck, leaseView_renewal, ← leaseView_lapse]
  rfl

theorem leaseView_renew_refused {f : Fe} {side number : Nat}
    (other : (leaseView f).lapsed.holder ≠ side + 1 ∨ number ≠ f.get O.leaseNumber) :
    leaseView (f.leaseRenew side number) = (leaseView f).lapsed.refused := by
  have same : f.lapse.get O.leaseNumber = f.get O.leaseNumber :=
    (congrArg LeaseView.number (leaseView_lapse f)).trans (LeaseView.lapsed_number _)
  rw [← leaseView_lapse, ← same] at other
  obtain ⟨result, refused⟩ := leaseRenew_refused other
  rw [refused, leaseView_refuse, leaseView_lapse]

theorem bits_low (w : Nat) : bits w 31 0 = w % 2 ^ 32 := by simp [bits]

theorem leaseNow_take (f : Fe) (side : Nat) (ws : List Word) : (f.take side ws).leaseNow = f.leaseNow := by
  rw [leaseNow_eq, leaseNow_eq, leaseView_take]

theorem lapsed_ao (f : Fe) : (leaseView f).lapsed.ao = f.ao := by rw [LeaseView.ao, LeaseView.lapsed_tick]; rfl

/-- What a refusal leaves: the holder, the timer and the number. -/
theorem of_refused {f g : Fe} (refused : leaseView g = (leaseView f).lapsed.refused) :
    g.leaseNow = f.leaseNow ∧ g.get O.leaseNumber = f.get O.leaseNumber ∧
      g.get O.leaseRefusals = satAdd 32 (f.get O.leaseRefusals) 1 := by
  refine ⟨?_, ?_, ?_⟩
  · rw [leaseNow_eq, leaseNow_eq, refused, LeaseView.now_refused]
  · exact (congrArg LeaseView.number refused).trans (LeaseView.lapsed_number _)
  · exact (congrArg LeaseView.refusals refused).trans (congrArg (satAdd 32 · 1) (LeaseView.lapsed_refusals _))

theorem of_granted {f g : Fe} {side : Nat} (granted : leaseView g = (leaseView f).lapsed.granted side) :
    g.get O.leaseHolder = side + 1 ∧ g.get O.leaseNumber = (f.get O.leaseNumber + 1) % 2 ^ 32 ∧
      g.sys.leaseEnd = some (f.ao + 50000) ∧ g.get O.leaseGrants = satAdd 32 (f.get O.leaseGrants) 1 := by
  refine ⟨congrArg LeaseView.holder granted, ?_, ?_, ?_⟩
  · exact (congrArg LeaseView.number granted).trans (congrArg (fun n => (n + 1) % 2 ^ 32) (LeaseView.lapsed_number _))
  · exact (congrArg LeaseView.ends granted).trans (congrArg (fun t => some (t + leaseTicks)) (lapsed_ao f))
  · exact (congrArg LeaseView.grants granted).trans (congrArg (satAdd 32 · 1) (LeaseView.lapsed_grants _))

theorem of_renewed {f g : Fe} {side : Nat} (own : (leaseView f).lapsed.holder = side + 1)
    (renewed : leaseView g = (leaseView f).lapsed.renewed) :
    g.leaseNow = some (side + 1, some (f.ao + 50000)) ∧ g.get O.leaseNumber = f.get O.leaseNumber ∧
      g.get O.leaseRefusals = f.get O.leaseRefusals := by
  refine ⟨?_, ?_, ?_⟩
  · rw [leaseNow_eq, renewed, LeaseView.now_renewed own]
    rfl
  · exact (congrArg LeaseView.number renewed).trans (LeaseView.lapsed_number _)
  · exact (congrArg LeaseView.refusals renewed).trans (LeaseView.lapsed_refusals _)

theorem leaseNow_of_holder {f : Fe} {h : Nat} (held : (leaseView f).lapsed.holder = h + 1) :
    f.leaseNow = some (h + 1, (leaseView f).lapsed.ends) := by
  rw [leaseNow_eq, LeaseView.now, held, if_neg (Nat.succ_ne_zero h)]

/-- Settles O24: every command judges the timer, then grants, renews or refuses. -/
theorem leaseCommandsKeepTheLease : Obligations.LeaseCommandsKeepTheLease := by
  refine ⟨fun s side w both hs claim up => ⟨_, exec_leaseClaim both hs claim up, rfl, rfl, fun free => ?_, fun held => ?_⟩,
    fun s side w hs renewal up => ?_, fun s e up timer => ⟨fun late => ?_, fun early => ?_⟩⟩
  · obtain ⟨none, first⟩ := free
    exact of_granted (f := s.fe) (leaseView_claim_granted (by rw [leaseNow_take, none]) first)
  · exact of_refused (f := s.fe) (leaseView_claim_refused (by rwa [leaseNow_take]))
  · refine ⟨_, exec_leaseRenew hs renewal up, rfl, rfl, ?_⟩
    rw [bits_low]
    by_cases mine : (leaseView s.fe).lapsed.holder = side + 1 ∧ w.toNat % 2 ^ 32 = s.fe.get O.leaseNumber
    · obtain ⟨own, current⟩ := mine
      obtain ⟨now, number, refusals⟩ := of_renewed (f := s.fe) own
        (leaseView_renewed (f := s.fe.take side [w]) own current)
      refine ⟨number, fun e _ _ => ⟨now, refusals⟩, fun other => ?_⟩
      exact absurd other (not_or.2 ⟨fun none => none _ (leaseNow_of_holder own), not_not.2 current⟩)
    · have other := not_and_or.1 mine
      obtain ⟨now, number, refusals⟩ := of_refused (f := s.fe) (leaseView_renew_refused (f := s.fe.take side [w]) other)
      refine ⟨number, fun e held current => ?_, fun _ => ⟨now, refusals⟩⟩
      rw [leaseNow_eq] at held
      exact absurd ⟨LeaseView.now_eq_some held, current⟩ mine
  · have lapses : s.fe.lapse = s.fe.expire := by simp only [Fe.lapse, timer, late, if_true]
    have expired := leaseView_expire s.fe
    refine ⟨{ s with fe := s.fe.expire }, exec_onFe rfl up (done := by rw [lapses]), rfl, ?_, ?_⟩
    · exact congrArg LeaseView.holder expired
    · exact congrArg LeaseView.ends expired
  · have stays : s.fe.lapse = s.fe := by simp only [Fe.lapse, timer, Nat.not_lt.2 early, if_false]
    exact exec_onFe rfl up (done := by rw [stays])

end Sys2Proof.Proofs
end
